-- ==== Sys2Proof/Word.lean ====
section
/-!
DEFINITION. The widths of the register file (R9, R12) and their plainest splits and joins.
-/

namespace Sys2Proof

/-- One byte of an addressed store. -/
abbrev Byte := BitVec 8
/-- A register (R9). -/
abbrev Word := BitVec 32
/-- A 64-bit value that occupies a LO and a HI register (R12). -/
abbrev DWord := BitVec 64

/-- Bits [31:0] of a 64-bit value: the LO register (R12). -/
def loHalf (d : DWord) : Word := d.extractLsb' 0 32
/-- Bits [63:32] of a 64-bit value: the HI register (R12). -/
def hiHalf (d : DWord) : Word := d.extractLsb' 32 32
/-- The 64-bit value of a HI and a LO register (R12). -/
def joinHalves (hi lo : Word) : DWord := hi ++ lo

/-- The field [hi:lo] of a register as a number (R10). -/
def field (w : Word) (hi lo : Nat) : Nat := (w.toNat >>> lo) % 2 ^ (hi + 1 - lo)
/-- The field [hi:lo] of a 64-bit register as a number (R10). -/
def field64 (w : DWord) (hi lo : Nat) : Nat := (w.toNat >>> lo) % 2 ^ (hi + 1 - lo)
/-- Bit `i` of a register (R10). -/
def bit (w : Word) (i : Nat) : Bool := w.getLsbD i

end Sys2Proof
end

