-- ==== Sys2Proof/Machine/Types.lean ====
section
/-!
DEFINITION. The data the commands carry and the state is made of: masters, functions, ranges, image
contents, coefficient banks, readings of the analog world, messages, frames and descriptors.
-/

namespace Sys2Proof.Machine

/-- The masters of R13; their lock owner ids stand in R341. -/
inductive Master where
  | host | appCore | secCore | seq0 | seq1 | seq2 | seq3 | ringAgent
  deriving DecidableEq, Repr

/-- The eight device modes (R38). -/
inductive Mode where
  | bypass | boot | safe | ready | run | hold | lockdown | opened
  deriving DecidableEq, Repr

/-- The channel states (R64). -/
inductive ChState where
  | stopped | starting | running | safed
  deriving DecidableEq, Repr

/-- The channel functions (R70). -/
inductive Func where
  | off | fv | fi | mv | mi | servo
  deriving DecidableEq, Repr

/-- What the front end does with the terminal: high impedance, the initial state of R45 and R96, the
source DAC at zero while STARTING (R65), the selector's demand, an MV channel's measuring (R70), the safe states ZERO and HOLD of R97,
the RAMP_ZERO ramp and the 0 A that ends it (R98). -/
inductive OutState where
  | hiz | initial | dacZero | driven | measure | zero | holdV (volts : Rat) | ramp | rampEnd
  deriving DecidableEq, Repr

/-- The initial state an image gives a channel (R45, R96). -/
inductive InitState where
  | hiz | fv (volts : Rat) | mi | mv
  deriving DecidableEq, Repr

/-- The states of a sweep list (R176). -/
inductive ListState where
  | idle | armed | waiting | playing | paused | done | aborted
  deriving DecidableEq, Repr

/-- SW_STATUS.CAUSE (R392). -/
inductive ListCause where
  | none | stepBad | timeout | stop | fault
  deriving DecidableEq, Repr

/-- CH_CAL_STAT.CAUSE (R214). -/
inductive CalCause where
  | none | disagree | trimEnd | fault | estop | repair | lockdown
  deriving DecidableEq, Repr

/-- The kinds of a calibration run (R189, R208). -/
inductive RunKind where
  | inPlace | takeover | termOpen | termShort
  deriving DecidableEq, Repr

/-- Where a run stands: parallel interval of the takeover, at the reference tap, verdict given and
record or trims being committed, prepared for the hand-back, boundary h reached (R196 to R206). -/
inductive RunPhase where
  | taking | measuring | committing | prepared | handing
  deriving DecidableEq, Repr

/-- A quadrature transition as the filtered inputs show it (R158). -/
inductive QuadEdge where
  | up | down | illegal
  deriving DecidableEq, Repr

/-- The accounts of the deadline ledger with their instance (R219, codes in R273). -/
inductive Account where
  | engine (unit : Fin 144) | spare (comb : Fin 16) | sequencer (region : Fin 4)
  | crossbar (region : Fin 4) | causeway (die : Fin 2) | store | ringSlots
  deriving DecidableEq, Repr

/-- The flash the loader's probe finds (R49). -/
inductive Flash where
  | absent | serial | octal
  deriving DecidableEq, Repr

/-- The TAP instructions of R351 other than DBG_OPEN. -/
inductive TapIr where
  | idcode | bypass | sample | extest | debugCore | debugFabric
  deriving DecidableEq, Repr

/-- The coefficients of one contender in one bank (R151), as binary64 registers (R389). -/
structure Coef where
  kp : DWord
  ki : DWord
  kd : DWord
  tf : DWord
  kvff : DWord
  kaff : DWord
  intLo : DWord
  intHi : DWord
  outLo : DWord
  outHi : DWord
  refConst : DWord
  deriving DecidableEq, Repr

/-- One coefficient bank (R151, R389). `ma` holds MA(i, j) at 4 × i + j. -/
structure Bank where
  ct : Vector Coef 4
  ma : Vector DWord 16
  mb : Vector DWord 4
  mc : Vector DWord 4
  ml : Vector DWord 4
  khold : Vector DWord 4
  dbias : DWord
  resLim : DWord
  resCnt : DWord
  frzCnt : DWord
  frzLsb : DWord
  frzDrive : DWord
  deriving DecidableEq, Repr

/-- A booster range an image declares: code 8 to 11, full scale in A, shunt in Ω (R89). -/
structure Booster where
  code : Nat
  fullScale : Rat
  shunt : Rat
  deriving DecidableEq, Repr

/-- The configuration of one channel: what the image gives it and structural writes change (R69,
R384, R387, R390, R391). -/
structure ChCfg where
  func : Func
  vInit : Nat
  iInit : Nat
  vTable : List Nat
  iTable : List Nat
  boosters : List Booster
  connectAtSafe : Bool
  init : InitState
  compHi : DWord
  compLo : DWord
  fe : Word
  ar : Word
  safe : Word
  holdComp : DWord
  dac : Word
  dec : Word
  supv : DWord
  lpCfg : Word
  ctCfg : Vector Word 4
  ctFb : Vector Word 4
  bankA : Bank
  bankB : Bank
  pgInit : DWord
  pgVmax : DWord
  pgAmax : DWord
  pgJmax : DWord
  pgLimLo : DWord
  pgLimHi : DWord
  pgCfg : Word
  swBase : DWord
  swLen : Word
  deriving DecidableEq, Repr

/-- A store partition as the image declares it: BASE and SIZE in MiB (R238, R369). -/
structure Part where
  base : Nat
  size : Nat
  type : Nat
  deriving DecidableEq, Repr

/-- A region timer of an image (R183, R377). -/
structure ImgTimer where
  region : Fin 4
  timer : Fin 16
  cfg : Word
  start : DWord
  period : DWord
  count : Word
  deriving DecidableEq, Repr

/-- An encoder input of an image (R157 to R160, R377). -/
structure ImgEnc where
  enc : Fin 32
  cfg : Word
  errRun : Word
  cpr : Word
  offset : DWord
  scale : DWord
  deriving DecidableEq, Repr

/-- A capture stream of an image, and whether the image opens it at READY (R55, R243). -/
structure ImgStream where
  stream : Fin 2048
  cfg : Word
  age : Word
  opens : Bool
  deriving DecidableEq, Repr

/-- A stream queue of an image (R255, R366). -/
structure ImgQueue where
  queue : Fin 32
  cfg : Word
  dest : Word
  deriving DecidableEq, Repr

/-- A parsed Korvorid image: everything a BOOT loads (R50, R356). `formatOk` says that the body
parses; `sram` is the hive SRAM it asks for in bytes (R20). -/
structure Image where
  formatOk : Bool
  auto : Bool
  frame : Nat
  startSet : List (Fin 128)
  armed : List (Fin 128)
  channels : List (Fin 128 × ChCfg)
  parts : List (Fin 31 × Part)
  tables : List (Nat × List Byte)
  streams : List ImgStream
  ringCfgs : List (Fin 31 × Word)
  queues : List ImgQueue
  wmMaps : List (Fin 4 × Word)
  trigs : List (Fin 16 × Word)
  timers : List ImgTimer
  encoders : List ImgEnc
  sram : Nat
  calAuto : Bool
  jxCfg : Word
  jxTxShare : Word
  jxLossTmo : Word
  rxRings : List (Fin 8 × Word)
  deriving DecidableEq, Repr

/-- What the secure core finds when it checks its two regions at a start: the key store, and the two slots of the
provisioning record (R345). -/
structure SecureCheck where
  keyStoreOk : Bool
  slotAOk : Bool
  slotBOk : Bool
  deriving DecidableEq, Repr

/-- The world's part of POWER_GOOD: the level of REFCLK_SEL (R229), and the secure core's checks where PORST_N rises in
OPEN (R40, R345). -/
structure PowerUp where
  refclkSel : Bool
  check : SecureCheck
  deriving DecidableEq, Repr

/-- The world's part of a debug opening: whether the key store reads all zeros within three tries (R353), and the secure
core's checks when it starts again after step 3 (R345). -/
structure OpenReport where
  eraseOk : Bool
  check : SecureCheck
  deriving DecidableEq, Repr

/-- A slot of the provisioning record (R345, R346): SEQ in the order of R202, the two public keys and DBG_POLICY. -/
structure ProvRecord where
  seq : Nat
  imgKey : Option (BitVec 768)
  hostKey : Option (BitVec 768)
  policy : Nat
  deriving DecidableEq, Repr

/-- How the reads of host memory for a descriptor end: all right, a completion error or timeout on its data, or one on
the descriptor itself (R333). -/
inductive DmaRead where
  | ok | dataError | descError
  deriving DecidableEq, Repr

/-- The general digital lands of R410 that the boundary-scan chain holds and this model has: TRIG, SQ_WM, WAGGLE,
ESTOP_N, PORST_N and PE_PERST_N (R351). -/
structure BoundaryScan where
  trig : Vector Bool 16
  sqWm : Vector Bool 4
  waggle : Bool
  estopN : Bool
  porstN : Bool
  perstN : Bool
  deriving DecidableEq, Repr

/-- What the world shows the loader while one BOOT step runs (R49, R50, R53): each step reads the
fields its row names. The verdicts of cryptographic checks, over the image bytes and over the two regions
the secure core checks at its start (R345), are part of it; `micros` is the time since BOOT began. -/
structure BootReport where
  secure : SecureCheck
  pllLocked : Bool
  causewaysTrained : Bool
  storeTrained : Bool
  flash : Flash
  headerOk : Bool
  length : Nat
  flashSize : Nat
  encrypted : Bool
  hash : BitVec 384
  body : List Byte
  signatureOk : Bool
  tagOk : Bool
  image : Image
  micros : Nat
  deriving DecidableEq, Repr

/-- What the converters, comparators and decimators deliver for one channel at a frame boundary:
loop SENSE, MEAS and MON in SI units with the serving unit's trims applied (R117, R123), MEAS formed with the
gain of the new range too (R82 step 3), the voltage at FRC and the current through it as the front end's
comparators see them at the frame's end (R78, R79), the difference FRC − SNS (R93) and the overrange marks
(R115). On a booster channel `meas` and `measNew` are the voltage from BISNn to FRCn (R90). -/
structure Reading where
  sense : Rat
  meas : Rat
  measNew : Rat
  mon : Rat
  frc : Rat
  amps : Rat
  lead : Rat
  ovrSense : Bool
  ovrMeas : Bool
  deriving DecidableEq, Repr

/-- The world's part of a FRAME_BOUNDARY: readings by channel (a channel not listed reads 0 with no
mark), the raw codes of the frame that ends by capture stream (R126, R127), CSL by comb in V (R94), the rail voltages (R149, R362), and the crossbar paths found in the wrong position (R104). -/
structure FrameInputs where
  readings : List (Fin 128 × Reading)
  raw : List (Fin 2048 × List Nat)
  csl : List (Fin 16 × Rat)
  rails : Vector Rat 7
  crossbarBad : List (Fin 16 × Fin 9)
  deriving DecidableEq, Repr

/-- A message to the fault collector without its stamp (R269). -/
structure Msg where
  kind : Nat
  source : Nat
  detail : Nat
  deriving DecidableEq, Repr

/-- A message in the collector's inputs with the tick that stamps it (R269). -/
structure Stamped where
  msg : Msg
  tick : Nat
  deriving DecidableEq, Repr

/-- A Jaxier frame (R301). `crc` is the CRC the trailer carries. -/
structure Frame where
  type : Nat
  dst : Nat
  src : Nat
  hops : Nat
  len : Nat
  seq : Nat
  arg : Nat
  payload : List Byte
  poison : Bool
  crc : Word
  deriving DecidableEq, Repr

/-- A DMA descriptor as the engine reads it from host memory (R331). -/
structure Desc where
  haddr : Nat
  maddr : Nat
  len : Nat
  op : Nat
  flags : Nat
  deriving DecidableEq, Repr

/-- An item of a stream queue (R254). -/
structure QItem where
  data : DWord
  tag : Byte
  deriving DecidableEq, Repr

/-- What the stream port sends: training slots, or a slot of 5 unit intervals over its 16 lanes (R419). -/
inductive StreamSlot where
  | training (n : Nat)
  | data (ui : Vector (BitVec 16) 5)
  deriving DecidableEq, Repr

/-- An averaged pair with its marks: a high-resolution value or an aperture result (R119, R120). -/
structure Aperture where
  sense : Rat
  meas : Rat
  ovr : Bool
  ranging : Bool
  deriving DecidableEq, Repr

/-- What a comparator of a channel's terminal sees; `normal` says that in a parallel interval it is the normal unit's
(R79, R91, R271). -/
structure Trip where
  ch : Fin 128
  level : Rat
  normal : Bool
  deriving DecidableEq, Repr

/-- One of the units at a channel's terminal: in a parallel interval its normal unit, or the spare (R206, R271). -/
structure Server where
  ch : Fin 128
  normal : Bool
  deriving DecidableEq, Repr

/-- Whether a slot reads back right after its first write, and after the second one (R202). -/
structure SlotCheck where
  first : Bool
  second : Bool
  deriving DecidableEq, Repr

/-- A frame in transit and its residence in the member, in 2^−10 tick (R304, R313). -/
structure Passing where
  frame : Frame
  residence : Nat
  deriving DecidableEq, Repr

/-- The address of a register access and its byte enables (R9, R328). -/
structure BusAddr where
  addr : Nat
  be : BitVec 4
  deriving DecidableEq, Repr

/-- The trims of a unit as the record lays them out, bytes 32 to 383 (R198, R201): DAC_TRIM, SENSE_TRIM,
MEAS_TRIM, CMP_THR, DEM_TAP and CW_TAP. -/
structure Trims where
  dac : Vector Byte 44
  sense : Vector Byte 12
  meas : Vector Byte 36
  cmp : Vector Byte 189
  dem : Vector Byte 63
  cw : Vector Byte 8
  deriving DecidableEq, Repr

/-- What an internal run measures (R198, R199): the trims it has set, whether a trim ended at the last step of
its span, the largest difference of first and repeat values in ppm of range, and the mean comb sensor reading
over the run. -/
structure RunResult where
  trims : Trims
  trimEnd : Bool
  disagree : Rat
  temp : Rat
  deriving DecidableEq, Repr

/-- What a terminal run measures (R209, R210): the check's magnitude in A or V, the largest difference of the
two measurements in ppm of range, the currents at 0 V on codes 0 to 7 and at 1 V on the 1 µA range (TERM_OPEN),
the voltages at +1 mA and −1 mA (TERM_SHORT), and the mean comb sensor reading. -/
structure TermResult where
  check : Rat
  disagree : Rat
  atZero : Vector Rat 8
  atOne : Rat
  vPlus : Rat
  vMinus : Rat
  temp : Rat
  deriving DecidableEq, Repr

end Sys2Proof.Machine
end

