-- ==== Sys2Proof/Syntax.lean ====
section
/-!
DEFINITION. The commands of the block: one constructor for each row of spec/opcode_table.json, in the
table's order, with the operands the row's rule needs (the table gives a row no fields).
-/

namespace Sys2Proof

open Sys2Proof.Machine

/-- The commands. Each docstring names the row's rule. -/
inductive Instr where
  /-- PORST_N goes low (R39, R40). -/
  | porstNAssert
  /-- Supplies good and PORST_N high; REFCLK_SEL as sampled, and what the cores find that start with it in OPEN (R39,
  R40, R229). -/
  | powerGood (x : PowerUp)
  /-- Rail `rail` (codes of R273) leaves its operating limits (R405). -/
  | supplyOutOfLimits (rail : Fin 7)
  /-- Rail `rail` has been outside its window for 10 µs (R406). -/
  | supplyWindowViolation (rail : Fin 7) (above : Bool)
  /-- Rail `rail` has been back in its window for 1 ms (R406). -/
  | supplyWindowRestored (rail : Fin 7)
  /-- VDDIO below 0.3 V for 10 ms and back (R39). -/
  | openPowerCycle
  /-- ESTOP_N goes low (R101). -/
  | estopNFall
  /-- ESTOP_N returns high (R102). -/
  | estopNRise
  /-- PE_PERST_N takes the level `high` (R414). -/
  | pePerstNChange (high : Bool)
  /-- Link training completes at rate code and width (R48, R373). -/
  | pcieLinkUp (rate width : Nat)
  /-- A function-level or conventional link reset (R339). -/
  | flr
  /-- The present BOOT step finishes with what the world shows it (R50). -/
  | bootStepComplete (r : BootReport)
  /-- The loader watchdog expires (R49). -/
  | loaderStall
  /-- WAGGLE starts toggling (R46). -/
  | waggleStart
  /-- The four region references have settled (R55). -/
  | refSettled
  /-- MOD_CTRL.READY (R41). -/
  | ready
  /-- The conditions of SAFE to READY hold (R55). -/
  | readyComplete
  /-- MOD_CTRL.RUN (R41). -/
  | run
  /-- MOD_CTRL.HOLD (R57). -/
  | hold
  /-- MOD_CTRL.SAFE (R43). -/
  | safe
  /-- MOD_CTRL.RECOVER (R61). -/
  | recover
  /-- The timebase reaches a frame boundary (R25). -/
  | frameBoundary (f : FrameInputs)
  /-- The admitted work of an account misses its window (R139, R228). -/
  | deadlineMiss (a : Account)
  /-- The 200 ns deglitcher hold of a channel ends (R113). -/
  | deglitchHoldEnd (ch : Fin 128)
  /-- CH_CTRL.START (R65). -/
  | start (ch : Fin 128)
  /-- The START sequence finishes (R65). -/
  | startComplete (ch : Fin 128)
  /-- CH_CTRL.STOP (R66). -/
  | stop (ch : Fin 128)
  /-- The stopping profile has reached PG_INIT (R66). -/
  | stopArrive (ch : Fin 128)
  /-- A write of CH_RANGE (R80). -/
  | chRangeWrite (ch : Fin 128) (v : Word)
  /-- Boundary k + 17 of a current range sequence (R82). -/
  | irangeSequenceEnd (ch : Fin 128)
  /-- The deglitcher releases after a voltage range switch (R84). -/
  | vrangeHoldEnd (ch : Fin 128)
  /-- The down count has reached 16 (R87). -/
  | autorangeDown (ch : Fin 128)
  /-- The overcurrent comparator of a channel sees a current (R79, R91, R271). -/
  | overcurrentTrip (x : Trip)
  /-- The overvoltage comparator of a channel sees a voltage at SNSn (R79, R271). -/
  | overvoltageTrip (x : Trip)
  /-- The clamp count has reached CLAMP_CNT (R79). -/
  | clampActive (ch : Fin 128)
  /-- A range switch has not reached its commanded state (R79, R271). -/
  | rangeSwitch (x : Server) (code : Fin 16) (current : Bool)
  /-- The lead drop has lasted 2 frames (R93). -/
  | leadDrop (ch : Fin 128)
  /-- CSL has been outside its window for 2 frames (R94). -/
  | cslWindowFault (comb : Fin 16)
  /-- The open-load count has reached OPEN_CNT (R132). -/
  | openLoad (ch : Fin 128)
  /-- The disagreement count has reached MON_CNT (R133). -/
  | monitorDisagree (ch : Fin 128)
  /-- The residual count has reached RES_CNT (R162). -/
  | modelResidual (ch : Fin 128)
  /-- The frozen window has reached its length and drive (R162). -/
  | feedbackFrozen (ch : Fin 128)
  /-- P has exceeded the budget for 1,000 frames at the least factor (R149). -/
  | budgetThermal (die : Fin 2)
  /-- RZ_TMAX has passed since the ramp began (R98). -/
  | rampZeroTimeout (ch : Fin 128)
  /-- The 22 temperature sensors are read (R35). -/
  | tempSample (temps : Vector Rat 22)
  /-- The 16 speed sentinels report their stage times in s (R216). -/
  | sentinelReport (reports : Vector Rat 16)
  /-- The smallest margin has stayed above 35% for 10 ms (R218). -/
  | vcoreStepDown
  /-- The VCORE sense confirms the request (R217). -/
  | vcoreSenseConfirm
  /-- The VCORE sense has differed from the request for 1 ms (R217). -/
  | vcoreMismatch (above : Bool)
  /-- A write of TB_FRAME (R232). -/
  | tbFrameWrite (v : Word)
  /-- A write of TB_LDG_VMIN (R218). -/
  | tbLdgVminWrite (v : Word)
  /-- A write of PG_TARGET (R166). -/
  | pgTargetWrite (ch : Fin 128) (v : DWord)
  /-- A write of CH_COMP_HI or CH_COMP_LO (R76). -/
  | chCompWrite (ch : Fin 128) (hi : Bool) (v : DWord)
  /-- A write of LP_BANK.SEL (R153). -/
  | lpBankSelWrite (ch : Fin 128) (sel : Bool)
  /-- A write of the bank value at an offset of R389 in bank A or B (R152). -/
  | coefWrite (ch : Fin 128) (bankB : Bool) (offset : Nat) (v : DWord)
  /-- A filtered quadrature transition (R158). -/
  | encQuadEdge (enc : Fin 32) (e : QuadEdge)
  /-- A Z edge (R158). -/
  | encIndexEdge (enc : Fin 32)
  /-- An SSI word of position bits and check bits arrives, or the data line does not start it (R159). -/
  | ssiWordDone (enc : Fin 32) (started : Bool) (bits check : Nat)
  /-- SSI_ERR_RUN consecutive words have failed (R160). -/
  | ssiErrorRun (enc : Fin 32)
  /-- SW_CTRL.ARM (R177). -/
  | arm (ch : Fin 128)
  /-- SW_CTRL.DISARM (R177). -/
  | disarm (ch : Fin 128)
  /-- The hold time of the step in progress has expired (R175). -/
  | sweepStepEnd (ch : Fin 128)
  /-- The measure window opens (R175). -/
  | measureWindowOpen (ch : Fin 128)
  /-- The measure window closes with what the integrator averaged (R120). -/
  | measureWindowClose (ch : Fin 128) (a : Aperture)
  /-- The aperture result is ready (R120). -/
  | apertureResultReady (ch : Fin 128)
  /-- The wait window has closed without an event (R181). -/
  | trigTimeout (ch : Fin 128)
  /-- The scheduled TRIG_OUT event of the step is due (R180). -/
  | trigOutEvent (ch : Fin 128)
  /-- A filtered edge of a TRIG input (R182). -/
  | trigInputEdge (pin : Fin 16) (rising : Bool)
  /-- A pulse on an output pin has lasted its width (R182). -/
  | trigPulseEnd (pin : Fin 16)
  /-- A region timer fires (R183). -/
  | timerFire (region : Fin 4) (timer : Fin 16)
  /-- A ring event reaches its execution tick (R184). -/
  | ringEventExecute (event : Fin 32)
  /-- A write of SEQ_RrEVT (R185). -/
  | seqRegionEventWrite (region : Fin 4) (v : Word)
  /-- The 1 ms check of the calibration triggers (R189). -/
  | calTriggerCheck
  /-- CH_CAL_CMD.OP INTERNAL for a slot's unit: comb × 9 + slot (R189, R383). -/
  | internal (unit : Fin 144)
  /-- CAL_CTRL.REQ_ALL (R189). -/
  | reqAll
  /-- CH_CAL_CMD.OP TERM_OPEN (R208). -/
  | termOpen (ch : Fin 128)
  /-- CH_CAL_CMD.OP TERM_SHORT (R208). -/
  | termShort (ch : Fin 128)
  /-- CH_CAL_CMD.OP TERM_CLEAR (R210). -/
  | termClear (ch : Fin 128)
  /-- The internal run of a comb gives its verdict (R199). -/
  | calRunVerdict (comb : Fin 16) (r : RunResult)
  /-- The oldest commit of a comb ends: whether the slot reads back right after the first write, and after the second
  one (R202). -/
  | calCommitDone (comb : Fin 16) (slot : SlotCheck)
  /-- The normal unit of a comb's run is prepared (R205). -/
  | calPrepared (comb : Fin 16)
  /-- The normal unit takes the terminal back (R206). -/
  | calHandback (comb : Fin 16)
  /-- A terminal run finishes (R210). -/
  | termRunDone (ch : Fin 128) (r : TermResult)
  /-- CMB_REPAIR.REPAIR with its UNIT (R212). -/
  | repair (comb : Fin 16) (unit : Fin 16)
  /-- CMB_REPAIR.RELEASE (R213). -/
  | release (comb : Fin 16)
  /-- The collector takes the onset messages presented in this tick (R279). -/
  | faultOnset (msgs : List Msg)
  /-- The collector takes an end message (R272). -/
  | faultEnd (kind source : Nat)
  /-- The collector takes a notice (R275). -/
  | notice (m : Msg)
  /-- A write of FLT_ACK (R280). -/
  | fltAck (v : Word)
  /-- FLT_CTRL.HIST_CLR (R285). -/
  | histClr
  /-- FLT_CTRL.FIRST_CLR (R286). -/
  | firstClr
  /-- A read of a W0_LO: history slot 0 to 31, or 32 for FLT_FIRST (R285). -/
  | fltHistW0LoRead (m : Master) (slot : Fin 33)
  /-- A write of FLT_WAGGLE (R291). -/
  | fltWaggleWrite (v : Word)
  /-- WAGGLE resumes (R292). -/
  | waggleResume
  /-- The application core watchdog expires (R293). -/
  | coreWatchdog
  /-- The WAGGLE generator declares a stall (R294, R295). -/
  | collStall
  /-- A 1 µs cycle of the store scheduler (R242). -/
  | storeSchedCycle
  /-- CAP_STRs_CTRL.OPEN (R244). -/
  | openStream (strm : Fin 2048)
  /-- CAP_STRs_CTRL.CLOSE (R244). -/
  | closeStream (strm : Fin 2048)
  /-- The assembly block of a stream closes for its age; `raw` are the codes a raw source has delivered since the last
  frame boundary (R245). -/
  | captureBlockClose (strm : Fin 2048) (raw : List Nat)
  /-- The reader's block read reaches its verdict (R250). -/
  | ringBlockReadDone (ring : Fin 31)
  /-- CAP_RINGn_CTRL.SET_MARK (R252). -/
  | setMark (ring : Fin 31)
  /-- CAP_RINGn_CTRL.CLR_MARK (R252). -/
  | clrMark (ring : Fin 31)
  /-- CAP_RINGn_CTRL.REWIND (R253). -/
  | rewind (ring : Fin 31)
  /-- A write of SQn_CTRL.EN (R255). -/
  | queueEn (q : Fin 32) (en : Bool)
  /-- SQn_CTRL.FLUSH (R262). -/
  | flush (q : Fin 32)
  /-- No EOP within 1 ms of a flush request (R262). -/
  | queueFlushTimeout (q : Fin 32)
  /-- The producer writes an item (R257). -/
  | queueItemWrite (q : Fin 32) (i : QItem)
  /-- The consumer reads an item (R259). -/
  | queueItemRead (q : Fin 32)
  /-- A write of SQn_WR_HI (R259). -/
  | sqWrHiWrite (m : Master) (q : Fin 32) (v : Word)
  /-- A read of SQn_RD_LO (R259). -/
  | sqRdLoRead (m : Master) (q : Fin 32)
  /-- The write pointer crosses: the items written so far become visible to the consumer (R260). -/
  | queueItemVisible (q : Fin 32)
  /-- The read pointer crosses: the credits returned so far become visible to the producer (R260). -/
  | queueCreditVisible (q : Fin 32)
  /-- A write of DMA_CTRL.EN (R334). -/
  | dmaEn (e : Fin 8) (en : Bool)
  /-- DMA_CTRL.ABORT (R333). -/
  | abort (e : Fin 8)
  /-- A write of DMA_TAIL (R330). -/
  | dmaTailWrite (e : Fin 8) (v : Word)
  /-- The descriptor at HEAD completes: its bytes, the host bytes read for it, and how the
  host reads ended (R333). -/
  | dmaDescriptorDone (e : Fin 8) (d : Desc) (hostData : List Byte) (reads : DmaRead)
  /-- A sender writes a mailbox DATA register: channel 0 to 15 NS, 16 to 19 SC; H2C or C2H (R337). -/
  | mbxDataWrite (ch : Fin 20) (h2c : Bool) (v : Word)
  /-- A receiver reads a mailbox DATA register (R337). -/
  | mbxDataRead (ch : Fin 20) (h2c : Bool)
  /-- The firmware serves PING (R340). -/
  | ping (ch : Fin 16) (request : Word)
  /-- The firmware serves FW_VERSION (R340). -/
  | fwVersion (ch : Fin 16) (request : Word)
  /-- The firmware serves RESET_CAUSE (R340). -/
  | resetCause (ch : Fin 16) (request : Word)
  /-- The firmware answers a request with an unknown OP (R340). -/
  | mbxUnknownOp (ch : Fin 20) (request : Word)
  /-- A test-and-set read of a lock (R341). -/
  | lockRead (m : Master) (l : Fin 64)
  /-- A write of a lock (R343). -/
  | lockRelease (m : Master) (l : Fin 64) (v : Word)
  /-- SEC_AUTH_CTRL.START (R348). -/
  | secAuthStart
  /-- SEC_AUTH_CTRL.VERIFY (R348). -/
  | verify
  /-- Verification completes (R348). -/
  | secVerifyDone
  /-- The secure core serves PROV_IMG_KEY on SC channel `ch` (R350). -/
  | provImgKey (ch : Fin 4) (request : Word)
  /-- The secure core serves PROV_DEC_KEY (R350). -/
  | provDecKey (ch : Fin 4) (request : Word)
  /-- The secure core serves PROV_HOST_KEY (R350). -/
  | provHostKey (ch : Fin 4) (request : Word)
  /-- The secure core serves ATTEST (R350). -/
  | attest (ch : Fin 4) (request : Word)
  /-- The secure core serves SET_DBG_POLICY (R350). -/
  | setDbgPolicy (ch : Fin 4) (request : Word)
  /-- A debug-opening request, from the TAP (`none`) or an SC channel; `x` says what the secure core
  finds (R353). -/
  | dbgOpen (src : Option (Fin 4 × Word)) (x : OpenReport)
  /-- The secure core serves SESSION_CLOSE (R350). -/
  | sessionClose (ch : Fin 4) (request : Word)
  /-- JX_CTRL.JOIN (R323). -/
  | join
  /-- JX_CTRL.LEAVE (R323). -/
  | leave
  /-- JX_CTRL.HOLD_ALL (R319). -/
  | holdAll
  /-- Internal loopback training of the ring PHY completes or fails (R309). -/
  | ringLocalTrained (ok : Bool)
  /-- The links to the neighbours have trained (R309). -/
  | ringLinkTrained
  /-- The master sends a TIME frame (R312). -/
  | jxTimeSend
  /-- A TIME frame arrives; residence in 2^−10 tick (R313). -/
  | time (f : Frame) (residence : Nat)
  /-- An ENUM frame arrives (R310). -/
  | enum (f : Frame)
  /-- An EVENT frame arrives (R319). -/
  | event (f : Frame)
  /-- A FAULT6 frame arrives (R320). -/
  | fault6 (f : Frame)
  /-- The originator sends FAULT6 again (R320). -/
  | fault6Resend
  /-- An RD_REQ frame arrives (R317). -/
  | rdReq (f : Frame)
  /-- An RD_RSP frame arrives (R316). -/
  | rdRsp (f : Frame)
  /-- A WR_REQ frame arrives (R317). -/
  | wrReq (f : Frame)
  /-- A WR_RSP frame arrives (R316). -/
  | wrRsp (f : Frame)
  /-- A BLOCK frame arrives (R321). -/
  | block (f : Frame)
  /-- A QITEMS frame arrives (R322). -/
  | qitems (f : Frame)
  /-- A transit frame, a broadcast among them, is checked and forwarded, stomped or removed (R304). -/
  | jxFrameForward (p : Passing)
  /-- JX_CRC_CNT has grown by JX_CRC_LIM within 1 ms; the last failed frame (R305). -/
  | ringCrc
  /-- JX_LOSS_TMO has passed without lock (`noLock`) or without a TIME frame (R311). -/
  | ringLossTimeout (noLock : Bool)
  /-- JX_RAm_CMD.READ of master set 0 (host) or 1 (application core) (R316). -/
  | read (m : Fin 2) (two : Bool)
  /-- JX_RAm_CMD.WRITE (R316). -/
  | write (m : Fin 2) (two : Bool)
  /-- JX_RA_TMO has passed (R318). -/
  | jxRaTimeout (m : Fin 2)
  /-- A register read with its byte enables: of a LO register it latches HI (R13); any other address reads as the map
  says. -/
  | loReadLatch (m : Master) (a : BusAddr)
  /-- A write of a 64-bit LO register with its byte enables (R14). -/
  | loWriteStage (m : Master) (a : BusAddr) (v : Word)
  /-- A write of a 64-bit HI register with its byte enables (R14). -/
  | hiWriteCommit (m : Master) (a : BusAddr) (v : Word)
  /-- A write of any other register with its byte enables (R425). -/
  | registerWrite (m : Master) (a : BusAddr) (v : Word)
  /-- A high-resolution aperture of a channel ends with its averages (R119). -/
  | hrApertureEnd (ch : Fin 128) (a : Aperture)
  /-- The WAGGLE generator inverts the pin (R290). -/
  | waggleToggle
  /-- The VCORE sense has been back within 25 mV for 1 ms (R217). -/
  | vcoreSenseRestored
  /-- The 1 s lockout ends (R348). -/
  | authLockoutEnd
  /-- JX_IN of a FORMED member loses lock (R298). -/
  | ringLockLost
  /-- 100 µs have passed without a TIME frame (R315). -/
  | alignedTimeout
  /-- The receiving stream port has aligned (R419). -/
  | streamPortAligned
  /-- The host moves the function to D3hot or back (R326). -/
  | d3hot (enter : Bool)
  /-- A TAP instruction other than DBG_OPEN (R351). -/
  | tapInstruction (ir : TapIr)
  /-- A causeway CRC error, or a retraining (R273, R274). -/
  | causewayCrc (die : Fin 2) (retrain : Bool)
  /-- A change of a mailbox's FULL reaches the other end (R338). -/
  | mbxFullVisible (ch : Fin 20) (h2c : Bool)
  deriving DecidableEq, Repr

end Sys2Proof
end

