-- ==== Sys2Proof/WellFormed.lean ====
section
/-!
DEFINITION. Which commands are well formed: operands within the ranges the manual gives them, where
their types do not say so already.
-/

namespace Sys2Proof

open Sys2Proof.Machine

/-- A link rate code and width of R373. -/
def linkOk (rate width : Nat) : Bool :=
  1 ≤ rate && rate ≤ 5 && (width == 1 || width == 2 || width == 4)

/-- An offset of a bank register (R389). -/
def bankOffsetOk (o : Nat) : Bool :=
  o % 8 == 0 &&
    ((o < 0x400 && o % 0x100 ≤ 0x50) || (0x400 ≤ o && o < 0x500) || (0x500 ≤ o && o ≤ 0x528))

/-- Instances named at most once, in ascending order. -/
def rising : List Nat → Bool
  | a :: b :: l => decide (a < b) && rising (b :: l)
  | _ => true

/-- The world's part of a boundary names a channel, a stream and a comb at most once. -/
def Machine.FrameInputs.wf (f : FrameInputs) : Bool :=
  rising (f.readings.map fun p => p.1.val) && rising (f.raw.map fun p => p.1.val) &&
    rising (f.csl.map fun p => p.1.val)

/-- A message fits its fields: KIND of 7 bits with the end bit, SOURCE of 12, DETAIL of 40 (R269, R284). -/
def Machine.Msg.wf (m : Msg) : Bool := m.kind < 256 && m.source < 4096 && m.detail < 2 ^ 40

/-- A Jaxier frame fits the header of R301, and its payload has LEN bytes. -/
def Machine.Frame.wf (f : Frame) : Bool :=
  f.type < 256 && f.dst < 1024 && f.src < 1024 && f.hops < 1024 && f.len ≤ 4112 && f.len % 8 == 0 &&
    f.payload.length == f.len && f.seq < 2 ^ 32 && f.arg < 2 ^ 32

/-- A frame of one type (R302). -/
def Machine.Frame.ofType (f : Frame) (type : Nat) : Bool := f.wf && f.type == type

/-- A well-formed command. -/
def Instr.wf : Instr → Bool
  | .pcieLinkUp rate width => linkOk rate width
  | .frameBoundary f => f.wf
  | .coefWrite _ _ o _ => bankOffsetOk o
  | .ssiWordDone _ _ b c => b < 2 ^ 48 && c < 64
  | .faultOnset ms => ms.all Msg.wf
  | .faultEnd k src => k < 128 && src < 4096
  | .notice m => m.wf
  | .captureBlockClose _ raw => raw.all fun r => r < 2 ^ 32
  | .dmaDescriptorDone _ d _ _ => d.haddr < 2 ^ 64 && d.maddr < 2 ^ 64 && d.len < 2 ^ 32
  | .time f _ => f.ofType 0x12
  | .enum f => f.ofType 0x13
  | .event f => f.ofType 0x10
  | .fault6 f => f.ofType 0x11
  | .rdReq f => f.ofType 0x01
  | .rdRsp f => f.ofType 0x02
  | .wrReq f => f.ofType 0x03
  | .wrRsp f => f.ofType 0x04
  | .block f => f.ofType 0x20
  | .qitems f => f.ofType 0x21
  | .jxFrameForward p => p.frame.wf
  | .loReadLatch _ a | .loWriteStage _ a _ | .hiWriteCommit _ a _ | .registerWrite _ a _ => a.addr < 2 ^ 32
  | .bootStepComplete r => r.body.length ≤ 64 * 2 ^ 20
  | _ => true

end Sys2Proof
end

