-- ==== Sys2Proof/Config.lean ====
section
/-!
DEFINITION. What the manual leaves open, as constants without a body: no proof can see a value of
them (A3, A9, A12). A claim about one holds for every value.
-/

namespace Sys2Proof.Config

/-- The binary64 form of a computed readout that binary64 cannot hold exactly (A3). -/
opaque inexactReadout : Rat → DWord
/-- The segments of a re-plan in motion for whose whole-frame lengths no jerk levels exist (A9):
from velocity, acceleration, distance, the three limits and T, listed in this order; at least one segment. -/
opaque replanFallback : List Rat → (Rat × Nat) × List (Rat × Nat)
/-- The averages of an aperture that a reaction, ESTOP_N or HOLD cuts short, by the free-value counter:
the manual marks them invalid and gives no value (R57, R122; A15). -/
opaque cutAverage : Nat → Rat
/-- The 26-bit VALUE of a capture sample whose quantity lies beyond the field (R124; A15). -/
opaque overSpan : Rat → Int
/-- The calibration store byte address of a unit's slot, B for true: R21 gives no layout (A13). -/
opaque calSlotAddr : Fin 144 → Bool → Nat
/-- Bit 0 of the FLAGS of a descriptor whose read from host memory has failed, by the free-value counter: the engine has
not got it (R333; A20). -/
opaque lostIrq : Nat → Bool
/-- Seconds with VDDIO good that a module has spent in BYPASS when BOOT starts, by the free-value counter: no timebase
runs there (R230, R358; A44). -/
opaque bypassSeconds : Nat → Nat
/-- Onairato's JEP106 code, bits [11:1] of IDCODE (R351; A13). -/
opaque jep106 : BitVec 11
/-- BOOT_TIME of a failure that no step report times, by the free-value counter (A13). -/
opaque bootTime : Nat → Nat
/-- DETAIL of STORE_CRC for a set-point value whose internal check fails: it has no store address (R268, R273; A13);
by the free-value counter. -/
opaque setPointDetail : Nat → Nat
/-- DETAIL of STORE_ECC when the store fails its training (R53, R273; A13). -/
opaque storeInitDetail : Nat → Nat
/-- TB_LDG_WORST[15:0] for a margin that is no multiple of 0.01% or lies beyond 16 bits (R360; A3). -/
opaque marginWord : Rat → BitVec 16
/-- The result of FW_VERSION for an ARG other than 0 and 1 (R340; A12). -/
opaque fwVersionOther : Nat → BitVec 16
/-- Bytes 112 to 119 of an attestation report, from MOD_FW (R350; A12). -/
opaque attestVersions : BitVec 32 → BitVec 64
/-- The master time a member estimates, in ticks, while the master has measured no WTOT: R313 then divides
0 by 0; by the free-value counter (A16). -/
opaque blindEstimate : Nat → Rat
/-- The dissipation of a booster channel's drive output, in W, by the free-value counter and the channel: R34 counts
it and no rule gives it (A38). -/
opaque driveDissipation : Nat → Nat → Rat
/-- LP_STATUS.WINNER of a frame whose upper set is empty: R146 names a winner only among outputs that equal the
demand before the clip, which is then +∞ (A46). -/
opaque noWinner : BitVec 3
/-- The demand of a RAMP_ZERO frame of a channel whose MC · MB is 0, by the free-value counter: an image may not
select it there, and R98 gives no demand where a run-time write has (A48). -/
opaque blindRamp : Nat → Rat
/-- The public key a first binding installs, from the digest and the signature r ‖ s (R348; A12). -/
opaque boundKey : BitVec 384 → BitVec 768 → BitVec 768
/-- The random nonce of R348, by the free-value counter (A12). -/
opaque nonce : Nat → BitVec 384
/-- SHA-384 (A12). -/
opaque sha384 : List Byte → BitVec 384
/-- ECDSA P-384 verification: public key X ‖ Y, digest, signature r ‖ s (A12). -/
opaque ecdsaVerify : BitVec 768 → BitVec 384 → BitVec 768 → Bool
/-- A signature with the attestation key of a generation over a digest (A12). -/
opaque attestSign : Nat → BitVec 384 → BitVec 768
/-- The module's ephemeral public key, by the free-value counter (A12). -/
opaque ephemeralKey : Nat → BitVec 768
/-- The ECDH secret of R348 of the module's ephemeral key pair (by counter) and the host's key (A12). -/
opaque ecdhSecret : Nat → BitVec 768 → List Byte
/-- The code of a raw stream at an instant since the last frame boundary, when its stream closes, by the free-value
counter: the commands that close a stream bring no codes (R244; A14). -/
opaque rawCode : Nat → Nat
/-- AES-256-GCM opening: key, IV, additional data, ciphertext, tag; none when the tag fails (A12). -/
opaque gcmOpen (key : BitVec 256) (iv aad cipher tag : List Byte) : Option (List Byte)

end Sys2Proof.Config
end

