-- ==== Sys2Proof/Machine/Bits.lean ====
section
/-!
DEFINITION. Numbers: binary64 registers as exact rationals (R15), the rounding of codes and
coefficients (R109, R152), CRC-32C (R248), little-endian bytes, and exact comparisons with square
roots for the profile generator (R168).
-/

namespace Sys2Proof.Machine

/-- The exponent field of a binary64 value. -/
def b64Exp (d : DWord) : Nat := field64 d 62 52
/-- The fraction field of a binary64 value. -/
def b64Frac (d : DWord) : Nat := field64 d 51 0
/-- The sign bit of a binary64 value. -/
def b64Neg (d : DWord) : Bool := d.getLsbD 63

/-- Neither a NaN, an infinity nor a subnormal (R425). -/
def b64Valid (d : DWord) : Bool :=
  b64Exp d != 2047 && !(b64Exp d == 0 && b64Frac d != 0)

/-- 2 to an integer power. -/
def pow2 (e : Int) : Rat := if 0 ≤ e then (2 : Rat) ^ e.toNat else 1 / (2 : Rat) ^ (-e).toNat

/-- The value of a valid binary64 register; an invalid pattern counts as 0. -/
def b64ToRat (d : DWord) : Rat :=
  if b64Valid d && b64Exp d != 0 then
    let m : Rat := ((2 ^ 52 + b64Frac d : Nat) : Rat) * pow2 ((b64Exp d : Int) - 1075)
    if b64Neg d then -m else m
  else 0

/-- The binary64 pattern of a sign, a biased exponent and a fraction. -/
def b64Mk (neg : Bool) (exp frac : Nat) : DWord :=
  BitVec.ofNat 64 ((if neg then 2 ^ 63 else 0) + exp * 2 ^ 52 + frac)

/-- The binary64 pattern of a rational that binary64 holds exactly as zero or a normal number. -/
def b64Exact? (q : Rat) : Option DWord :=
  if q.num = 0 then some 0
  else
    let n := q.num.natAbs
    let l := Nat.log2 n
    let k := Nat.log2 q.den
    let e : Int := (l : Int) - k
    if q.den = 2 ^ k ∧ (n * 2 ^ 52) % 2 ^ l = 0 ∧ -1022 ≤ e ∧ e ≤ 1023 then
      some (b64Mk (q.num < 0) (e + 1023).toNat (n * 2 ^ 52 / 2 ^ l - 2 ^ 52))
    else none

/-- A computed quantity as a binary64 readout (R15, R164): exact where binary64 holds it, a free
value elsewhere (A3). -/
def readout (q : Rat) : DWord := (b64Exact? q).getD (Config.inexactReadout q)

/-- round() of R109: to the nearest integer, half-way to the even one. -/
def roundEven (q : Rat) : Int :=
  let f := q.floor
  let r := q - f
  if r < 1 / 2 then f else if 1 / 2 < r then f + 1 else if f % 2 = 0 then f else f + 1

/-- The least integer not below, as a natural number. -/
def ceilNat (q : Rat) : Nat := q.ceil.toNat

/-- Rounding of a bank value to 48 significant bits, half-way to the even one (R152). -/
def round48 (d : DWord) : DWord :=
  if b64Exp d = 0 then d
  else
    let m := 2 ^ 52 + b64Frac d
    let q := m / 32
    let r := m % 32
    let q' := if r < 16 then q else if 16 < r then q + 1 else if q % 2 = 0 then q else q + 1
    if q' = 2 ^ 48 then b64Mk (b64Neg d) (b64Exp d + 1) 0
    else b64Mk (b64Neg d) (b64Exp d) (q' * 32 - 2 ^ 52)

/-- A rounded bank value is 0 or has a magnitude from 2^−100 to 2^100 (R152). -/
def inBankSpan (d : DWord) : Bool :=
  b64Exp d == 0 || (923 ≤ b64Exp d && (b64Exp d < 1123 || (b64Exp d == 1123 && b64Frac d == 0)))

/-- The magnitude of a rational. -/
def absR (q : Rat) : Rat := if q < 0 then -q else q
/-- The smaller of two rationals. -/
def minR (a b : Rat) : Rat := if a ≤ b then a else b
/-- The larger of two rationals. -/
def maxR (a b : Rat) : Rat := if a ≤ b then b else a
/-- A value clipped to [lo, hi]. -/
def clipR (lo hi q : Rat) : Rat := maxR lo (minR q hi)

/-- One bit of the reflected Castagnoli division (R248). -/
def crcBit (c : Word) : Word := if c.getLsbD 0 then (c >>> 1) ^^^ 0x82F63B78 else c >>> 1

/-- One byte of the CRC (R248). -/
def crcByte (c : Word) (b : Byte) : Word :=
  let x := c ^^^ b.setWidth 32
  crcBit (crcBit (crcBit (crcBit (crcBit (crcBit (crcBit (crcBit x)))))))

/-- CRC-32C over bytes in ascending address order (R248). -/
def crc32c (bs : List Byte) : Word := bs.foldl crcByte 0xFFFFFFFF ^^^ 0xFFFFFFFF

/-- A number as `n` little-endian bytes. -/
def toBytes : Nat → Nat → List Byte
  | 0, _ => []
  | n + 1, v => BitVec.ofNat 8 v :: toBytes n (v / 256)

/-- The number that little-endian bytes spell. -/
def ofBytes : List Byte → Nat
  | [] => 0
  | b :: bs => b.toNat + 256 * ofBytes bs

/-- The number that big-endian bytes spell (keys, R346). -/
def ofBytesBE (bs : List Byte) : Nat := ofBytes bs.reverse
/-- A number as `n` big-endian bytes. -/
def toBytesBE (n v : Nat) : List Byte := (toBytes n v).reverse

/-- The bits of a number from bit 0. -/
def fieldN (v hi lo : Nat) : Nat := (v >>> lo) % 2 ^ (hi + 1 - lo)

/-- The least n for which a monotone predicate holds, searched over 48 bits. -/
def leastNat (p : Nat → Bool) : Nat :=
  if p 0 then 0
  else (List.range 48).reverse.foldl (fun acc b => if p (acc + 2 ^ b) then acc else acc + 2 ^ b) 0 + 1

/-- p + q × √x ≥ 0, exactly, for x ≥ 0. -/
def sqrtNonneg (p q x : Rat) : Bool :=
  if 0 ≤ p then (if 0 ≤ q then true else decide (q * q * x ≤ p * p))
  else (if q ≤ 0 then decide (p = 0) else decide (p * p ≤ q * q * x))

/-- p + q × √x + r × √y ≥ 0, exactly, for x, y ≥ 0. -/
def sqrt2Nonneg (p q x r y : Rat) : Bool :=
  if 0 ≤ r then
    -- r√y ≥ −(p + q√x)
    if sqrtNonneg p q x then true
    else sqrtNonneg (r * r * y - p * p - q * q * x) (-(2 * p * q)) x
  else
    -- p + q√x ≥ −r√y
    if sqrtNonneg p q x then sqrtNonneg (p * p + q * q * x - r * r * y) (2 * p * q) x
    else false

end Sys2Proof.Machine
end

