-- ==== Sys2Proof/Machine/Records.lean ====
section
/-!
DEFINITION. The calibration store's records: their 512-byte layout and CHECK (R201), when a slot is valid and which
one is in force (R203), and what a commit leaves in a slot step by step (R202).
-/

namespace Sys2Proof.Machine

/-- The contents of a calibration store record besides its frame (R201). -/
structure Record where
  /-- COUNT; 32; R201 (07); reset 0 (as shipped, R203) -/
  count : Nat
  /-- TIME; 64; R201 (07); reset 0 (R203) -/
  time : Nat
  /-- TEMP, binary64; 64; R201 (07); reset DESIGN CHOICE 0 (A13) -/
  temp : DWord
  /-- FLAGS bit 0; 1; R201 (07); reset 0 (R203) -/
  openOk : Bool
  /-- FLAGS bit 1; 1; R201 (07); reset 0 (R203) -/
  shortOk : Bool
  /-- trim bytes 32 to 383; 352 bytes; R201 (07); reset DESIGN CHOICE 0 (A13) -/
  trims : Trims
  /-- TERM_IOS; 8 × 64; R201 (07); reset 0 -/
  ios : Vector DWord 8
  /-- TERM_G; 64; R201 (07); reset 0 -/
  g : DWord
  /-- TERM_RS; 64; R201 (07); reset 0 -/
  rs : DWord
  /-- TERM_VOS; 64; R201 (07); reset 0 -/
  vos : DWord
  /-- SEQ; 32; R201 (07); reset 0 (R203) -/
  seq : Nat
  deriving DecidableEq, Repr

/-- A 512-byte slot of the calibration store (R201). -/
structure Slot where
  /-- FORMAT; 16; R201 (07); reset 0x0001 (R203) -/
  format : Nat
  /-- UNIT; 16; R201 (07); reset p (R203) -/
  unit : Nat
  /-- bytes 4 to 507; R201 (07); see Record -/
  record : Record
  /-- CHECK; 32; R201 (07); reset matches (R203) -/
  check : Word
  deriving DecidableEq, Repr

/-- Trims of 0 (A13). -/
def Trims.zero : Trims :=
  { dac := Vector.replicate 44 0, sense := Vector.replicate 12 0, meas := Vector.replicate 36 0
    cmp := Vector.replicate 189 0, dem := Vector.replicate 63 0, cw := Vector.replicate 8 0 }

/-- The factory record (R203). -/
def Record.factory : Record :=
  { count := 0, time := 0, temp := 0, openOk := false, shortOk := false, trims := Trims.zero
    ios := Vector.replicate 8 0, g := 0, rs := 0, vos := 0, seq := 0 }

/-- Bytes 0 to 507 of a slot (R201). -/
def Slot.bytes (x : Slot) : List Byte :=
  let r := x.record
  toBytes 2 x.format ++ toBytes 2 x.unit ++ toBytes 4 r.count ++ toBytes 8 r.time ++ toBytes 8 r.temp.toNat ++
    toBytes 4 ((if r.openOk then 1 else 0) + if r.shortOk then 2 else 0) ++ toBytes 4 0 ++
    r.trims.dac.toList ++ r.trims.sense.toList ++ r.trims.meas.toList ++ r.trims.cmp.toList ++
    r.trims.dem.toList ++ r.trims.cw.toList ++ r.ios.toList.flatMap (fun v => toBytes 8 v.toNat) ++
    toBytes 8 r.g.toNat ++ toBytes 8 r.rs.toNat ++ toBytes 8 r.vos.toNat ++ toBytes 32 0 ++ toBytes 4 r.seq

/-- A slot with the CHECK of its bytes (R201, R202 step 3). -/
def Slot.seal (p : Fin 144) (r : Record) : Slot :=
  let x : Slot := { format := 1, unit := p.val, record := r, check := 0 }
  { x with check := crc32c x.bytes }

/-- A slot is valid: FORMAT, UNIT and CHECK are right (R203). -/
def Slot.valid (p : Fin 144) (x : Slot) : Bool :=
  x.format == 1 && x.unit == p.val && x.check == crc32c x.bytes

/-- The record of a valid slot. -/
def slotRec (p : Fin 144) : Option Slot → Option Record
  | some x => if x.valid p then some x.record else none
  | none => none

/-- Slot B is in force: both are valid and B's SEQ is ahead, or it alone is valid (R203). -/
def activeIsB (p : Fin 144) (a b : Option Slot) : Bool :=
  match slotRec p a, slotRec p b with
  | some a, some b => let d := (b.seq + 4294967296 - a.seq) % 4294967296; 1 ≤ d && d ≤ 2147483647
  | none, some _ => true
  | _, none => false

/-- Steps 1 and 2 of a commit: every byte but CHECK, which does not match yet (R202, R203; A49). -/
def Slot.torn (p : Fin 144) (r : Record) : Slot :=
  let x := Slot.seal p r
  { x with check := ~~~x.check }

end Sys2Proof.Machine
end

