-- ==== Sys2Proof/Machine/State.lean ====
section
/-!
DEFINITION. The state of the module: every register, counter, queue, store and pin the spec gives it,
as plain data, and the state right after reset. Each field's docstring gives its width, the rule that
names it with its file, and its reset value; "A<n>" is notes/assumptions/<n>.md.
-/

namespace Sys2Proof.Machine

/-- One seven-segment piece: a jerk level held for a number of frames (R168). -/
structure Seg where
  jerk : Rat
  frames : Nat
  deriving DecidableEq, Repr

/-- A decoded sweep step (R173). -/
structure SweepStep where
  target : DWord
  compHi : DWord
  compLo : DWord
  hold : Nat
  mdelay : Nat
  maper : Nat
  range : Nat
  trigIn : Nat
  trigOut : Nat
  flags : Nat
  tmo : Nat
  deriving DecidableEq, Repr

/-- A range sequence in progress (R82, R84). -/
structure RangeSeq where
  current : Bool
  old : Nat
  new : Nat
  frames : Nat
  deriving DecidableEq, Repr

/-- The state of one contender (R144, R153). -/
structure Contender where
  /-- S; exact rational; R144 (05); reset 0 -/
  s : Rat
  /-- fd; exact rational; R144 (05); reset 0 -/
  fd : Rat
  /-- y_prev; exact rational; R144 (05); reset 0 -/
  yPrev : Rat
  /-- previous source value of DERIV; exact rational; R155 (05); reset 0 -/
  srcPrev : Rat
  /-- LP_CTx_OUT; 64-bit readout; R164, R387 (05, 14); reset 0 -/
  u : Rat
  /-- LP_CTx_ITERM; 64-bit readout; R164, R387 (05, 14); reset 0 -/
  iterm : Rat
  /-- LP_CTx_STAT.SAT; 1; R144, R387 (05, 14); reset 0 -/
  sat : Bool
  /-- LP_CTx_STAT.WIN; 1; R146, R387 (05, 14); reset 0 -/
  win : Bool
  /-- LP_CTx_STAT.TRACK; 1; R148, R387 (05, 14); reset 0 -/
  track : Bool
  /-- LP_CTx_STAT.BUMP; 1; R153, R387 (05, 14); reset 0 -/
  bump : Bool
  deriving DecidableEq, Repr

/-- The state of one loop engine, held by its logical channel (R137). -/
structure Engine where
  /-- contenders A to D; 4 structures; R141 (05); reset each 0 -/
  ct : Vector Contender 4
  /-- budget halves, upper and lower; 2 structures; R150 (05); reset each 0 -/
  bud : Vector Contender 2
  /-- LP_BANK.SEL; 1; R153, R387 (05, 14); reset 0 -/
  bankSel : Bool
  /-- LP_BANK.ACT; 1; R153, R387 (05, 14); reset 0 -/
  bankAct : Bool
  /-- LP_DEMAND, the demand applied; 64-bit readout; R164 (05); reset 0 -/
  demand : Rat
  /-- the demands of the last frames in RUNNING, newest first; up to 8; R139 (05); reset empty -/
  demands : List Rat
  /-- the source DAC's demand, corrected by the calibration record; rational; R108, R211 (04, 07); reset 0 -/
  dac : Rat
  /-- those of the last frames in RUNNING, newest first; up to 8; R133, R134 (04); reset empty -/
  dacs : List Rat
  /-- LP_YHAT; 64-bit readout; R164 (05); reset 0 -/
  yhat : Rat
  /-- plant model state x; 4 rationals; R161 (05); reset 0 -/
  x : Vector Rat 4
  /-- LP_STATUS.WINNER; 3; R146 (05); reset 0 -/
  winner : Nat
  /-- LP_STATUS.DEM_CLIP; 1; R145 (05); reset 0 -/
  demClip : Bool
  /-- LP_STATUS.COEF_REJ; 1; R152 (05); reset 0 -/
  coefRej : Bool
  /-- LP_STATUS.BANK_REJ; 1; R152, R153 (05); reset 0 -/
  bankRej : Bool
  /-- the next engine frame is the first after START; 1; R144, R155, R161 (05); reset 0 -/
  firstFrame : Bool
  /-- the same-frame reaction of R163 is in force; 1; R163 (05); reset 0 -/
  reacting : Bool
  /-- integrators frozen for this frame by a voltage range change; 1; R84 (03); reset 0 -/
  frozen : Bool
  /-- the last frame before its contenders were evaluated, for R139 and R163; R139 (05); reset each 0 -/
  ctPrev : Vector Contender 4
  /-- the same for the budget halves; R139 (05); reset each 0 -/
  budPrev : Vector Contender 2
  /-- the last frame's contenders before the demand was applied; R139 (05); reset each 0 -/
  ctEval : Vector Contender 4
  /-- the same for the budget halves; R139 (05); reset each 0 -/
  budEval : Vector Contender 2
  /-- the budget contender took part in the last frame; 1; R139, R150 (05); reset 0 -/
  takesPart : Bool
  /-- the model state before the last frame; 4 rationals; R139, R161 (05); reset 0 -/
  xPrev : Vector Rat 4
  /-- y − ŷ of the last frame; rational; R139, R161 (05); reset 0 -/
  modelErr : Rat
  /-- residual count; 10; R162 (05); reset 0 -/
  resCount : Nat
  /-- the residual condition has been met and MODEL_RESIDUAL is due; 1; R162 (05); reset 0 -/
  resDue : Bool
  /-- frozen window: y0; rational; R162 (05); reset 0 -/
  frzY0 : Rat
  /-- frozen window: d0; rational; R162 (05); reset 0 -/
  frzD0 : Rat
  /-- frozen window: length in frames; R162 (05); reset 0 -/
  frzLen : Nat
  /-- frozen window: largest |d − d0|; rational; R162 (05); reset 0 -/
  frzDrive : Rat
  /-- the frozen condition has been met and FEEDBACK_FROZEN is due; 1; R162 (05); reset 0 -/
  frzDue : Bool
  deriving DecidableEq, Repr

/-- The profile generator of a channel (R166 to R171). -/
structure Profile where
  /-- PG_TARGET; 64; R167, R390 (06, 14); reset PG_INIT, which reads 0 until the image is loaded -/
  target : DWord
  /-- PG_POS; 64-bit readout; R171 (06); reset 0 -/
  pos : Rat
  /-- PG_VEL; 64-bit readout; R171 (06); reset 0 -/
  vel : Rat
  /-- PG_ACC; 64-bit readout; R171 (06); reset 0 -/
  acc : Rat
  /-- the planned path from the present set-point; list of segments; R168 (06); reset empty -/
  segs : List Seg
  /-- the target the generator has taken: PG_TARGET, 0 V in MI, PG_INIT of a STOP; rational; R166, R170, R171 (06);
  reset 0 -/
  aim : Rat
  /-- where the planned path ends; rational; R168 (06); reset 0 -/
  goal : Rat
  /-- the target of the fresh move that follows a shortest stop; R169 (06); reset none -/
  after : Option Rat
  /-- a target write waits for the next frame boundary; 1; R25, R169 (01, 06); reset 0 -/
  fresh : Bool
  /-- PG_STATUS.MOVING; 1; R171 (06); reset 0 -/
  moving : Bool
  /-- PG_STATUS.ARRIVED; 1; R171 (06); reset 0 -/
  arrived : Bool
  /-- PG_STATUS.TGT_REJ; 1; R167 (06); reset 0 -/
  tgtRej : Bool
  deriving DecidableEq, Repr

/-- Ranges of a channel and their sequences (R80 to R88). -/
structure ChRange where
  /-- CH_RANGE.VRANGE as last requested; 2; R80, R384 (03, 14); reset 0 (image) -/
  vReq : Nat
  /-- CH_RANGE.IRANGE as last requested; 4; R80, R384 (03, 14); reset 0 (image) -/
  iReq : Nat
  /-- voltage code last taken; 2; R80 (03); reset 0 (image) -/
  vTaken : Nat
  /-- current code last taken; 4; R80 (03); reset 0 (image) -/
  iTaken : Nat
  /-- CH_STATUS.VRANGE_ACT; 2; R80, R385 (03, 14); reset 0 (image) -/
  vAct : Nat
  /-- CH_STATUS.IRANGE_ACT; 4; R80, R385 (03, 14); reset 0 (image) -/
  iAct : Nat
  /-- voltage request pending; R86 (03); reset none -/
  pendV : Option Nat
  /-- current request pending; R86 (03); reset none -/
  pendI : Option Nat
  /-- the sequence that runs, CH_STATUS.RANGING while present; R82, R84 (03); reset none -/
  seq : Option RangeSeq
  /-- CH_STATUS.RANGE_REJ; 1; R81, R385 (03, 14); reset 0 -/
  rangeRej : Bool
  /-- autorange down count; 5; R87, R88 (03); reset 0 -/
  downCount : Nat
  deriving DecidableEq, Repr

/-- The sweep list of a channel (R172 to R181, R391, R392). -/
structure Sweep where
  /-- SW_STATUS.STATE; 3; R176 (06); reset IDLE -/
  state : ListState
  /-- SW_STATUS.CAUSE; 3; R392 (14); reset none -/
  cause : ListCause
  /-- SW_STATUS.ARM_REJ; 1; R392 (14); reset 0 -/
  armRej : Bool
  /-- SW_STATUS.OWN_REJ; 1; R178, R392 (06, 14); reset 0 -/
  ownRej : Bool
  /-- SW_STATUS.ADMIT_DENIED; 1; R177, R392 (06, 14); reset 0 -/
  admitDenied : Bool
  /-- SW_STATUS.SET_REJ; 1; R391, R392 (14); reset 0 -/
  setRej : Bool
  /-- SW_FIRST; 20; R391 (14); reset 0 -/
  first : Word
  /-- SW_REPEAT; 16; R391 (14); reset 0 -/
  repeats : Word
  /-- SW_START_AT; 64; R391 (14); reset 0 -/
  startAt : DWord
  /-- SW_POS; 20; R391 (14); reset 0 -/
  pos : Nat
  /-- SW_ITER; 16; R391 (14); reset 0 -/
  iter : Nat
  /-- passes completed, not saturated, for SW_REPEAT; R177 (06); reset 0 -/
  passes : Nat
  /-- the step in progress or waiting; R175 (06); reset none -/
  step : Option SweepStep
  /-- the step is the first after the list left ARMED; 1; R179 (06); reset 0 -/
  firstStep : Bool
  /-- the boundary at which the step in progress started; 64; R175, R205 (06, 07); reset 0 -/
  stepAt : Nat
  /-- the step has started (PLAYING, or PAUSED in it); 1; R175, R176 (06); reset 0 -/
  started : Bool
  /-- the tick at which the wait window opened; 64; R181 (06); reset 0 -/
  waitFrom : Nat
  /-- the tick of the first qualifying event of the wait window; R181 (06); reset none -/
  trigAt : Option Nat
  /-- the tick MDELAY and HOLD count from, none before WAIT_ARRIVE is met; R175 (06); reset none -/
  base : Option Nat
  /-- the measure window is open; 1; R175 (06); reset 0 -/
  windowOpen : Bool
  /-- CH_STATUS.RANGING has been set while the window was open; 1; R120 (04); reset 0 -/
  windowRanging : Bool
  /-- the end of the step has been missed and is applied at the next frame boundary; 1; R228 (08); reset 0 -/
  endLate : Bool
  /-- the output switch has been closed while the window was open; 1; R116, R120 (04); reset 0 -/
  windowClosed : Bool
  /-- the measure window of this step has closed or been dropped; 1; R57, R175 (02, 06); reset 0 -/
  windowDone : Bool
  /-- the aperture results that are not yet ready, oldest first: result, CAPTURE flag and the tick its window
  opened; list; R120, R247 (04, 09); reset empty -/
  results : List (Aperture × Bool × Nat)
  /-- TRIG_OUT events scheduled and not yet emitted: tick and TRIG_OUT field; R180 (06); reset empty -/
  outs : List (Nat × Nat)
  /-- ARM has been accepted and waits for the ledger's decision at the next boundary; 1; R177, R225 (06, 08);
  reset 0 -/
  armReq : Bool
  /-- DISARM has been written; 1; R177 (06); reset 0 -/
  disarmReq : Bool
  /-- ledger and bandwidth reservations are held; 1; R177, R224 (06, 08); reset 0 -/
  reserved : Bool
  deriving DecidableEq, Repr

/-- The deglitcher behind the source DAC (R110, R112 to R114). -/
structure Deglitch where
  /-- CH_STATUS.DEGLITCH; 1; R113, R114 (04); reset 0 -/
  flag : Bool
  /-- a 200 ns hold is in progress; 1; R113 (04); reset 0 -/
  hold : Bool
  /-- the value the terminal tracks, a step of the source DAC; rational; R110, R113 (04); reset 0 -/
  out : Rat
  /-- the DAC demand whose hold is in progress, tracked when it ends; rational; R113 (04); reset 0 -/
  next : Rat
  deriving DecidableEq, Repr

/-- Measured values, supervision counts and their flags (R79, R93, R123, R131 to R134). -/
structure Measure where
  /-- CH_RD_SENSE; 64-bit readout; R123 (04); reset 0 -/
  sense : Rat
  /-- CH_RD_MEAS; 64-bit readout; R123 (04); reset 0 -/
  meas : Rat
  /-- CH_RD_MON; 64-bit readout; R123 (04); reset 0 -/
  mon : Rat
  /-- overrange mark of SENSE; 1; R115 (04); reset 0 -/
  ovrSense : Bool
  /-- overrange mark of MEAS; 1; R115 (04); reset 0 -/
  ovrMeas : Bool
  /-- CH_HR_SENSE; 64-bit readout; R123 (04); reset 0 -/
  hrSense : Rat
  /-- CH_HR_MEAS; 64-bit readout; R123 (04); reset 0 -/
  hrMeas : Rat
  /-- CH_HR_TS; 64; R123 (04); reset 0 -/
  hrTs : Nat
  /-- a range sequence has overlapped the high-resolution aperture in progress; 1; R121 (04); reset 0 -/
  hrRanging : Bool
  /-- a range sequence has overlapped the next aperture, whose predecessor is not delivered yet; 1; R121 (04); reset 0 -/
  hrNext : Bool
  /-- the output switch has been closed during the aperture in progress; 1; R116, R119 (04); reset 0 -/
  hrClosed : Bool
  /-- CH_SUPV_STAT.COMP_SEEN; 1; R131 (04); reset 0 -/
  compSeen : Bool
  /-- CH_COMP_FRAMES; 32; R131 (04); reset 0 -/
  compFrames : Nat
  /-- clamp count; 10; R79 (03); reset 0 -/
  clampCount : Nat
  /-- CLAMP_ACTIVE is due; 1; R79 (03); reset 0 -/
  clampDue : Bool
  /-- lead-drop count; 2; R93 (03); reset 0 -/
  leadCount : Nat
  /-- LEAD_DROP is due; 1; R93 (03); reset 0 -/
  leadDue : Bool
  /-- open-load count; 16; R132 (04); reset 0 -/
  openCount : Nat
  /-- OPEN_LOAD is due; 1; R132 (04); reset 0 -/
  openDue : Bool
  /-- disagreement count; 10; R133 (04); reset 0 -/
  monCount : Nat
  /-- MONITOR_DISAGREE is due; 1; R133 (04); reset 0 -/
  monDue : Bool
  /-- frames after a spare's parallel interval in which R134 still skips; 3; R134 (04); reset 0 -/
  monSkip : Nat
  deriving DecidableEq, Repr

/-- One logical channel (R28, R64). -/
structure Channel where
  /-- configuration registers and image entries; R69, R384 to R391 (02, 14); reset all 0 (image) -/
  cfg : ChCfg
  /-- CH_STATUS.STATE; 2; R64, R385 (02, 14); reset STOPPED -/
  state : ChState
  /-- CH_STATUS.STOPPING; 1; R66 (02); reset 0 -/
  stopping : Bool
  /-- a START waits for the frame boundary; 1; R65 (02); reset 0 -/
  startReq : Bool
  /-- a STOP of the SAFED channel waits for the frame boundary: the tick that began the frame in which it was
  given; R67, R68 (02); reset none -/
  stopReq : Option Nat
  /-- the tick that began the frame of the last fault reaction; R68 (02); reset none -/
  reactFrame : Option Nat
  /-- the tick that began the frame of the last STOP; R68 (02); reset none -/
  stopFrame : Option Nat
  /-- the channel's ledger reservation is held; 1; R221, R224 (08); reset 0 -/
  reserved : Bool
  /-- the channel belongs to the start set reserved at READY; 1; R55, R56 (02); reset 0 -/
  startSet : Bool
  /-- what the front end does with the terminal; R44, R97 (02, 03); reset high impedance -/
  out : OutState
  /-- the output switch is closed; 1; R44, R78 (02, 03); reset 0 -/
  switchOn : Bool
  /-- the tick at which a RAMP_ZERO ramp began; R98 (03); reset none -/
  rampFrom : Option Nat
  /-- CH_COMP_HI; 64; R76, R384 (03, 14); reset 0 (image) -/
  compHi : DWord
  /-- CH_COMP_LO; 64; R76, R384 (03, 14); reset 0 (image) -/
  compLo : DWord
  /-- the effective limits in force, lower and upper; R77, R82 (03); reset 0 -/
  effLo : Rat
  /-- the effective upper limit in force; R77, R82 (03); reset 0 -/
  effHi : Rat
  /-- CH_STATUS.IN_COMP; 1; R77 (03); reset 0 -/
  inComp : Bool
  /-- the deglitcher; R112 to R114 (04); see Deglitch -/
  dg : Deglitch
  /-- the deglitcher before the demand of the last frame, for R139 and R228; R139, R228 (05, 08); see Deglitch -/
  dgPrev : Deglitch
  /-- the booster's comparator holds BDRVn at 0 V; 1; R91 (03); reset 0 -/
  bdrvZero : Bool
  /-- CH_STATUS.START_REJ; 1; R385 (14); reset 0 -/
  startRej : Bool
  /-- CH_STATUS.STRUCT_REJ; 1; R385 (14); reset 0 -/
  structRej : Bool
  /-- CH_STATUS.ADMIT_DENIED; 1; R385 (14); reset 0 -/
  admitDenied : Bool
  /-- CH_STATUS.COMP_REJ; 1; R385 (14); reset 0 -/
  compRej : Bool
  /-- ranges and their sequences; R80 to R88 (03); see ChRange -/
  range : ChRange
  /-- loop engine; R137 (05); see Engine -/
  eng : Engine
  /-- profile generator; R166 (06); see Profile -/
  pg : Profile
  /-- sweep list; R176 (06); see Sweep -/
  sw : Sweep
  /-- readings and supervision; R123, R131 (04); see Measure -/
  ms : Measure
  deriving DecidableEq, Repr

/-- One mark for each trigger of a calibration run (R189, R208). -/
structure Triggers where
  /-- of the temperature trigger; 1; R189, R195 (07); reset 0 -/
  temp : Bool
  /-- of the interval trigger; 1; R189, R195 (07); reset 0 -/
  age : Bool
  /-- of the request; 1; R189, R195 (07); reset 0 -/
  req : Bool
  /-- of the initial run; 1; R189, R195 (07); reset 0 -/
  init : Bool
  /-- of how many terminal commands; count; R195, R208 (07); reset 0 -/
  term : Nat
  deriving DecidableEq, Repr

/-- No trigger. -/
def Triggers.none : Triggers := { temp := false, age := false, req := false, init := false, term := 0 }

/-- One physical unit's calibration state (R189 to R214). -/
structure CalUnit where
  /-- slot A; 512 bytes; R201 (07); reset a factory record (R203) -/
  slotA : Option Slot
  /-- slot B; 512 bytes; R201 (07); reset no record (R203) -/
  slotB : Option Slot
  /-- the factory trims in the isle die; 352 bytes; R203 (07); reset factory: DESIGN CHOICE 0 (A13) -/
  factory : Trims
  /-- the trims in force; 352 bytes; R198, R200, R203 (07); reset factory: DESIGN CHOICE 0 (A13) -/
  trims : Trims
  /-- CH_CAL_COUNT; 32; R214 (07); reset stored: DESIGN CHOICE 0 (A13) -/
  count : Nat
  /-- CH_CAL_TIME; 64; R214 (07); reset stored: DESIGN CHOICE 0 (A13) -/
  time : Nat
  /-- CH_CAL_TEMP; 64; R214 (07); reset stored: DESIGN CHOICE 0 (A13) -/
  temp : DWord
  /-- CH_CAL_STAT.RUNNING; 1; R214 (07); reset 0 -/
  running : Bool
  /-- CH_CAL_STAT.SPARE_ON; 1; R214 (07); reset 0 -/
  spareOn : Bool
  /-- CH_CAL_STAT.CAL_DEFERRED; 1; R214 (07); reset 0 -/
  deferred : Bool
  /-- CH_CAL_STAT.CAL_REJECT; 1; R214 (07); reset 0 -/
  reject : Bool
  /-- CH_CAL_STAT.PRECOND_FAIL; 1; R214 (07); reset 0 -/
  precondFail : Bool
  /-- CH_CAL_STAT.ABORTED; 1; R214 (07); reset 0 -/
  aborted : Bool
  /-- CH_CAL_STAT.CMD_REJ; 1; R214 (07); reset 0 -/
  cmdRej : Bool
  /-- CH_CAL_STAT.REJ_RUN; 4; R200, R214 (07); reset 0 -/
  rejRun : Nat
  /-- CH_CAL_STAT.CAUSE; 4; R214 (07); reset none -/
  cause : CalCause
  /-- the temperature trigger is due; 1; R189 (07); reset 0 -/
  dueTemp : Bool
  /-- the interval trigger is due; 1; R189 (07); reset 0 -/
  dueAge : Bool
  /-- a requested run is due; 1; R189 (07); reset 0 -/
  dueReq : Bool
  /-- the terminal runs accepted and not yet started, oldest first; list; R208 (07); reset empty -/
  dueTerm : List RunKind
  /-- the initial run of SAFE to READY is owed; 1; R189, R193 (07); reset 0 -/
  dueInit : Bool
  /-- the triggers whose CAL_DEFERRED notice has been recorded; R195 (07); reset none -/
  noticed : Triggers
  /-- the tick before which triggers are not evaluated; R200 (07); reset 0 -/
  quietUntil : Nat
  /-- triggers suspended after 3 rejections; 1; R200 (07); reset 0 -/
  suspended : Bool
  deriving DecidableEq, Repr

/-- A run of a comb (R196 to R210). -/
structure CalRun where
  /-- the index of the unit measured -/
  unit : Fin 9
  /-- the channel the unit was assigned to when the run started -/
  chan : Option (Fin 128)
  /-- what kind of run it is -/
  kind : RunKind
  /-- where it stands -/
  phase : RunPhase
  /-- the verdict: the record to commit, none after a rejection -/
  newRec : Option Record
  /-- a requested run, whose acceptance lifts a suspension; R200 -/
  requested : Bool
  /-- the tick at which the present phase began -/
  since : Nat
  /-- the run is aborted and the terminal is handed back at the next boundary; R207 -/
  aborting : Bool
  deriving DecidableEq, Repr

/-- The comb-common state (R394). -/
structure Comb where
  /-- CMB_MAP; 8 × 4; R394 (14); reset 0x7654_3210 -/
  map : Vector (Fin 9) 8
  /-- CMB_SERVE[3:0]; 4; R394 (14); reset 15 -/
  serve : Nat
  /-- CMB_SERVE.PARALLEL; 1; R394 (14); reset 0 -/
  parallel : Bool
  /-- CMB_SPARE.ASSIGNED; 4; R394 (14); reset 15 -/
  assigned : Nat
  /-- CMB_SPARE.CAL_NO_SPARE; 1; R213, R394 (07, 14); reset 0 -/
  calNoSpare : Bool
  /-- CMB_SPARE.REJ; 1; R394, R395 (14); reset 0 -/
  rej : Bool
  /-- a repair accepted while a run of the spare was in progress; R212, R395 (07, 14); reset none -/
  repairPend : Option (Fin 8)
  /-- a release accepted, taken at the next frame boundary; R395 (14); reset 0 -/
  releasePend : Bool
  /-- the channel slot of a repair whose commit to the spare's record is in progress; R212 (07); reset none -/
  repairCommit : Option (Fin 8)
  /-- the map change of a repair, taken at the next frame boundary; R212 (07); reset none -/
  mapPend : Option (Fin 8)
  /-- commits in progress, oldest first: unit index and record; list; R202 (07); reset empty -/
  commits : List (Fin 9 × Record)
  /-- the run in progress, CMB_SPARE.CAL_ACTIVE while present; R192 (07); reset none -/
  run : Option CalRun
  /-- frames with CSL outside its window; 2; R94 (03); reset 0 -/
  cslCount : Nat
  /-- CSL_WINDOW_FAULT is due; 1; R94 (03); reset 0 -/
  cslDue : Bool
  /-- fault kinds the idle spare has reported, for CMB_SPARE.SPARE_OUT; R277, R394 (10, 14); reset empty -/
  spareKinds : List Nat
  deriving DecidableEq, Repr

/-- The calibration block's global registers (R190, R376). -/
structure CalGlobal where
  /-- CAL_CTRL.AUTO_EN; 1; R376 (13); reset 0 until the image is loaded, then image or 1 -/
  autoEn : Bool
  /-- CAL_STATUS.SET_REJ; 1; R376 (13); reset 0 -/
  setRej : Bool
  /-- CAL_DT; 64; R190, R376 (07, 13); reset 2.0 -/
  dt : DWord
  /-- CAL_TMAX; 64; R190, R376 (07, 13); reset 86,400 -/
  tmax : DWord
  /-- CAL_TOL; 64; R190, R376 (07, 13); reset 2.0 -/
  tol : DWord
  /-- CAL_WAIT; 64; R190, R376 (07, 13); reset 0.01 -/
  wait : DWord
  deriving DecidableEq, Repr

/-- An encoder input (R157 to R160, R377). -/
structure Encoder where
  /-- SEQ_ENCn_CFG; 32; R377 (13); reset 0 (image) -/
  cfg : Word
  /-- SEQ_ENCn_ERRRUN; 4; R377 (13); reset 2 -/
  errRun : Word
  /-- SEQ_ENCn_CPR; 32; R377 (13); reset 0 -/
  cpr : Word
  /-- SEQ_ENCn_OFFSET; 64; R377, R379 (13); reset 0 -/
  offset : DWord
  /-- SEQ_ENCn_SCALE; 64; R377, R379 (13); reset 0 -/
  scale : DWord
  /-- OFFSET as taken at the last boundary; 64; R379 (13); reset 0 -/
  offsetAct : DWord
  /-- SCALE as taken at the last boundary; 64; R379 (13); reset 0 -/
  scaleAct : DWord
  /-- SEQ_ENCn_COUNT; 64 signed; R158, R377 (05, 13); reset 0 -/
  count : Int
  /-- SEQ_ENCn_ZLATCH; 64 signed; R158, R377 (05, 13); reset 0 -/
  zlatch : Int
  /-- the first latched count since the image or the last write of CFG; R158 (05); reset none -/
  zFirst : Option Int
  /-- the count latched at the frame boundary; R157 (05); reset 0 -/
  latched : Int
  /-- SEQ_ENCn_AGE; 32; R159, R377 (05, 13); reset 0 -/
  age : Nat
  /-- boundaries since the first clock edge of the SSI transfer in progress; 32; R159 (05); reset 0 -/
  transferAge : Nat
  /-- the tick of the first clock edge of that transfer; 64; R159 (05); reset 0 -/
  transferAt : Nat
  /-- the position's timestamp; 64; R159 (05); reset 0 -/
  stamp : Nat
  /-- SEQ_ENCn_ERRCNT; 32; R159, R377 (05, 13); reset 0 -/
  errCnt : Nat
  /-- consecutive failed SSI words; 5; R159 (05); reset 0 -/
  errSeq : Nat
  /-- SSI_ERROR_RUN is in force until a word passes; 1; R160 (05); reset 0 -/
  ssiFault : Bool
  /-- an illegal transition waits for the next boundary; 1; R160 (05); reset 0 -/
  illegal : Bool
  /-- an index error waits for the next boundary; 1; R160 (05); reset 0 -/
  indexErr : Bool
  /-- the encoder cause present in this frame (2 or 3), 0 for none; R160, R273 (05, 10); reset 0 -/
  cause : Nat
  /-- an SSI transfer is in progress; 1; R159 (05); reset 0 -/
  transfer : Bool
  /-- the tick from which the next SSI transfer may start; R159 (05); reset 0 -/
  pauseUntil : Nat
  deriving DecidableEq, Repr

/-- A region timer (R183, R377). -/
structure Timer where
  /-- SEQ_RrTMRt_CFG; 32; R377 (13); reset 0 (image) -/
  cfg : Word
  /-- SEQ_RrTMRt_START; 64; R377 (13); reset 0 (image) -/
  start : DWord
  /-- SEQ_RrTMRt_PERIOD; 64; R377 (13); reset 0 (image) -/
  period : DWord
  /-- SEQ_RrTMRt_COUNT; 32; R377 (13); reset 0 (image) -/
  count : Word
  /-- SEQ_RrTMRt_FIRED, its low 32 bits; R183, R377 (06, 13); reset 0 -/
  fired : Nat
  /-- the tick of the enable, earlier firings are skipped; R183 (06); reset 0 -/
  enabledAt : Nat
  deriving DecidableEq, Repr

/-- A TRIG pin (R182). -/
structure TrigPin where
  /-- SEQ_TRIGn_CFG; 32; R182, R377 (06, 13); reset 0 (image) -/
  cfg : Word
  /-- the end ticks of the pulses active on an output pin, combined by OR; list; R182 (06); reset empty -/
  pulses : List Nat
  /-- the input edge last timestamped; 64; R182 (06); reset 0 -/
  edgeAt : Nat
  /-- the level after the last edge at the pin; 1; R182, R410 (06, 15); reset DESIGN CHOICE low (A13) -/
  level : Bool
  deriving DecidableEq, Repr

/-- A ring event: its number, the execution tick it carries and whether it is a HOLD request (R184, R319). -/
structure RingEvent where
  event : Nat
  tick : Nat
  hold : Bool
  deriving DecidableEq, Repr

/-- The region sequencer block (R377). -/
structure SeqBlock where
  /-- SEQ_STATUS.LATE_EVT; 1; R184, R377 (06, 13); reset 0 -/
  lateEvt : Bool
  /-- SEQ_STATUS.TMR_REJ; 1; R378 (13); reset 0 -/
  tmrRej : Bool
  /-- SEQ_STATUS.SET_REJ; 1; R377, R425 (13, 00); reset 0 -/
  setRej : Bool
  /-- SEQ_RING_LEAD; 64; R184, R377 (06, 13); reset 102,400 -/
  ringLead : DWord
  /-- TRIG pins; 16; R182 (06); see TrigPin -/
  trig : Vector TrigPin 16
  /-- encoder inputs; 32; R157 (05); see Encoder -/
  enc : Vector Encoder 32
  /-- region timers, 16 × region + timer; 64; R183 (06); see Timer -/
  timer : Vector Timer 64
  /-- ring events that wait, each with the tick at which it counts: its execution tick, or its arrival's where
  it came late; list; R184 (06); reset empty -/
  events : List (RingEvent × Nat)
  /-- ring events executed, with which later copies merge; list; R184, R319 (06, 11); reset empty -/
  executed : List RingEvent
  /-- the region sequencer has missed the deadline of the next frame's step starts; 4; R228 (08); reset 0 -/
  missed : Vector Bool 4
  deriving DecidableEq, Repr

/-- A stream queue (R254 to R268, R366). -/
structure Queue where
  /-- SQn_CFG; 32; R366, R367 (13); reset 0 until the image is loaded, then image or 0x0000_0300 -/
  cfg : Word
  /-- SQn_DEST; 32; R366 (13); reset 0 (image) -/
  dest : Word
  /-- SQn_CTRL.EN; 1; R366 (13); reset 0 -/
  en : Bool
  /-- SQn_STAT.CFG_REJ; 1; R366 (13); reset 0 -/
  cfgRej : Bool
  /-- SQn_STAT.FRAME_ERR; 1; R256, R366 (09, 13); reset 0 -/
  frameErr : Bool
  /-- SQn_STAT.FLUSH_PEND; 1; R262, R366 (09, 13); reset 0 -/
  flushPend : Bool
  /-- SQn_STAT.FLUSH_DONE; 1; R262, R366 (09, 13); reset 0 -/
  flushDone : Bool
  /-- SQn_STAT.DISCARDED; 1; R263, R366 (09, 13); reset 0 -/
  discarded : Bool
  /-- SQn_STAT.SP_ERR; 1; R268, R366 (09, 13); reset 0 -/
  spErr : Bool
  /-- SQn_STAT.ADMIT_DENIED; 1; R366 (13); reset 0 -/
  admitDenied : Bool
  /-- the items, oldest first; up to 8,192 × 72; R254 (09); reset empty -/
  items : List QItem
  /-- how many of the oldest items the consumer sees; R260 (09); reset 0 -/
  visible : Nat
  /-- SQn_CREDIT, credits as the producer sees them; 14; R257, R366 (09, 13); reset 8,192 -/
  credit : Nat
  /-- credits returned but not yet visible to the producer; R260 (09); reset 0 -/
  returning : Nat
  /-- SQn_WM; 32; R261, R366 (09, 13); reset 0x1800_0800 -/
  wm : Word
  /-- SQn_SP_SEQ; 32; R266, R366 (09, 13); reset 0 -/
  spSeq : Word
  /-- the producer has a packet open; 1; R256 (09); reset 0 -/
  pktOpen : Bool
  /-- items of the open packet written so far; R256 (09); reset 0 -/
  pktLen : Nat
  /-- the rest of the producer's packet is discarded on arrival; 1; R258, R263 (09); reset 0 -/
  dropping : Bool
  /-- items of the set-point packet the injector has taken, oldest first; R266 (09); reset empty -/
  inj : List QItem
  /-- checked values the injector has still to apply, each with its internal CRC-32C; R264, R267 (09); reset empty -/
  values : List (DWord × Word)
  /-- the internal CRC-32C of each item of that packet, computed as it arrived; list; R264 (09); reset empty -/
  injCrcs : List Word
  /-- the channel of those values; 7; R266 (09); reset 0 -/
  injCh : Nat
  /-- DIRECT of that packet; 1; R266 (09); reset 0 -/
  injDirect : Bool
  /-- the receiving stream port has aligned; 1; R419 (15); reset 0 -/
  aligned : Bool
  deriving DecidableEq, Repr

/-- A capture stream (R243 to R246, R369). -/
structure Stream where
  /-- CAP_STRs_CFG; 16; R369 (13); reset 0 (image) -/
  cfg : Word
  /-- CAP_STRs_AGE; 32; R369 (13); reset 10 -/
  age : Word
  /-- CAP_STRs_STAT.OPEN; 1; R369 (13); reset 0 -/
  opened : Bool
  /-- CAP_STRs_STAT.ADMIT_DENIED; 1; R369 (13); reset 0 -/
  admitDenied : Bool
  /-- CAP_STRs_STAT.CFG_REJ; 1; R369 (13); reset 0 -/
  cfgRej : Bool
  /-- the reserved rate in blocks per µs; rational; R241, R244 (09); reset 0 -/
  rate : Rat
  /-- OPEN has been accepted and waits for the ledger's decision at the next boundary; 1; R225, R244 (08, 09);
  reset 0 -/
  openReq : Bool
  /-- samples of the assembly block, oldest first; up to 1,024; R245 (09); reset empty -/
  block : List Word
  /-- raw codes of the assembly block of a raw stream, oldest first; up to 5,461; R127, R245 (04, 09); reset empty -/
  raw : List Nat
  /-- the instant of a raw stream's next code; 64; R107, R126 (04); reset 0 -/
  nextCode : Nat
  /-- the tick at which the assembly block was opened; 64; R245 (09); reset 0 -/
  openedAt : Nat
  /-- the tick of the block's first sample; 64; R247 (09); reset 0 -/
  ts : Nat
  deriving DecidableEq, Repr

/-- A capture ring (R249 to R253, R369). -/
structure CapRing where
  /-- CAP_RINGn_CFG; 32; R369 (13); reset 0 (image) -/
  cfg : Word
  /-- CAP_RINGn_WP; 64; R249 (09); reset 0 -/
  wp : Nat
  /-- CAP_RINGn_RP; 64; R249 (09); reset 0 -/
  rp : Nat
  /-- CAP_RINGn_MARK; 64; R249 (09); reset 0 -/
  mark : Nat
  /-- CAP_RINGn_STAT.MARK_VALID; 1; R252 (09); reset 0 -/
  markValid : Bool
  /-- CAP_RINGn_STAT.MARK_LOST; 1; R252 (09); reset 0 -/
  markLost : Bool
  /-- REWIND has been written and waits for the scheduler cycle; 1; R253 (09); reset 0 -/
  rewindReq : Bool
  /-- where that rewind goes, none where it fails; R253 (09); reset none -/
  rewindTo : Option Nat
  /-- CAP_RINGn_STAT.REWIND_ERR; 1; R253 (09); reset 0 -/
  rewindErr : Bool
  /-- CAP_RINGn_STAT.OVERRUN; 1; R251 (09); reset 0 -/
  overrun : Bool
  /-- CAP_RINGn_STAT.CFG_REJ; 1; R250 (09); reset 0 -/
  cfgRej : Bool
  /-- CAP_RINGn_DROP; 32; R251 (09); reset 0 -/
  drop : Nat
  /-- CAP_RINGn_OVWR; 32; R251 (09); reset 0 -/
  ovwr : Nat
  deriving DecidableEq, Repr

/-- The capture store (R238 to R253, R369). -/
structure Store where
  /-- STO_PART0 to STO_PART31; BASE 18, SIZE 18, TYPE 3; R238, R369 (09, 13); reset 0 -/
  parts : Vector Part 32
  /-- the store's bytes in canonical form; 137,438,953,472 bytes; R238 (09); reset DESIGN CHOICE 0 (A5) -/
  mem : List Host.Cell
  /-- STO_STATUS.PERM; 1; R240 (09); reset 0 -/
  perm : Bool
  /-- STO_STATUS.WPROT; 1; R172, R240 (06, 09); reset 0 -/
  wprot : Bool
  /-- STO_PERM_ADDR; 64; R240 (09); reset 0 -/
  permAddr : Nat
  /-- capture rings; 31; R249 (09); see CapRing -/
  ring : Vector CapRing 31
  /-- capture streams; 2,048; R243 (09); see Stream -/
  stream : Vector Stream 2048
  /-- store accesses admitted work left for the next cycle; R228, R242 (08, 09); reset 0 -/
  late : Nat
  deriving DecidableEq, Repr

/-- A DMA engine (R330 to R334, R373). -/
structure Dma where
  /-- DMA_RING_BASE; 64; R330, R373 (12, 13); reset 0 -/
  base : DWord
  /-- DMA_RING_LEN; 17; R330, R373 (12, 13); reset 2 -/
  len : Word
  /-- DMA_HEAD; 16; R330, R373 (12, 13); reset 0 -/
  head : Nat
  /-- DMA_TAIL; 16; R330, R373 (12, 13); reset 0 -/
  tail : Nat
  /-- DMA_CTRL.EN; 1; R373 (13); reset 0 -/
  en : Bool
  /-- DMA_CFG; RATE 6, DIR 1; R334, R373 (12, 13); reset 0 -/
  cfg : Word
  /-- DMA_STATUS.CFG_REJ; 1; R373 (13); reset 0 -/
  cfgRej : Bool
  /-- DMA_STATUS.HALTED; 1; R333, R373 (12, 13); reset 0 -/
  halted : Bool
  /-- halted since EN was last written as 1; 1; R373 (13); reset 0 -/
  stopped : Bool
  /-- DMA_STATUS.ADMIT_DENIED; 1; R334, R373 (12, 13); reset 0 -/
  admitDenied : Bool
  /-- DMA_STATUS.DISCARDED; 1; R289, R373 (10, 13); reset 0 -/
  discarded : Bool
  /-- bytes of the descriptor in progress already moved; R332 (12); reset 0 -/
  moved : Nat
  /-- the descriptor in progress, which waits for credits, with its place in the ring; R330, R332 (12); reset none -/
  cur : Option (Nat × Desc)
  /-- the queue that the engine's latest descriptor serves; R289, R332 (10, 12); reset none -/
  queue : Option (Fin 32)
  /-- ABORT has stopped the transfer of the descriptor at HEAD, which completes as ABORTED; 1; R333 (12); reset 0 -/
  aborting : Bool
  deriving DecidableEq, Repr

/-- One direction of a mailbox channel (R335 to R338). -/
structure Mbx where
  /-- DATA; 32; R335 (12); reset 0 -/
  data : Word
  /-- STAT.FULL; 1; R336 (12); reset 0 -/
  full : Bool
  /-- FULL as the sender sees it; 1; R338 (12); reset 0 -/
  fullSender : Bool
  /-- FULL as the receiver sees it; 1; R338 (12); reset 0 -/
  fullReceiver : Bool
  /-- STAT.OVERWRITE_REJ; 1; R336 (12); reset 0 -/
  overwriteRej : Bool
  /-- STAT.ABORTED; 1; R336 (12); reset 0 -/
  aborted : Bool
  /-- STAT.SENDER_EPOCH; 1; R336 (12); reset 0 -/
  epoch : Bool
  deriving DecidableEq, Repr

/-- A mailbox channel (R335). -/
structure MbxChan where
  /-- host to core; R335 (12); see Mbx -/
  h2c : Mbx
  /-- core to host; R335 (12); see Mbx -/
  c2h : Mbx
  deriving DecidableEq, Repr

/-- A remote-access set (R316, R371). -/
structure RaSet where
  /-- JX_RAm_ADDR; 32; R371 (13); reset 0 -/
  addr : Word
  /-- JX_RAm_ID; 10; R371 (13); reset 0 -/
  id : Word
  /-- JX_RAm_DATA0; 32; R371 (13); reset 0 -/
  data0 : Word
  /-- JX_RAm_DATA1; 32; R371 (13); reset 0 -/
  data1 : Word
  /-- JX_RAm_STAT.BUSY; 1; R316, R371 (11, 13); reset 0 -/
  busy : Bool
  /-- JX_RAm_STAT status; 3; R318, R371 (11, 13); reset 0 -/
  status : Nat
  /-- JX_RAm_STAT.REJ; 1; R372 (13); reset 0 -/
  rej : Bool
  /-- SEQ of the request that is outstanding; 32; R301 (11); reset 0 -/
  seq : Nat
  /-- the access outstanding is of two words; 1; R371 (13); reset 0 -/
  two : Bool
  /-- the access outstanding is a broadcast write; 1; R317, R318 (11); reset 0 -/
  bcast : Bool
  deriving DecidableEq, Repr

/-- What passes JX_OUT: a frame begins, is suspended and resumed by ordered sets, and ends (R303). -/
inductive Wire where
  | begin (f : Frame) | suspend | resume | finish (f : Frame)
  deriving DecidableEq, Repr

/-- JX_OUT's side of the ring port: the frames that wait by class, and the frame in transmission (R303, R306).
Times are in 1/125 tick, in which a byte takes 8 at 100 Gbit/s (R299). -/
structure JxLine where
  /-- urgent frames, oldest first; list; R303, R306 (11); reset empty -/
  urgent : List Frame
  /-- transit frames in the 8 KiB transit buffer with their arrival, oldest first; list; R306 (11); reset empty -/
  transit : List (Frame × Nat)
  /-- own reserved frames with the time each became ready, oldest first; list; R306 (11); reset empty -/
  reserved : List (Frame × Nat)
  /-- own unreserved frames, oldest first; list; R306 (11); reset empty -/
  unreserved : List Frame
  /-- the frame on JX_OUT and its bytes already sent; R303 (11); reset none -/
  cur : Option (Frame × Nat)
  /-- the suspended frame and its bytes already sent; R303 (11); reset none -/
  susp : Option (Frame × Nat)
  /-- the time up to which the line has been served; R306 (11); reset 0 -/
  clock : Nat
  /-- what has passed JX_OUT, newest first; list; R303 (11); reset empty -/
  wire : List Wire
  deriving DecidableEq, Repr

/-- The ring port (R296 to R325, R371). -/
structure Jx where
  /-- JX_CFG; 32; R297, R371 (11, 13); reset 0x0100_0000 -/
  cfg : Word
  /-- JX_TX_SHARE; 14; R371 (13); reset 0 -/
  txShare : Word
  /-- JX_LOSS_TMO; 21; R371 (13); reset 600,000 -/
  lossTmo : Word
  /-- JX_STATUS.STATE; 3; R298 (11); reset 0 -/
  state : Nat
  /-- JX_STATUS.ALIGNED; 1; R315 (11); reset 0 -/
  aligned : Bool
  /-- JX_STATUS.BYP_WEAR; 1; R325 (11); reset 0 -/
  wear : Bool
  /-- JX_STATUS.ID; 10; R298 (11); reset 1,023 -/
  id : Nat
  /-- JX_STATUS.MEMBERS; 10; R298, R310 (11); reset 0 -/
  members : Nat
  /-- JX_CRC_LIM; 8; R305, R371 (11, 13); reset 4 -/
  crcLim : Word
  /-- JX_TIME_PER; 17; R312, R371 (11, 13); reset 8,000 -/
  timePer : Word
  /-- JX_CRC_CNT; 32; R305 (11); reset 0 -/
  crcCnt : Nat
  /-- JX_STOMP_CNT; 32; R305 (11); reset 0 -/
  stompCnt : Nat
  /-- JX_ORPHAN_CNT; 32; R304 (11); reset 0 -/
  orphanCnt : Nat
  /-- JX_QDROP_CNT; 32; R322 (11); reset 0 -/
  qdropCnt : Nat
  /-- JX_TIME_ERR in s; 64-bit readout; R314 (11); reset 0 -/
  timeErr : Rat
  /-- JX_BYP_COUNT; 32; R325 (11); reset stored: DESIGN CHOICE 0 (A13) -/
  bypCount : Nat
  /-- JX_RA_TMO; 17; R318, R371 (11, 13); reset 1,000 -/
  raTmo : Word
  /-- JX_RXRINGr_CFG; 8 × 32; R321, R371 (11, 13); reset 0 -/
  rx : Vector Word 8
  /-- JX_RAm sets; 2; R371 (13); see RaSet -/
  ra : Vector RaSet 2
  /-- the by-pass is closed; 1; R47, R323 (02, 11); reset 1 -/
  bypassed : Bool
  /-- the tick of the last closing, none before one; R323 (11); reset none -/
  closedAt : Option Nat
  /-- local training has passed; 1; R309 (11); reset 0 -/
  localOk : Bool
  /-- the links to the neighbours have trained; 1; R309 (11); reset 0 -/
  linkOk : Bool
  /-- the ring PHY has trained since the by-pass opened; 1; R274, R309 (10, 11); reset 0 -/
  linked : Bool
  /-- JOIN has been commanded; 1; R323 (11); reset 0 -/
  joinReq : Bool
  /-- SEQ of the next frame sent; 32; R301 (11); reset 0 -/
  seqNo : Nat
  /-- LTOT in 2^−10 tick; 64; R312 (11); reset 0 -/
  ltot : Nat
  /-- WTOT; 32; R312 (11); reset 0 -/
  wtot : Nat
  /-- consecutive TIME frames within 2.5 ns; 5; R315 (11); reset 0 -/
  goodTimes : Nat
  /-- a TIME frame has been taken since joining; 1; R314 (11); reset 0 -/
  timed : Bool
  /-- the member last seen upstream; 10; R311 (11); reset 1,023 -/
  upstream : Nat
  /-- the master's enumeration: 0 owed, 1 pass 1 out, 2 pass 2 out, 3 done; R310 (11); reset 0 -/
  enumPass : Nat
  /-- the master has stopped sending TIME frames; 1; R311 (11); reset 0 -/
  overbooked : Bool
  /-- TYPE, SRC and DST of the last frame whose CRC failed, as DETAIL; 28; R305 (11); reset 0 -/
  lastBad : Nat
  /-- ticks of the counted CRC failures that no RING_CRC has reported, newest first; list; R305 (11); reset empty -/
  crcTimes : List Nat
  /-- SRC and SEQ of the FAULT6 frames recorded; list; R320 (11); reset empty -/
  seen6 : List (Nat × Nat)
  /-- the FAULT6 frames that have not yet returned; list; R320 (11); reset empty -/
  sent6 : List Frame
  /-- TYPE and SEQ of the master's TIME and ENUM frames that have not yet returned, newest first; list; R311, R312
  (11); reset empty -/
  roundTrip : List (Nat × Nat)
  /-- the tick of the last TIME frame sent; R312 (11); reset none -/
  timeSent : Option Nat
  /-- JX_OUT; R303, R306 (11); see JxLine -/
  line : JxLine
  deriving DecidableEq, Repr

/-- The fault history's registers (R285, R286). -/
structure History where
  /-- FLT_HIST_CNT; 32; R285 (10); reset 0 -/
  cnt : Nat
  /-- the 32 slots; 128 each, word 1 above word 0; R284, R285 (10); reset 0 -/
  slots : Vector (BitVec 128) 32
  /-- FLT_FIRST; 128; R286 (10); reset 0 -/
  first : BitVec 128
  /-- FLT_STATUS.FIRST_VALID; 1; R286 (10); reset 0 -/
  firstValid : Bool
  deriving DecidableEq, Repr

/-- An entry of the tick being processed, before recording (R287, R288). -/
structure Entry where
  msg : Msg
  level : Nat
  esc : Bool
  notice : Bool
  deriving DecidableEq, Repr

/-- The fault collector (R269 to R288, R363). -/
structure Collector where
  /-- messages at the 147 inputs that wait for arbitration; list; R269 (10); reset empty -/
  inbox : List Stamped
  /-- (kind, source) pairs with an onset and no end yet: FLT_CUR; R272, R282 (10); reset empty -/
  present : List (Nat × Nat)
  /-- FLT_LATCH; 32; R281 (10); reset 0 -/
  latch : Word
  /-- FLT_OUTLVL0–3, FLT_OUT where not 0; 29 × 4; R281 (10); reset 0 -/
  outLvl : Vector Nat 29
  /-- OUTLVL as it stood before the tick in process; R279 (10); reset 0 -/
  snap : Vector Nat 29
  /-- the tick in process; 64; R279 (10); reset 0 -/
  tick : Nat
  /-- kinds with an onset in that tick; R279, R280 (10); reset empty -/
  tickKinds : List Nat
  /-- kinds an FLT_ACK named in that tick; R279, R280 (10); reset empty -/
  tickAcks : List Nat
  /-- FLT_STATUS.ACK_REJ without the acknowledgements of that tick; 1; R279, R280 (10); reset 0 -/
  ackRejBase : Bool
  /-- the entries of that tick; R287 (10); reset empty -/
  entries : List Entry
  /-- the history before that tick's entries; R285, R364 (10, 13); reset 0 -/
  base : History
  /-- the history registers; R285, R286 (10); see History -/
  hist : History
  /-- FLT_STATUS.ACK_REJ; 1; R280 (10); reset 0 -/
  ackRej : Bool
  /-- FLT_STATUS.SET_REJ; 1; R291 (10); reset 0 -/
  setRej : Bool
  /-- FLT_WAGGLE.LEVEL; 3; R291, R363 (10, 13); reset 5 -/
  wagLevel : Nat
  /-- FLT_WAGGLE.STOP_CAUSE; 3; R291, R363 (10, 13); reset 4 -/
  stopCause : Nat
  deriving DecidableEq, Repr

/-- Identity, mode and lifetime (R358, R359). -/
structure Mod where
  /-- MOD_STATUS.MODE; 4; R38, R359 (02, 13); reset BYPASS -/
  mode : Mode
  /-- MOD_STATUS.CMD_REJ; 1; R41, R359 (02, 13); reset 0 -/
  cmdRej : Bool
  /-- MOD_STATUS.ADMIT_DENIED; 1; R55, R359 (02, 13); reset 0 -/
  admitDenied : Bool
  /-- MOD_STATUS.REFCLK_10M; 1; R229, R359 (08, 13); reset strap: DESIGN CHOICE 0, the pull-up's 100 MHz (A13) -/
  refclk10M : Bool
  /-- MOD_STATUS.AUTO; 1; R54, R359 (02, 13); reset 0 -/
  auto : Bool
  /-- MOD_STATUS.REF_SETTLED; 1; R55, R359 (02, 13); reset 0 -/
  refSettled : Bool
  /-- MOD_STATUS.COLL_STALL; 1; R295, R359 (10, 13); reset 0 -/
  collStall : Bool
  /-- READY is requested and its conditions are awaited; 1; R55 (02); reset 0 -/
  readyReq : Bool
  /-- the request for READY came by the automatic path; 1; R54 (02); reset 0 -/
  readyAuto : Bool
  /-- the ledger has reserved the start set for READY; 1; R55 (02); reset 0 -/
  readyAdmitted : Bool
  /-- RUN is pending; 1; R42 (02); reset 0 -/
  runReq : Bool
  /-- HOLD is pending; 1; R42 (02); reset 0 -/
  holdReq : Bool
  /-- SAFE is pending for the next boundary; 1; R42, R43 (02); reset 0 -/
  safeReq : Bool
  /-- the transition to SAFE is in progress; 1; R43 (02); reset 0 -/
  safePend : Bool
  /-- the automatic path still owes START at the first boundary in RUN; 1; R54 (02); reset 0 -/
  autoStart : Bool
  /-- the tick at which HOLD was entered; 64; R57 (02); reset 0 -/
  holdFrom : Nat
  /-- LOCKDOWN was entered from BOOT; 1; R39, R63 (02); reset 0 -/
  fromBoot : Bool
  /-- MOD_LIFE_PON; 32; R358 (13); reset stored: DESIGN CHOICE 0 (A13) -/
  lifePon : Nat
  /-- MOD_LIFE_TIME; 64; R358 (13); reset stored: DESIGN CHOICE 0 (A13) -/
  lifeTime : Nat
  /-- ticks that count towards MOD_LIFE_TIME besides, up to `lifeFrom`; R358 (13); reset 0 -/
  lifeAcc : Nat
  /-- the tick from which the timebase's own count adds to them: a step of the count moves it; R314, R358 (11, 13); reset 0 -/
  lifeFrom : Nat
  /-- MOD_LIFE_LOCK; 32; R358 (13); reset stored: DESIGN CHOICE 0 (A13) -/
  lifeLock : Nat
  /-- MOD_LIFE_OPEN; 32; R358 (13); reset stored: DESIGN CHOICE 0 (A13) -/
  lifeOpen : Nat
  /-- MOD_SCRATCH; 32; R358 (13); reset 0 -/
  scratch : Word
  /-- MOD_SERIAL, SEC_SERIAL; 128; R358, R374 (13); reset factory: DESIGN CHOICE 0 (A13) -/
  serial : BitVec 128
  /-- MOD_FW; 32; R358 (13); reset firmware: DESIGN CHOICE 0 (A13) -/
  fw : Word
  /-- cause of the last application core reset; 2; R340 (12); reset 0 -/
  resetCause : Nat
  deriving DecidableEq, Repr

/-- The timebase and the frame period (R230 to R232, R360). -/
structure Timebase where
  /-- TB_NOW; 64; R230, R360 (08, 13); reset 0 -/
  now : Nat
  /-- the counters run; 1; R230 (08); reset 0 -/
  running : Bool
  /-- TB_FRAME; 32; R231, R360 (08, 13); reset 800 -/
  frame : Nat
  /-- TB_FRAME_ACT; 32; R360 (13); reset 800 -/
  act : Nat
  /-- TB_FRAME_AT; 64; R360 (13); reset 0 -/
  at_ : DWord
  /-- TB_STATUS.SET_REJ; 1; R360 (13); reset 0 -/
  setRej : Bool
  /-- TB_STATUS.ADMIT_DENIED; 1; R360 (13); reset 0 -/
  admitDenied : Bool
  /-- TB_STATUS.STEPPED; 1; R314, R360 (11, 13); reset 0 -/
  stepped : Bool
  /-- a period change waits for boundary B; 1; R232 (08); reset 0 -/
  reqPend : Bool
  /-- boundary N of an admitted change; R232 (08); reset none -/
  changeAt : Option Nat
  /-- the last frame boundary; 64; R25 (01); reset 0 -/
  last : Nat
  /-- the length of the frame just begun, T in ticks; R138, R232 (05, 08); reset 800 -/
  len : Nat
  deriving DecidableEq, Repr

/-- The deadline ledger and VCORE steering (R216 to R228, R360). -/
structure Ledger where
  /-- TB_LDG_TS; 64-bit readout; R216, R360 (08, 13); reset 0 -/
  ts : Rat
  /-- TB_LDG_NEED; 64-bit readout; R223, R360 (08, 13); reset 0 -/
  need : Rat
  /-- largest sentinel reports of the last 100 µs, newest first; up to 10; R216 (08); reset empty -/
  reports : List Rat
  /-- TB_VCORE; 10; R217, R360 (08, 13); reset 0 -/
  vcore : Nat
  /-- a VCORE request waits for the sense; 1; R217 (08); reset 0 -/
  waitSense : Bool
  /-- that request is a step down; 1; R218 (08); reset 0 -/
  downSense : Bool
  /-- TB_LDG_VMIN; 10; R218, R360 (08, 13); reset 550 -/
  vmin : Nat
  /-- the tick since which the smallest margin has stayed above 35%; R218 (08); reset none -/
  aboveSince : Option Nat
  /-- the tick until which R223 steers VCORE after a refusal; R223 (08); reset 0 -/
  refusedUntil : Nat
  /-- the tick of the last decision; R218 (08); reset 0 -/
  decidedAt : Nat
  /-- fixed charges stand in their accounts, from BOOT step 7; 1; R220 (08); reset 0 -/
  fixed : Bool
  deriving DecidableEq, Repr

/-- The power and thermal manager (R34, R35, R149, R362). -/
structure Power where
  /-- PWR_BUDGETd; 2 × 64; R34, R362 (01, 13); reset 40.0 -/
  budget : Vector DWord 2
  /-- PWR_BUDGETd as taken at the last boundary; 2 × 64; R362 (13); reset 40.0 -/
  budgetAct : Vector DWord 2
  /-- PWR_DIE_FACTORd; 2 readouts; R149, R362 (05, 13); reset 1.0 -/
  factor : Vector Rat 2
  /-- PWR_DIE_Pd; 2 readouts; R149, R362 (05, 13); reset 0 -/
  p : Vector Rat 2
  /-- frames with P above the budget at the least factor; R149 (05); reset 0 -/
  overFrames : Vector Nat 2
  /-- the THERMAL test of each sensor holds; 22 × 1; R35, R273 (01, 10); reset 0 -/
  hot : Vector Bool 22
  /-- the THERMAL test of each die's budget holds; 2 × 1; R149, R273 (05, 10); reset 0 -/
  budgetHot : Vector Bool 2
  /-- PWR_TEMPi; 22 readouts; R35, R362 (01, 13); reset 0 -/
  temps : Vector Rat 22
  /-- PWR_TLIMi; 22 × 64; R35, R362 (01, 13); reset R35 default -/
  tlim : Vector DWord 22
  /-- PWR_RAILj; 7 readouts; R362 (13); reset 0 -/
  rails : Vector Rat 7
  /-- each rail against its supervision window, 0 inside, 1 below, 2 above; 7; R217, R406 (08, 15); reset 0 -/
  railOut : Vector (Fin 3) 7
  /-- PWR_STATUS.SET_REJ; 1; R362 (13); reset 0 -/
  setRej : Bool
  deriving DecidableEq, Repr

/-- The configuration loader (R49 to R54, R374). -/
structure Boot where
  /-- BOOT_STATUS.BOOT_ERR; 8; R53, R374 (02, 13); reset 0 -/
  err : Nat
  /-- BOOT_STATUS last step completed; 4; R374 (13); reset 0 -/
  step : Nat
  /-- BOOT_STATUS[12]; 1; R374 (13); reset 0 -/
  octal : Bool
  /-- BOOT_STATUS[13]; 1; R374 (13); reset 0 -/
  encrypted : Bool
  /-- BOOT_IMG_LEN; 32; R374 (13); reset 0 -/
  len : Nat
  /-- BOOT_TIME; 32; R374 (13); reset 0 -/
  time : Nat
  /-- BOOT_IMG_HASH0–11; 384; R374 (13); reset 0 -/
  hash : BitVec 384
  /-- the image in the staging area, or loaded from step 7; R50, R51 (02); reset none -/
  image : Option Image
  deriving DecidableEq, Repr

/-- The secure core's registers, keys and window (R345 to R354, R374, R375). -/
structure Sec where
  /-- SEC_STATUS.AUTH; 1; R375 (13); reset 0 -/
  auth : Bool
  /-- SEC_STATUS.AUTH_BUSY; 1; R375 (13); reset 0 -/
  busy : Bool
  /-- SEC_STATUS.BAR2_DENY; 1; R349, R375 (12, 13); reset 0 -/
  bar2Deny : Bool
  /-- SEC_STATUS.ATT_FACTORY; 1; R346, R375 (12, 13); reset stored: DESIGN CHOICE 1, as manufactured (A13) -/
  attFactory : Bool
  /-- the image decryption key in the key store; 256; R346 (12); reset stored: DESIGN CHOICE none (A13) -/
  decKey : Option (BitVec 256)
  /-- SEC_IMG_KEY; 768; R346, R374 (12, 13); reset stored: DESIGN CHOICE none (A13) -/
  imgKey : Option (BitVec 768)
  /-- SEC_HOST_KEY; 768; R346, R374 (12, 13); reset stored: DESIGN CHOICE none (A13) -/
  hostKey : Option (BitVec 768)
  /-- slot A of the provisioning record, none where it does not pass its check; R345 (12); reset as manufactured: valid,
  with no keys and DBG_POLICY 0 (R345, R352) -/
  recA : Option ProvRecord
  /-- slot B of the provisioning record; R345 (12); reset DESIGN CHOICE none (A13) -/
  recB : Option ProvRecord
  /-- SEC_STATUS.LOCKOUT; 1; R348, R375 (12, 13); reset 0 -/
  lockout : Bool
  /-- the lockout lasts until PORST_N; 1; R348 (12); reset 0 -/
  lockedOut : Bool
  /-- SEC_STATUS.DBG_POLICY; 2; R352, R375 (12, 13); reset stored: the factory value 0 (R352) -/
  policy : Nat
  /-- SEC_STATUS.KS_GEN; 16; R375 (13); reset stored: DESIGN CHOICE 0 (A13) -/
  ksGen : Nat
  /-- generation of the attestation key pair, 0 the factory's; R345, R346 (12); reset 0 -/
  attGen : Nat
  /-- the key store reads all zeros; 1; R345 (12); reset 0 -/
  erased : Bool
  /-- the provisioning record has passed its check; 1; R345 (12); reset 1 (as manufactured, R345) -/
  recordOk : Bool
  /-- SEC_NONCE; 384; R348, R374 (12, 13); reset 0 -/
  nonce : BitVec 384
  /-- the tick of the nonce that is valid for one VERIFY; R348 (12); reset none -/
  nonceAt : Option Nat
  /-- SEC_AUTH_BUF; 384 bytes; R348, R374 (12, 13); reset 0 -/
  buf : Vector Byte 384
  /-- the session key; 256; R346, R348 (12); reset none -/
  session : Option (BitVec 256)
  /-- consecutive failed authentications; 5; R348 (12); reset 0 -/
  fails : Nat
  /-- the secure buffer of BAR2; 2,048 bytes; R349 (12); reset 0 -/
  window : Vector Byte 2048
  /-- SEC_ATT_CERT_LEN; 32; R374 (13); reset factory: DESIGN CHOICE 0 (A13) -/
  certLen : Nat
  /-- SEC_ATT_CERT; 2,048 bytes; R374 (13); reset factory: DESIGN CHOICE none listed (A13) -/
  cert : List Byte
  deriving DecidableEq, Repr

/-- What the PCIe function's configuration space says of it (R326). -/
structure PciFunction where
  /-- Device ID; 16; R326 (12); reset 0x9128 -/
  deviceId : Nat
  /-- class code; 24; R326 (12); reset 0x11_8000 -/
  classCode : Nat
  /-- largest supported payload in bytes; R326 (12); reset 512 -/
  maxPayload : Nat
  /-- largest supported read request in bytes; R326 (12); reset 4,096 -/
  maxReadRequest : Nat
  /-- 10-bit tags are supported; 1; R326 (12); reset 1 -/
  tag10 : Bool
  /-- AER is supported; 1; R326 (12); reset 1 -/
  aer : Bool
  /-- function-level reset is supported; 1; R326 (12); reset 1 -/
  flr : Bool
  /-- MSI-X vectors; R326 (12); reset 10 -/
  msixVectors : Nat
  /-- the power states besides D0: D3hot is supported; 1; R326 (12); reset 1 -/
  d3hot : Bool
  deriving DecidableEq, Repr

/-- The PCIe function (R326, R327, R373). -/
structure Hst where
  /-- the configuration space of the function; R326 (12); see PciFunction -/
  pci : PciFunction
  /-- HST_PCI_ID[15:0]; 16; R326, R373 (12, 13); reset factory: DESIGN CHOICE 0 (A13) -/
  vendor : Nat
  /-- HST_LINK rate; 3; R373 (13); reset 0 -/
  rate : Nat
  /-- HST_LINK width; 3; R373 (13); reset 0 -/
  width : Nat
  /-- HST_LINK link up; 1; R373 (13); reset 0 -/
  up : Bool
  /-- HST_LINK D3hot; 1; R326, R373 (12, 13); reset 0 -/
  d3hot : Bool
  /-- the link has been up since PORST_N, so a training is a retraining; 1; R274 (10); reset 0 -/
  trained : Bool
  /-- MSI-X table; 40 × 32; R327 (12); reset DESIGN CHOICE 0 (A13) -/
  msixTable : Vector Word 40
  /-- MSI-X pending bits; 10; R327 (12); reset 0 -/
  msixPend : Vector Bool 10
  deriving DecidableEq, Repr

/-- Pins the world drives and the module drives (R101, R182, R261, R290, R411). -/
structure Pins where
  /-- PORST_N; 1; R410 (15); reset low -/
  porstN : Bool
  /-- ESTOP_N is low, MOD_STATUS.ESTOP_LOW; 1; R101, R359 (03, 13); reset 0 -/
  estopLow : Bool
  /-- PE_PERST_N; 1; R414 (15); reset DESIGN CHOICE high (A13) -/
  perstN : Bool
  /-- WAGGLE level; 1; R290 (10); reset low -/
  waggle : Bool
  /-- WAGGLE toggles; 1; R290 (10); reset 0 -/
  toggling : Bool
  /-- SQ_WM[3:0]; 4; R261 (09); reset low -/
  sqWm : Vector Bool 4
  /-- SQ_WMp_MAP; 4 × 32; R366 (13); reset 0 (image) -/
  wmMap : Vector Word 4
  /-- the TAP instruction in force; R351 (12); reset BYPASS: DESIGN CHOICE (A13) -/
  tap : TapIr
  /-- what the TAP captures for that instruction: IDCODE, or the bypass bit; 32; R351 (12); reset the bypass bit, 0 -/
  tapData : Option Word
  /-- the boundary-scan register: the lands as SAMPLE/PRELOAD last captured them; R351, R410 (12, 15); reset
  DESIGN CHOICE all low (A13) -/
  scan : BoundaryScan
  deriving DecidableEq, Repr

/-- Per-master latches and stages and the last read's completion (R13, R14, R285, R259). Masters are
named by their ids of R341. -/
structure Bus where
  /-- R13 latches: master id, LO address, HI bits; list; R13 (00); reset empty -/
  latches : List (Nat × Nat × Word)
  /-- R14 stages: master id, LO address, LO bits; list; R14 (00); reset empty -/
  stages : List (Nat × Nat × Word)
  /-- history latches: master id, slot (32 for FLT_FIRST), entry; list; R285 (10); reset empty -/
  histLatches : List (Nat × Nat × BitVec 128)
  /-- SQn_RD latches: master id, queue, data [63:32], tag; list; R259 (09); reset empty -/
  sqLatches : List (Nat × Nat × Word × Byte)
  /-- the word the last register read returned; 32; R13 (00); reset 0 -/
  read : Word
  deriving DecidableEq, Repr

/-- What has left the module, newest first. -/
structure Outputs where
  /-- MSI-X vectors sent; list; R329 (12); reset empty -/
  msix : List Nat
  /-- frames given to JX_OUT, in the order in which they became ready; list; R306 (11); reset empty -/
  ring : List Frame
  /-- AVSBus VCORE requests in mV; list; R217 (08); reset empty -/
  avs : List Nat
  /-- writes to host memory: address and bytes; list; R332, R333 (12); reset empty -/
  host : List (Nat × List Byte)
  /-- slots sent on the stream port, idle ones left out; list; R419 (15); reset empty -/
  stream : List StreamSlot
  deriving DecidableEq, Repr

/-- The module. -/
structure State where
  /-- commands that wait, first in first out; list; the model's queue; reset empty -/
  pending : List Instr
  /-- the model's own counter for free values; the model's (A12); reset DESIGN CHOICE 0 (A12) -/
  freshCount : Nat
  /-- identity and mode; R358 (13); see Mod -/
  mod : Mod
  /-- pins; 15; see Pins -/
  pins : Pins
  /-- timebase; R230 (08); see Timebase -/
  tb : Timebase
  /-- deadline ledger; R219 (08); see Ledger -/
  ldg : Ledger
  /-- power manager; R34 (01); see Power -/
  pwr : Power
  /-- fault collector; R269 (10); see Collector -/
  flt : Collector
  /-- logical channels; 128; R28 (01); see Channel -/
  ch : Vector Channel 128
  /-- physical units p = 9 × comb + index; 144; R201 (07); see CalUnit -/
  unit : Vector CalUnit 144
  /-- combs; 16; R394 (14); see Comb -/
  comb : Vector Comb 16
  /-- calibration globals; R376 (13); see CalGlobal -/
  cal : CalGlobal
  /-- region sequencers; R377 (13); see SeqBlock -/
  seq : SeqBlock
  /-- stream queues; 32; R254 (09); see Queue -/
  sq : Vector Queue 32
  /-- capture store; R238 (09); see Store -/
  sto : Store
  /-- ring port; R371 (13); see Jx -/
  jx : Jx
  /-- PCIe function; R373 (13); see Hst -/
  hst : Hst
  /-- DMA engines; 8; R330 (12); see Dma -/
  dma : Vector Dma 8
  /-- mailboxes NS0 to NS15, then SC0 to SC3; 20; R335 (12); see MbxChan -/
  mbx : Vector MbxChan 20
  /-- lock owners, 0 free; 64 × 4; R341 (12); reset 0 -/
  lock : Vector Nat 64
  /-- loader; R374 (13); see Boot -/
  boot : Boot
  /-- secure core; R375 (13); see Sec -/
  sec : Sec
  /-- latches and stages; R13, R14 (00); see Bus -/
  bus : Bus
  /-- what left the module; see Outputs -/
  out : Outputs
  deriving DecidableEq, Repr

/-- Why a command stops with a fault. No meaning of this model raises one: the block has no access
that the spec says does not exist, since reserved addresses read 0 and ignore writes (R10) and the
store answers every access (R240). The one constructor keeps the type inhabited; safe. -/
inductive Fault where
  /-- never raised -/
  | none
  deriving DecidableEq, Repr

/-- Why a command is refused. -/
inductive Refusal where
  /-- an arm of exec that has no meaning yet raises it, by the table's mnemonic; safe -/
  | notModelled (mnemonic : String)
  deriving DecidableEq, Repr

/-- A bank with every register 0 (R356: "Image" reads 0 until BOOT step 7). -/
def Bank.zero : Bank :=
  { ct := Vector.replicate 4 ⟨0, 0, 0, 0, 0, 0, 0, 0, 0, 0, 0⟩
    ma := Vector.replicate 16 0, mb := Vector.replicate 4 0, mc := Vector.replicate 4 0
    ml := Vector.replicate 4 0, khold := Vector.replicate 4 0
    dbias := 0, resLim := 0, resCnt := 0, frzCnt := 0, frzLsb := 0, frzDrive := 0 }

/-- The configuration before BOOT step 7 (R356). -/
def ChCfg.zero : ChCfg :=
  { func := .off, vInit := 0, iInit := 0, vTable := [], iTable := [], boosters := []
    connectAtSafe := false, init := .hiz, compHi := 0, compLo := 0, fe := 0, ar := 0, safe := 0
    holdComp := 0, dac := 0, dec := 0, supv := 0, lpCfg := 0
    ctCfg := Vector.replicate 4 0, ctFb := Vector.replicate 4 0
    bankA := Bank.zero, bankB := Bank.zero
    pgInit := 0, pgVmax := 0, pgAmax := 0, pgJmax := 0, pgLimLo := 0, pgLimHi := 0, pgCfg := 0
    swBase := 0, swLen := 0 }

/-- The supervision settings of a bank that the image does not give (R389). -/
def Bank.default : Bank :=
  { Bank.zero with
    resCnt := 0x4010000000000000, frzCnt := 0x408F400000000000, frzLsb := 0x4000000000000000
    frzDrive := 0x40E86A0000000000 }

/-- The configuration of a channel that the image does not name: OFF, with the defaults of R384, R389 and R391. -/
def ChCfg.default : ChCfg :=
  { ChCfg.zero with
    fe := 0x0A6E0003, safe := 0x6400, supv := 0x000013880010020A, bankA := Bank.default, bankB := Bank.default
    swLen := 1 }

/-- A contender with cleared state (R65 step 4). -/
def Contender.reset : Contender := ⟨0, 0, 0, 0, 0, 0, false, false, false, false⟩

/-- An idle engine (R137). -/
def Engine.reset : Engine :=
  { ct := Vector.replicate 4 Contender.reset, bud := Vector.replicate 2 Contender.reset
    bankSel := false, bankAct := false, demand := 0, demands := [], dac := 0, dacs := [], yhat := 0
    x := Vector.replicate 4 0, winner := 0, demClip := false, coefRej := false, bankRej := false
    firstFrame := false, reacting := false, frozen := false
    ctPrev := Vector.replicate 4 Contender.reset, budPrev := Vector.replicate 2 Contender.reset
    ctEval := Vector.replicate 4 Contender.reset, budEval := Vector.replicate 2 Contender.reset
    takesPart := false, xPrev := Vector.replicate 4 0, modelErr := 0, resCount := 0, resDue := false
    frzY0 := 0, frzD0 := 0, frzLen := 0, frzDrive := 0, frzDue := false }

/-- A generator at rest at 0. -/
def Profile.reset : Profile :=
  { target := 0, aim := 0, pos := 0, vel := 0, acc := 0, segs := [], goal := 0, after := none
    fresh := false, moving := false, arrived := false, tgtRej := false }

/-- Ranges before the image is loaded. -/
def ChRange.reset : ChRange :=
  { vReq := 0, iReq := 0, vTaken := 0, iTaken := 0, vAct := 0, iAct := 0, pendV := none
    pendI := none, seq := none, rangeRej := false, downCount := 0 }

/-- An IDLE list (R176). -/
def Sweep.reset : Sweep :=
  { state := .idle, cause := .none, armRej := false, ownRej := false, admitDenied := false
    setRej := false, first := 0, repeats := 0, startAt := 0, pos := 0, iter := 0, passes := 0
    step := none, firstStep := false, stepAt := 0, started := false, waitFrom := 0, trigAt := none, base := none
    windowOpen := false, windowRanging := false, windowClosed := false, windowDone := false, endLate := false
    results := [], outs := [], armReq := false, disarmReq := false
    reserved := false }

/-- A deglitcher that tracks 0. -/
def Deglitch.reset : Deglitch := ⟨false, false, 0, 0⟩

/-- Readings and counts after reset. -/
def Measure.reset : Measure :=
  { sense := 0, meas := 0, mon := 0, ovrSense := false, ovrMeas := false, hrSense := 0
    hrMeas := 0, hrTs := 0, hrRanging := false, hrNext := false, hrClosed := false, compSeen := false, compFrames := 0, clampCount := 0
    clampDue := false, leadCount := 0, leadDue := false, openCount := 0, openDue := false
    monCount := 0, monDue := false, monSkip := 0 }

/-- A channel after reset: STOPPED, high impedance (R44, R64). -/
def Channel.reset : Channel :=
  { cfg := ChCfg.zero, state := .stopped, stopping := false, startReq := false
    stopReq := none, reactFrame := none, stopFrame := none, reserved := false, startSet := false, out := .hiz, switchOn := false
    rampFrom := none, compHi := 0, compLo := 0, effLo := 0, effHi := 0, inComp := false
    dg := Deglitch.reset, dgPrev := Deglitch.reset, bdrvZero := false, startRej := false, structRej := false
    admitDenied := false, compRej := false, range := ChRange.reset, eng := Engine.reset
    pg := Profile.reset, sw := Sweep.reset, ms := Measure.reset }

/-- A unit as shipped (R203, R214). -/
def CalUnit.reset (p : Fin 144) : CalUnit :=
  { slotA := some (Slot.seal p Record.factory), slotB := none, factory := Trims.zero, trims := Trims.zero
    count := 0, time := 0, temp := 0
    running := false, spareOn := false, deferred := false, reject := false
    precondFail := false, aborted := false, cmdRej := false, rejRun := 0, cause := .none
    dueTemp := false, dueAge := false, dueReq := false, dueTerm := [], dueInit := false, noticed := Triggers.none
    quietUntil := 0
    suspended := false }

/-- A comb after reset (R394). -/
def Comb.reset : Comb :=
  { map := Vector.ofFn fun i => i.castSucc, serve := 15, parallel := false, assigned := 15
    calNoSpare := false, rej := false, repairPend := none, releasePend := false
    repairCommit := none, mapPend := none, commits := [], run := none, cslCount := 0, cslDue := false
    spareKinds := [] }

/-- The calibration globals after reset (R376): 2.0, 86,400, 2.0 and 0.01 in binary64. -/
def CalGlobal.reset : CalGlobal :=
  { autoEn := false, setRej := false, dt := 0x4000000000000000, tmax := 0x40F5180000000000
    tol := 0x4000000000000000, wait := 0x3F847AE147AE147B }

/-- An encoder input after reset (R377). -/
def Encoder.reset : Encoder :=
  { cfg := 0, errRun := 2, cpr := 0, offset := 0, scale := 0, offsetAct := 0, scaleAct := 0
    count := 0, zlatch := 0, zFirst := none, latched := 0, age := 0, transferAge := 0, transferAt := 0, stamp := 0, errCnt := 0, errSeq := 0
    ssiFault := false, illegal := false, indexErr := false, cause := 0, transfer := false
    pauseUntil := 0 }

/-- The sequencer block after reset (R377). -/
def SeqBlock.reset : SeqBlock :=
  { lateEvt := false, tmrRej := false, setRej := false, ringLead := 102400
    trig := Vector.replicate 16 ⟨0, [], 0, false⟩, enc := Vector.replicate 32 Encoder.reset
    timer := Vector.replicate 64 ⟨0, 0, 0, 0, 0, 0⟩, events := [], executed := []
    missed := Vector.replicate 4 false }

/-- A queue after reset (R366). -/
def Queue.reset : Queue :=
  { cfg := 0x300, dest := 0, en := false, cfgRej := false, frameErr := false, flushPend := false
    flushDone := false, discarded := false, spErr := false, admitDenied := false, items := []
    visible := 0, credit := 8192, returning := 0, wm := 0x18000800, spSeq := 0
    pktOpen := false, pktLen := 0, dropping := false, inj := [], values := [], injCrcs := [], injCh := 0
    injDirect := false, aligned := false }

/-- The store after reset (R369). -/
def Store.reset : Store :=
  { parts := Vector.replicate 32 ⟨0, 0, 0⟩, mem := [], perm := false, wprot := false
    permAddr := 0
    ring := Vector.replicate 31 ⟨0, 0, 0, 0, false, false, false, none, false, false, false, 0, 0⟩
    stream := Vector.replicate 2048 ⟨0, 10, false, false, false, 0, false, [], [], 0, 0, 0⟩, late := 0 }

/-- An idle JX_OUT. -/
def JxLine.reset : JxLine := ⟨[], [], [], [], none, none, 0, []⟩

/-- The ring port after reset (R371). -/
def Jx.reset : Jx :=
  { cfg := 0x01000000, txShare := 0, lossTmo := 600000, state := 0, aligned := false
    wear := false, id := 1023, members := 0, crcLim := 4, timePer := 8000, crcCnt := 0
    stompCnt := 0, orphanCnt := 0, qdropCnt := 0, timeErr := 0, bypCount := 0, raTmo := 1000
    rx := Vector.replicate 8 0
    ra := Vector.replicate 2 ⟨0, 0, 0, 0, false, 0, false, 0, false, false⟩
    bypassed := true, closedAt := none, localOk := false, linkOk := false, linked := false, joinReq := false
    seqNo := 0, ltot := 0, wtot := 0, goodTimes := 0, timed := false, upstream := 1023
    enumPass := 0, overbooked := false, lastBad := 0, crcTimes := [], seen6 := [], sent6 := [], roundTrip := []
    timeSent := none, line := JxLine.reset }

/-- The history registers after reset (R285). -/
def History.reset : History :=
  { cnt := 0, slots := Vector.replicate 32 0, first := 0, firstValid := false }

/-- The collector after reset (R281, R363). -/
def Collector.reset : Collector :=
  { inbox := [], present := [], latch := 0, outLvl := Vector.replicate 29 0
    snap := Vector.replicate 29 0, tick := 0, tickKinds := [], tickAcks := [], ackRejBase := false, entries := []
    base := History.reset, hist := History.reset, ackRej := false, setRej := false
    wagLevel := 5, stopCause := 4 }

/-- Identity and mode after reset (R358, R359). -/
def Mod.reset : Mod :=
  { mode := .bypass, cmdRej := false, admitDenied := false, refclk10M := false, auto := false
    refSettled := false, collStall := false, readyReq := false, readyAuto := false
    readyAdmitted := false, runReq := false, holdReq := false, safeReq := false
    safePend := false, autoStart := false, holdFrom := 0, fromBoot := false, lifePon := 0
    lifeTime := 0, lifeAcc := 0, lifeFrom := 0, lifeLock := 0, lifeOpen := 0, scratch := 0, serial := 0, fw := 0
    resetCause := 0 }

/-- The timebase after reset (R360). -/
def Timebase.reset : Timebase :=
  { now := 0, running := false, frame := 800, act := 800, at_ := 0, setRej := false
    admitDenied := false, stepped := false, reqPend := false, changeAt := none, last := 0
    len := 800 }

/-- The ledger after reset (R360). -/
def Ledger.reset : Ledger :=
  { ts := 0, need := 0, reports := [], vcore := 0, waitSense := false, downSense := false, vmin := 550
    aboveSince := none, refusedUntil := 0, decidedAt := 0, fixed := false }

/-- The default THERMAL limits of R35 in binary64: 125, 110, 95 and 90 °C. -/
def Power.tlimReset : Vector DWord 22 :=
  Vector.ofFn fun i =>
    if i.val < 16 then 0x405F400000000000
    else if i.val = 16 then 0x405B800000000000
    else if i.val < 21 then 0x4057C00000000000
    else 0x4056800000000000

/-- The power manager after reset (R362): budgets of 40.0 W. -/
def Power.reset : Power :=
  { budget := Vector.replicate 2 0x4044000000000000
    budgetAct := Vector.replicate 2 0x4044000000000000
    factor := Vector.replicate 2 1, p := Vector.replicate 2 0
    overFrames := Vector.replicate 2 0, hot := Vector.replicate 22 false
    budgetHot := Vector.replicate 2 false, temps := Vector.replicate 22 0
    tlim := Power.tlimReset, rails := Vector.replicate 7 0, railOut := Vector.replicate 7 0
    setRej := false }

/-- A mailbox direction after reset (R336). -/
def Mbx.reset : Mbx := ⟨0, false, false, false, false, false, false⟩

/-- A DMA engine after reset (R373). -/
def Dma.reset : Dma := ⟨0, 2, 0, 0, false, 0, false, false, false, false, false, 0, none, none, false⟩

/-- The loader after reset (R374). -/
def Boot.reset : Boot :=
  { err := 0, step := 0, octal := false, encrypted := false, len := 0, time := 0, hash := 0
    image := none }

/-- The secure core after reset, as manufactured (R345, R374, R375). -/
def Sec.reset : Sec :=
  { auth := false, busy := false, bar2Deny := false, attFactory := true, decKey := none
    imgKey := none, hostKey := none, recA := some ⟨0, none, none, 0⟩, recB := none, lockout := false, lockedOut := false, policy := 0
    ksGen := 0, attGen := 0, erased := false, recordOk := true, nonce := 0, nonceAt := none
    buf := Vector.replicate 384 0, session := none, fails := 0
    window := Vector.replicate 2048 0, certLen := 0, cert := [] }

/-- The function as R326 gives it. -/
def PciFunction.onairato : PciFunction :=
  { deviceId := 0x9128, classCode := 0x118000, maxPayload := 512, maxReadRequest := 4096, tag10 := true, aer := true
    flr := true, msixVectors := 10, d3hot := true }

/-- The PCIe function after reset (R373). -/
def Hst.reset : Hst :=
  { pci := PciFunction.onairato, vendor := 0, rate := 0, width := 0, up := false, d3hot := false, trained := false
    msixTable := Vector.replicate 40 0, msixPend := Vector.replicate 10 false }

/-- The pins after reset (R411). -/
def Pins.reset : Pins :=
  { porstN := false, estopLow := false, perstN := true, waggle := false, toggling := false
    sqWm := Vector.replicate 4 false, wmMap := Vector.replicate 4 0, tap := .bypass, tapData := some 0, scan := ⟨Vector.replicate 16 false, Vector.replicate 4 false, false, false, false, false⟩ }

/-- No latch, no stage, no read yet. -/
def Bus.reset : Bus := ⟨[], [], [], [], 0⟩

/-- Nothing has left the module. -/
def Outputs.reset : Outputs := ⟨[], [], [], [], []⟩

/-- The module right after reset: BYPASS, every register at its Reset column (R356), the calibration
store as shipped (R203) and the key store as manufactured (R345). -/
def State.reset : State :=
  { pending := [], freshCount := 0, mod := Mod.reset, pins := Pins.reset, tb := Timebase.reset
    ldg := Ledger.reset, pwr := Power.reset, flt := Collector.reset
    ch := Vector.replicate 128 Channel.reset, unit := Vector.ofFn CalUnit.reset
    comb := Vector.replicate 16 Comb.reset, cal := CalGlobal.reset, seq := SeqBlock.reset
    sq := Vector.replicate 32 Queue.reset, sto := Store.reset, jx := Jx.reset
    hst := Hst.reset, dma := Vector.replicate 8 Dma.reset
    mbx := Vector.replicate 20 ⟨Mbx.reset, Mbx.reset⟩, lock := Vector.replicate 64 0
    boot := Boot.reset, sec := Sec.reset, bus := Bus.reset, out := Outputs.reset }

end Sys2Proof.Machine
end

