-- ==== Sys2Proof/Machine/Operands.lean ====
section
/-!
DEFINITION. What the fields of the registers mean: function codes, ranges and full scales, contender
assignment, supervision settings, bank conditions, queue and timer fields, and how instances map on
the hierarchy.
-/

namespace Sys2Proof.Machine

/-- Owner ids of R341. -/
def Master.id : Master → Nat
  | .host => 1 | .appCore => 2 | .secCore => 3 | .seq0 => 4 | .seq1 => 5 | .seq2 => 6
  | .seq3 => 7 | .ringAgent => 8

/-- MODE codes of R38. -/
def Mode.code : Mode → Nat
  | .bypass => 0 | .boot => 1 | .safe => 2 | .ready => 3 | .run => 4 | .hold => 5
  | .lockdown => 6 | .opened => 7

/-- STATE codes of R385. -/
def ChState.code : ChState → Nat
  | .stopped => 0 | .starting => 1 | .running => 2 | .safed => 3

/-- FUNC codes of R70. -/
def Func.code : Func → Nat
  | .off => 0 | .fv => 1 | .fi => 2 | .mv => 3 | .mi => 4 | .servo => 5

/-- The function a FUNC code names (R70). -/
def Func.ofCode? : Nat → Option Func
  | 0 => some .off | 1 => some .fv | 2 => some .fi | 3 => some .mv | 4 => some .mi
  | 5 => some .servo | _ => none

/-- STATE codes of R176. -/
def ListState.code : ListState → Nat
  | .idle => 0 | .armed => 1 | .waiting => 2 | .playing => 3 | .paused => 4 | .done => 5
  | .aborted => 6

/-- CAUSE codes of R392. -/
def ListCause.code : ListCause → Nat
  | .none => 0 | .stepBad => 1 | .timeout => 2 | .stop => 3 | .fault => 4

/-- CAUSE codes of R214. -/
def CalCause.code : CalCause → Nat
  | .none => 0 | .disagree => 1 | .trimEnd => 2 | .fault => 3 | .estop => 4 | .repair => 5
  | .lockdown => 6

/-- A list that may be armed or edited: IDLE, DONE or ABORTED (R177, R391). -/
def ListState.isIdle : ListState → Bool
  | .idle | .done | .aborted => true
  | _ => false

/-- WAITING, PLAYING or PAUSED: the sequencer owns target, pair and ranges (R178). -/
def ListState.owns : ListState → Bool
  | .waiting | .playing | .paused => true
  | _ => false

/-- SAFE, READY, RUN and HOLD. -/
def Mode.operating : Mode → Bool
  | .safe | .ready | .run | .hold => true
  | _ => false

/-! ## The hierarchy (R28, R30, R201) -/

/-- The comb of a logical channel. -/
def combOf (ch : Fin 128) : Fin 16 := ⟨ch.val / 8, by omega⟩
/-- The region of a logical channel. -/
def regionOf (ch : Fin 128) : Fin 4 := ⟨ch.val / 32, by omega⟩
/-- The isle die of a logical channel. -/
def dieOf (ch : Fin 128) : Fin 2 := ⟨ch.val / 64, by omega⟩
/-- The unit index of a logical channel within its comb. -/
def slotOf (ch : Fin 128) : Fin 8 := ⟨ch.val % 8, Nat.mod_lt _ (by decide)⟩
/-- The logical channel at a slot of a comb. -/
def chanAt (c : Fin 16) (i : Fin 8) : Fin 128 := ⟨8 * c.val + i.val, by omega⟩
/-- The physical unit p := 9 × comb + index. -/
def unitAt (c : Fin 16) (i : Fin 9) : Fin 144 := ⟨9 * c.val + i.val, by omega⟩
/-- The comb of a physical unit. -/
def unitComb (p : Fin 144) : Fin 16 := ⟨p.val / 9, by omega⟩
/-- The index of a physical unit within its comb. -/
def unitIx (p : Fin 144) : Fin 9 := ⟨p.val % 9, Nat.mod_lt _ (by decide)⟩
/-- The region of a comb. -/
def combRegion (c : Fin 16) : Fin 4 := ⟨c.val / 4, by omega⟩
/-- The isle die of a comb. -/
def combDie (c : Fin 16) : Fin 2 := ⟨c.val / 8, by omega⟩
/-- A timer's place in the list of 64. -/
def timerAt (r : Fin 4) (t : Fin 16) : Fin 64 := ⟨16 * r.val + t.val, by omega⟩
/-- The channel of a region named by an index 0 to 31 (R155). -/
def regionChan (r : Fin 4) (i : Nat) : Fin 128 := ⟨32 * r.val + i % 32, by omega⟩
/-- A channel number taken from a field of 7 bits. -/
def chanOfNat (n : Nat) : Fin 128 := ⟨n % 128, Nat.mod_lt _ (by decide)⟩

/-! ## Ranges (R73 to R75, R89) -/

/-- Full scale in V of a voltage code. -/
def vFull : Nat → Rat
  | 0 => 1 / 5 | 1 => 2 | 2 => 15 | _ => 0

/-- Full scale in A of an internal current code. -/
def iFullInt : Nat → Rat
  | 0 => 1 / 100000000 | 1 => 1 / 10000000 | 2 => 1 / 1000000 | 3 => 1 / 100000
  | 4 => 1 / 10000 | 5 => 1 / 1000 | 6 => 1 / 100 | 7 => 6 / 100 | _ => 0

/-- Full scale in A of a current code, booster codes as declared. -/
def iFull (cfg : ChCfg) (code : Nat) : Rat :=
  if code < 8 then iFullInt code
  else match cfg.boosters.find? (fun b => b.code == code) with
    | some b => b.fullScale
    | none => 0

/-- The channel uses its booster: its table holds booster codes only (R90). -/
def usesBooster (cfg : ChCfg) : Bool := cfg.iTable.any (fun c => 8 ≤ c)

/-- The largest full scale of a list of codes. -/
def largest (fs : Nat → Rat) (codes : List Nat) : Rat := codes.foldl (fun m c => maxR m (fs c)) 0

/-! ## Structural fields -/

/-- CH_FE.CLAMP_CNT (R384). -/
def clampCnt (cfg : ChCfg) : Nat := field cfg.fe 9 0
/-- CH_FE.SENSE: LOCAL (R384). -/
def localSense (cfg : ChCfg) : Bool := bit cfg.fe 12
/-- CH_FE.OV_LIM in % of the voltage range (R384). -/
def ovLim (cfg : ChCfg) : Nat := field cfg.fe 22 16
/-- CH_FE.LEAD_DROP in V (R384). -/
def leadDropLim (cfg : ChCfg) : Rat := (field cfg.fe 29 24 : Rat) / 10
/-- CH_AR.MIN (R384). -/
def arMin (cfg : ChCfg) : Nat := field cfg.ar 11 8
/-- CH_AR.MAX (R384). -/
def arMax (cfg : ChCfg) : Nat := field cfg.ar 15 12
/-- CH_SAFE.STATE (R97). -/
def safeCode (cfg : ChCfg) : Nat := field cfg.safe 1 0
/-- CH_SAFE.RZ_TMAX in ticks (R98). -/
def rzTicks (cfg : ChCfg) : Nat := field cfg.safe 23 8 * 800000
/-- CH_DEC.HR_RATE (R119). -/
def hrRate (cfg : ChCfg) : Nat := field cfg.dec 6 4
/-- CH_SUPV.SUPV_MODE (R386). -/
def supvMode (cfg : ChCfg) : Nat := field64 cfg.supv 1 0
/-- CH_SUPV.MON_QTY: current (R386). -/
def monCurrent (cfg : ChCfg) : Bool := cfg.supv.getLsbD 2
/-- CH_SUPV.MON_LAG (R386). -/
def monLag (cfg : ChCfg) : Nat := field64 cfg.supv 5 3
/-- CH_SUPV.MON_CNT (R386). -/
def monCnt (cfg : ChCfg) : Nat := field64 cfg.supv 15 6
/-- CH_SUPV.OPEN_CNT (R386). -/
def openCnt (cfg : ChCfg) : Nat := field64 cfg.supv 31 16
/-- CH_SUPV.MON_TOL in ppm of range (R386). -/
def monTol (cfg : ChCfg) : Nat := field64 cfg.supv 48 32
/-- LP_CFG.FORCE_Q: current (R143). -/
def forceQ (cfg : ChCfg) : Bool := bit cfg.lpCfg 0
/-- LP_CFG.MODEL_N (R161). -/
def modelN (cfg : ChCfg) : Nat := field cfg.lpCfg 6 4
/-- PG_CFG.MODE: STEP (R167). -/
def stepMode (cfg : ChCfg) : Bool := bit cfg.pgCfg 0

/-- Ticks of a high-resolution aperture (R119). -/
def hrTicks : Nat → Nat
  | 0 => 80000 | 1 => 160000 | 2 => 400000 | 3 => 800000 | 4 => 1600000 | 5 => 8000000
  | 6 => 13333333 | _ => 16000000

/-- The function forces a current (R70, R143). -/
def forcesCurrent (cfg : ChCfg) : Bool :=
  match cfg.func with
  | .fi => true
  | .servo => forceQ cfg
  | _ => false

/-- The function has a loop engine at work: neither OFF nor MV (R137). -/
def hasLoop (cfg : ChCfg) : Bool := !(cfg.func == .off || cfg.func == .mv)

/-- LP_CTx_CFG as in force: assigned by the module in FV, FI and MI (R142, R388). -/
def ctCfg (cfg : ChCfg) (i : Fin 4) : Word :=
  if cfg.func == .servo then cfg.ctCfg[i]
  else if cfg.func == .off || cfg.func == .mv then cfg.ctCfg[i]
  else match i.val with
    | 0 => 0x01 | 1 => 0x31 | 2 => 0x43 | _ => cfg.ctCfg[i]

/-- LP_CTx_FB as in force (R142, R388). -/
def ctFb (cfg : ChCfg) (i : Fin 4) : Word :=
  match cfg.func, i.val with
  | .fv, 0 | .mi, 0 => 0 | .fv, 1 | .mi, 1 => 1 | .fv, 2 | .mi, 2 => 1
  | .fi, 0 => 1 | .fi, 1 => 0 | .fi, 2 => 0
  | _, _ => cfg.ctFb[i]

/-- The module writes CFG and FB of contenders A to C with the assignment of R142 where FUNC is FV, FI or MI (R388). -/
def assignCts (cfg : ChCfg) : ChCfg :=
  { cfg with ctCfg := Vector.ofFn (ctCfg cfg), ctFb := Vector.ofFn (ctFb cfg) }

/-- LP_CTx_CFG.EN (R388). -/
def ctEn (cfg : ChCfg) (i : Fin 4) : Bool := bit (ctCfg cfg i) 0
/-- LP_CTx_CFG.SET: lower (R388). -/
def ctLower (cfg : ChCfg) (i : Fin 4) : Bool := bit (ctCfg cfg i) 1
/-- LP_CTx_CFG.REF (R388). -/
def ctRef (cfg : ChCfg) (i : Fin 4) : Nat := field (ctCfg cfg i) 6 4
/-- LP_CTx_FB.SRC (R155). -/
def fbSrc (w : Word) : Nat := field w 2 0
/-- LP_CTx_FB.IDX (R155). -/
def fbIdx (w : Word) : Nat := field w 8 4
/-- LP_CTx_FB.DERIV (R155). -/
def fbDeriv (w : Word) : Bool := bit w 12

/-- The four contenders in order. -/
def allCt : List (Fin 4) := [0, 1, 2, 3]

/-- The first enabled contender with a reference code. -/
def ctWithRef (cfg : ChCfg) (r : Nat) : Option (Fin 4) :=
  allCt.find? (fun i => ctEn cfg i && ctRef cfg i == r)

/-- The main contender: its reference is the profile set-point (R71, R143). -/
def mainCt (cfg : ChCfg) : Option (Fin 4) := ctWithRef cfg 0

/-- The feedback word of the compliance pair: the upper compliance contender's (R71, R77). A channel in MV has no
pair (R72), nor has one in OFF. -/
def pairFb (cfg : ChCfg) : Option Word := if hasLoop cfg then (ctWithRef cfg 3).map (ctFb cfg) else none

/-- The pair is clipped to a range: SENSE or MEAS without DERIV (R77). -/
def pairClipped (cfg : ChCfg) : Bool :=
  match pairFb cfg with
  | some w => fbSrc w < 3 && !fbDeriv w
  | none => false

/-- The pair limits a current. -/
def pairCurrent (cfg : ChCfg) : Bool :=
  match pairFb cfg with
  | some w => fbSrc w == 1 || fbSrc w == 2
  | none => false

/-- Autorange acts: EN, in FV, MI or SERVO, with a clipped pair that limits current (R77, R87). -/
def arOn (cfg : ChCfg) : Bool :=
  bit cfg.ar 0 && (cfg.func == .fv || cfg.func == .mi || cfg.func == .servo)
    && pairClipped cfg && pairCurrent cfg

/-- The bank in force. -/
def bankOf (cfg : ChCfg) (b : Bool) : Bank := if b then cfg.bankB else cfg.bankA

/-- The target window of PG_TARGET (R167). -/
def targetWindow (cfg : ChCfg) : Rat × Rat :=
  match cfg.func with
  | .fv => (-(largest vFull cfg.vTable), largest vFull cfg.vTable)
  | .fi => (-(largest (iFull cfg) cfg.iTable), largest (iFull cfg) cfg.iTable)
  | .servo => (b64ToRat cfg.pgLimLo, b64ToRat cfg.pgLimHi)
  | _ => (0, 0)

/-- A value PG_TARGET may take (R167); OFF and MV have no profile and accept any valid value. -/
def targetOk (cfg : ChCfg) (v : DWord) : Bool :=
  b64Valid v &&
    match cfg.func with
    | .off | .mv => true
    | _ => decide ((targetWindow cfg).1 ≤ b64ToRat v ∧ b64ToRat v ≤ (targetWindow cfg).2)

/-! ## Bank conditions (R151) -/

/-- TF is 0 or at least T/2 of the shortest frame (R151). -/
def tfOk (d : DWord) : Bool := decide (b64ToRat d = 0 ∨ 1 / 2000000 ≤ b64ToRat d)

/-- Feedforward is 0 on every contender but the main one (R151). -/
def ffOk (cfg : ChCfg) (i : Fin 4) (d : DWord) : Bool :=
  decide (b64ToRat d = 0) || mainCt cfg == some i

/-- ±125% of the largest range in the table, in the unit of the demand (R151). -/
def outSpan (cfg : ChCfg) : Rat :=
  5 / 4 * (if forcesCurrent cfg then largest (iFull cfg) cfg.iTable else largest vFull cfg.vTable)

/-- An output limit lies within that span (R151). -/
def outOk (cfg : ChCfg) (d : DWord) : Bool := decide (absR (b64ToRat d) ≤ outSpan cfg)

/-- The values of a contender are finite (R151). -/
def coefFinite (k : Coef) : Bool :=
  [k.kp, k.ki, k.kd, k.tf, k.kvff, k.kaff, k.intLo, k.intHi, k.outLo, k.outHi, k.refConst].all b64Valid

/-- Every value of a bank is finite (R151). -/
def bankFinite (b : Bank) : Bool :=
  b.ct.toList.all coefFinite && (b.ma.toList ++ b.mb.toList ++ b.mc.toList ++ b.ml.toList ++ b.khold.toList).all b64Valid
    && [b.dbias, b.resLim, b.resCnt, b.frzCnt, b.frzLsb, b.frzDrive].all b64Valid

/-- A count register holds an integer of a range (R389). -/
def countOk (lo hi : Nat) (d : DWord) : Bool :=
  decide ((b64ToRat d).den = 1 ∧ (lo : Rat) ≤ b64ToRat d ∧ b64ToRat d ≤ (hi : Rat))

/-- The cross-field conditions of one contender (R151). -/
def crossOk (cfg : ChCfg) (c : Coef) : Bool :=
  decide (b64ToRat c.outLo < b64ToRat c.outHi ∧ b64ToRat c.intLo < b64ToRat c.intHi ∧
    b64ToRat c.outLo ≤ b64ToRat c.intLo ∧ b64ToRat c.intHi ≤ b64ToRat c.outHi ∧
    -(outSpan cfg) ≤ b64ToRat c.outLo ∧ b64ToRat c.outHi ≤ outSpan cfg)

/-- The cross-field conditions of a bank, for all four contenders (R153). -/
def bankCross (cfg : ChCfg) (b : Bank) : Bool := allCt.all (fun i => crossOk cfg b.ct[i])

/-- RES_LIM is positive; an image without a plant model need not give it (R151, R162). -/
def resLimOk (cfg : ChCfg) (d : DWord) : Bool := decide (0 < b64ToRat d) || (modelN cfg == 0 && decide (b64ToRat d = 0))

/-- Every per-field and cross-field condition of a bank (R153). The span of magnitudes that R152 allows a host's write
is no condition on an image's value, which is loaded as it is rounded (A60). -/
def bankOk (cfg : ChCfg) (b : Bank) : Bool :=
  bankFinite b && bankCross cfg b &&
  allCt.all (fun i => tfOk b.ct[i].tf && ffOk cfg i b.ct[i].kvff && ffOk cfg i b.ct[i].kaff) &&
  resLimOk cfg b.resLim &&
  countOk 1 1000 b.resCnt && countOk 16 65535 b.frzCnt && countOk 0 255 b.frzLsb &&
  countOk 1000 1000000 b.frzDrive

/-- MC · MB over the order of the model (R98). -/
def mcmb (cfg : ChCfg) (b : Bank) : Rat :=
  ((List.finRange 4).filter (fun i => i.val < modelN cfg)).foldl
    (fun a i => a + b64ToRat b.mc[i] * b64ToRat b.mb[i]) 0

/-! ## Queues, timers, streams -/

/-- SQn_CFG.PROD (R367). -/
def qProd (w : Word) : Nat := field w 3 0
/-- SQn_CFG.CONS (R367). -/
def qCons (w : Word) : Nat := field w 7 4
/-- SQn_CFG.SCOPE (R367). -/
def qScope (w : Word) : Nat := field w 9 8
/-- SQn_CFG.SIDX (R367). -/
def qSidx (w : Word) : Nat := field w 16 10
/-- SQn_CFG.RATE in words per µs (R367). -/
def qRate (w : Word) : Nat := field w 31 20
/-- Every field of a SQn_CFG value is within its range and every endpoint in a role it may take
(R255, R367, R368). -/
def queueCfgOk (w : Word) : Bool :=
  qProd w ≤ 8 && qCons w ≤ 9 && qRate w ≤ 1000 &&
    (match qScope w with
     | 0 => true
     | 1 => qSidx w < 16
     | 2 => qSidx w < 4
     | _ => true)

/-- A timer's MODE (R377). -/
def tmrMode (w : Word) : Nat := field w 1 0
/-- A timer's DEST (R377). -/
def tmrDest (w : Word) : Nat := field w 11 8
/-- A timer's IDX (R377). -/
def tmrIdx (w : Word) : Nat := field w 16 12
/-- A pin's ROLE (R377). -/
def trigRole (w : Word) : Nat := field w 1 0
/-- A pin's POL (R377). -/
def trigPol (w : Word) : Bool := bit w 2

/-- CAP_STRs_CFG.SRC (R369). -/
def strSrc (w : Word) : Nat := field w 3 0
/-- CAP_STRs_CFG channel (R369). -/
def strCh (w : Word) : Fin 128 := chanOfNat (field w 10 4)
/-- CAP_STRs_CFG ring (R369). -/
def strRing (w : Word) : Nat := field w 15 11

/-- CAP_RINGn_CFG.READER (R369). -/
def ringReader (w : Word) : Nat := field w 3 0
/-- CAP_RINGn_CFG.POLICY: OVERWRITE_OLD (R369). -/
def ringOverwrites (w : Word) : Bool := bit w 4

end Sys2Proof.Machine
end

