-- ==== Sys2Proof/Machine/Ops.lean ====
section
/-!
DEFINITION. The named operations over the state: updates of one instance, messages to the collector,
mode changes, notices, the store's bytes, and the outputs' elementary moves.
-/

namespace Sys2Proof.Machine

/-! ## Updates of one instance -/

/-- Update one logical channel. -/
def updCh (s : State) (c : Fin 128) (f : Channel → Channel) : State :=
  { s with ch := s.ch.set c (f s.ch[c]) }
/-- Update every logical channel. -/
def mapCh (s : State) (f : Fin 128 → Channel → Channel) : State :=
  { s with ch := Vector.ofFn fun c => f c s.ch[c] }
/-- Run an operation for each logical channel in ascending order (R225). -/
def forCh (s : State) (f : State → Fin 128 → State) : State := (List.finRange 128).foldl f s
/-- Update one physical unit. -/
def updUnit (s : State) (p : Fin 144) (f : CalUnit → CalUnit) : State :=
  { s with unit := s.unit.set p (f s.unit[p]) }
/-- Update one comb. -/
def updComb (s : State) (c : Fin 16) (f : Comb → Comb) : State :=
  { s with comb := s.comb.set c (f s.comb[c]) }
/-- Run an operation for each comb in ascending order. -/
def forComb (s : State) (f : State → Fin 16 → State) : State := (List.finRange 16).foldl f s
/-- Update the sequencer block. -/
def updSeq (s : State) (f : SeqBlock → SeqBlock) : State := { s with seq := f s.seq }
/-- Update one encoder input. -/
def updEnc (s : State) (n : Fin 32) (f : Encoder → Encoder) : State :=
  { s with seq := { s.seq with enc := s.seq.enc.set n (f s.seq.enc[n]) } }
/-- Update one region timer. -/
def updTimer (s : State) (n : Fin 64) (f : Timer → Timer) : State :=
  { s with seq := { s.seq with timer := s.seq.timer.set n (f s.seq.timer[n]) } }
/-- Update one TRIG pin. -/
def updTrig (s : State) (n : Fin 16) (f : TrigPin → TrigPin) : State :=
  { s with seq := { s.seq with trig := s.seq.trig.set n (f s.seq.trig[n]) } }
/-- Update one stream queue. -/
def updQ (s : State) (q : Fin 32) (f : Queue → Queue) : State :=
  { s with sq := s.sq.set q (f s.sq[q]) }
/-- Update one capture ring. -/
def updRing (s : State) (n : Fin 31) (f : CapRing → CapRing) : State :=
  { s with sto := { s.sto with ring := s.sto.ring.set n (f s.sto.ring[n]) } }
/-- Update one capture stream. -/
def updStream (s : State) (n : Fin 2048) (f : Stream → Stream) : State :=
  { s with sto := { s.sto with stream := s.sto.stream.set n (f s.sto.stream[n]) } }
/-- Update one DMA engine. -/
def updDma (s : State) (e : Fin 8) (f : Dma → Dma) : State :=
  { s with dma := s.dma.set e (f s.dma[e]) }
/-- Update one mailbox direction. -/
def updMbx (s : State) (n : Fin 20) (h2c : Bool) (f : Mbx → Mbx) : State :=
  let m := s.mbx[n]
  { s with mbx := s.mbx.set n (if h2c then { m with h2c := f m.h2c } else { m with c2h := f m.c2h }) }
/-- One mailbox direction. -/
def getMbx (s : State) (n : Fin 20) (h2c : Bool) : Mbx := if h2c then s.mbx[n].h2c else s.mbx[n].c2h
/-- Update one remote-access set. -/
def updRa (s : State) (m : Fin 2) (f : RaSet → RaSet) : State :=
  { s with jx := { s.jx with ra := s.jx.ra.set m (f s.jx.ra[m]) } }
/-- Update identity and mode. -/
def updMod (s : State) (f : Mod → Mod) : State := { s with mod := f s.mod }
/-- Update the timebase. -/
def updTb (s : State) (f : Timebase → Timebase) : State := { s with tb := f s.tb }
/-- Update the ledger. -/
def updLdg (s : State) (f : Ledger → Ledger) : State := { s with ldg := f s.ldg }
/-- Update the power manager. -/
def updPwr (s : State) (f : Power → Power) : State := { s with pwr := f s.pwr }
/-- Update the collector. -/
def updFlt (s : State) (f : Collector → Collector) : State := { s with flt := f s.flt }
/-- Update the store. -/
def updSto (s : State) (f : Store → Store) : State := { s with sto := f s.sto }
/-- Update the ring port. -/
def updJx (s : State) (f : Jx → Jx) : State := { s with jx := f s.jx }
/-- Update the secure core. -/
def updSec (s : State) (f : Sec → Sec) : State := { s with sec := f s.sec }
/-- Update the loader. -/
def updBoot (s : State) (f : Boot → Boot) : State := { s with boot := f s.boot }
/-- Update the PCIe function. -/
def updHst (s : State) (f : Hst → Hst) : State := { s with hst := f s.hst }
/-- Update the pins. -/
def updPins (s : State) (f : Pins → Pins) : State := { s with pins := f s.pins }
/-- Update the bus side. -/
def updBus (s : State) (f : Bus → Bus) : State := { s with bus := f s.bus }
/-- Update a channel's ranges. -/
def updRange (s : State) (c : Fin 128) (f : ChRange → ChRange) : State :=
  updCh s c fun h => { h with range := f h.range }
/-- Update a channel's list. -/
def updSw (s : State) (c : Fin 128) (f : Sweep → Sweep) : State :=
  updCh s c fun h => { h with sw := f h.sw }
/-- Update a channel's engine. -/
def updEng (s : State) (c : Fin 128) (f : Engine → Engine) : State :=
  updCh s c fun h => { h with eng := f h.eng }
/-- Update a channel's generator. -/
def updPg (s : State) (c : Fin 128) (f : Profile → Profile) : State :=
  updCh s c fun h => { h with pg := f h.pg }
/-- Update a channel's readings and counts. -/
def updMs (s : State) (c : Fin 128) (f : Measure → Measure) : State :=
  updCh s c fun h => { h with ms := f h.ms }

/-! ## Outputs -/

/-- Send an MSI-X message (R329). -/
def sendMsix (s : State) (v : Nat) : State := { s with out := { s.out with msix := v :: s.out.msix } }

/-! ## JX_OUT (R303, R306) -/

/-- Urgent types (R302). -/
def urgentFrame (f : Frame) : Bool := f.type == 0x10 || f.type == 0x11 || f.type == 0x12
/-- The bytes of a frame (R301). -/
def frameSize (f : Frame) : Nat := 24 + f.payload.length
/-- The present time of JX_OUT. -/
def lineNow (s : State) : Nat := 125 * s.tb.now

/-- The next frame in the order of R306; a reserved frame that has waited 2 µs passes transit frames that arrived
after it. -/
def linePick (l : JxLine) : Option (Frame × JxLine) :=
  match l.urgent, l.transit, l.reserved, l.unreserved with
  | f :: r, _, _, _ => some (f, { l with urgent := r })
  | [], (f, a) :: r, (g, b) :: q, _ =>
    if b + 200000 ≤ l.clock && b < a then some (g, { l with reserved := q }) else some (f, { l with transit := r })
  | [], (f, _) :: r, [], _ => some (f, { l with transit := r })
  | [], [], (g, _) :: q, _ => some (g, { l with reserved := q })
  | [], [], [], f :: r => some (f, { l with unreserved := r })
  | [], [], [], [] => none

/-- One event on the line up to a time, and whether another may follow: a frame begins or resumes, ends, or is
suspended at its next 64-byte boundary while an urgent frame waits (R303). -/
def lineStep (now : Nat) (l : JxLine) : JxLine × Bool :=
  match l.cur with
  | none =>
    match l.susp, l.urgent with
    | some x, [] => ({ l with cur := some x, susp := none, wire := .resume :: l.wire }, true)
    | _, _ => match linePick l with
      | some (f, l) => ({ l with cur := some (f, 0), wire := .begin f :: l.wire }, true)
      | none => ({ l with clock := Nat.max l.clock now }, false)
  | some (f, n) =>
    let size := frameSize f
    let goal := if l.urgent.isEmpty || urgentFrame f then size
      else Nat.min size (Nat.max 64 ((n + 63) / 64 * 64))
    let t := l.clock + 8 * (goal - n)
    if now < t then
      let k := (now - l.clock) / 8
      ({ l with cur := some (f, n + k), clock := l.clock + 8 * k }, false)
    else if goal = size then ({ l with cur := none, clock := t, wire := .finish f :: l.wire }, true)
    else ({ l with cur := none, susp := some (f, goal), clock := t, wire := .suspend :: l.wire }, true)

/-- The time at which an urgent frame handed over at `now` begins on a line served up to then: after the frame that
JX_OUT carries, or its next 64-byte boundary, and after the urgent frames before it (R303, R306). -/
def urgentStart (now : Nat) (l : JxLine) : Nat :=
  let free := match l.cur with
    | none => Nat.max l.clock now
    | some (f, n) =>
      let size := frameSize f
      l.clock + 8 * ((if urgentFrame f then size else Nat.min size (Nat.max 64 ((n + 63) / 64 * 64))) - n)
  l.urgent.foldl (fun t f => t + 8 * frameSize f) free

/-- Serve the line, by at most a number of events. -/
def serveLine : Nat → Nat → JxLine → JxLine
  | 0, _, l => l
  | n + 1, now, l =>
    match lineStep now l with
    | (l, true) => serveLine n now l
    | (l, false) => l

/-- Serve the line up to a time: each frame begins, ends, and is suspended and resumed at most once per urgent one. -/
def lineTo (now : Nat) (l : JxLine) : JxLine :=
  serveLine (4 * (l.urgent.length + l.transit.length + l.reserved.length + l.unreserved.length) + 8) now l

/-- A frame waits in its class: urgent by type, transit by its HOPS, reserved where a ring egress stream sends it
(R306, R308). -/
def lineAdd (now : Nat) (f : Frame) (l : JxLine) : JxLine :=
  let l := lineTo now l
  lineTo now
    (if urgentFrame f then { l with urgent := l.urgent ++ [f] }
     else if f.hops ≠ 0 then { l with transit := l.transit ++ [(f, now)] }
     else if f.type = 0x20 then { l with reserved := l.reserved ++ [(f, now)] }
     else { l with unreserved := l.unreserved ++ [f] })

/-- JX_OUT is served up to the present tick. -/
def tickLine (s : State) : State := updJx s fun j => { j with line := lineTo (lineNow s) j.line }

/-- Give a frame to JX_OUT (R306). -/
def sendFrame (s : State) (f : Frame) : State :=
  { s with out := { s.out with ring := f :: s.out.ring }
           jx := { s.jx with line := lineAdd (lineNow s) f s.jx.line } }
/-- Request a VCORE over AVSBus (R217). -/
def sendAvs (s : State) (mv : Nat) : State := { s with out := { s.out with avs := mv :: s.out.avs } }
/-- Write bytes to host memory (R332). -/
def sendHost (s : State) (a : Nat) (bs : List Byte) : State :=
  { s with out := { s.out with host := (a, bs) :: s.out.host } }

/-! ## Messages to the collector (R269 to R272) -/

/-- Present a message at the collector's inputs, stamped with the present tick (R269). -/
def send (s : State) (kind source detail : Nat) : State :=
  { s with flt := { s.flt with inbox := s.flt.inbox ++ [⟨⟨kind, source, detail⟩, s.tb.now⟩] } }

/-- Whether a state kind is present at a source, messages on the way included (R272). -/
def isPresent (s : State) (kind source : Nat) : Bool :=
  match (s.flt.inbox.filter fun m =>
      m.msg.source == source && (m.msg.kind == kind || m.msg.kind == kind + 0x80)).getLast? with
  | some m => m.msg.kind == kind
  | none => s.flt.present.contains (kind, source)

/-- Send the onset of a state kind unless it is present at the source (R272). -/
def raiseState (s : State) (kind source detail : Nat) : State :=
  if isPresent s kind source then s else send s kind source detail

/-- Send the end of a state kind that is present at the source, with a DETAIL (R272). -/
def endWith (s : State) (kind source detail : Nat) : State :=
  if isPresent s kind source then send s (kind + 0x80) source detail else s
/-- The same with DETAIL 0. -/
def endState (s : State) (kind source : Nat) : State := endWith s kind source 0

/-- The SOURCE of a logical channel's unit (R270, R271). -/
def unitSource (c : Fin 128) : Nat := (combOf c).val * 16 + (slotOf c).val
/-- The SOURCE of a comb (R270). -/
def combSource (c : Fin 16) : Nat := 0x100 + c.val
/-- The SOURCE of a block of a region (R270). -/
def regionSource (r : Fin 4) (block : Nat) : Nat := 0x200 + 16 * r.val + block

/-- The slot whose terminal the spare serves now, 15 for none: that of a takeover, or the one it is assigned to by
repair (R29, R212, R394). -/
def spareServes (k : Comb) : Nat := if k.assigned = 15 then k.serve else k.assigned

/-- The physical unit that serves a logical channel now (R271, R394). -/
def servingUnit (s : State) (c : Fin 128) : Fin 144 :=
  let k := s.comb[combOf c]
  if k.serve = (slotOf c).val then unitAt (combOf c) 8 else unitAt (combOf c) k.map[slotOf c]

/-- The physical unit assigned to a logical channel (R394). -/
def assignedUnit (s : State) (c : Fin 128) : Fin 144 :=
  unitAt (combOf c) (s.comb[combOf c]).map[slotOf c]

/-- The record in force, none without a valid slot (R203). -/
def activeRec (p : Fin 144) (u : CalUnit) : Option Record :=
  if activeIsB p u.slotA u.slotB then slotRec p u.slotB else slotRec p u.slotA

/-- The record of the unit assigned to a logical channel, whose terminal fields apply there (R204, R211, R214). -/
def assignedRec (s : State) (c : Fin 128) : Option Record := activeRec (assignedUnit s c) s.unit[assignedUnit s c]

/-- DETAIL of a unit message: p in [39:32] (R271). -/
def unitDetail (s : State) (c : Fin 128) (d : Nat) : Nat := (servingUnit s c).val * 2 ^ 32 + d

/-- DETAIL of an end message: p of the unit that serves the channel of a unit's source, or of the idle spare (R271). -/
def endDetail (s : State) (source : Nat) : Nat :=
  let k : Fin 16 := ⟨source / 16 % 16, Nat.mod_lt _ (by decide)⟩
  if 0x100 ≤ source then 0
  else if source % 16 = 8 then (unitAt k 8).val * 2 ^ 32
  else unitDetail s (chanAt k ⟨source % 8, Nat.mod_lt _ (by decide)⟩) 0

/-- An event kind of a channel's unit. -/
def sendUnit (s : State) (c : Fin 128) (kind d : Nat) : State :=
  send s kind (unitSource c) (unitDetail s c d)
/-- The onset of a state kind of a channel's unit. -/
def raiseUnit (s : State) (c : Fin 128) (kind d : Nat) : State :=
  raiseState s kind (unitSource c) (unitDetail s c d)
/-- The end of a state kind of a channel's unit. -/
def endUnit (s : State) (c : Fin 128) (kind : Nat) : State :=
  endWith s kind (unitSource c) (unitDetail s c 0)

/-- DETAIL of a detection by a unit's comparators: in a parallel interval the normal unit's own p where it is the
one that detects it (R271). -/
def detectDetail (s : State) (c : Fin 128) (normal : Bool) (d : Nat) : Nat :=
  if normal && s.comb[combOf c].parallel then (assignedUnit s c).val * 2 ^ 32 + d else unitDetail s c d

/-- The SOURCE of a queue's binding scope (R258, R270). -/
def queueSource (w : Word) : Nat :=
  match qScope w with
  | 0 => unitSource (chanOfNat (qSidx w))
  | 1 => 0x100 + qSidx w % 16
  | 2 => 0x200 + 16 * (qSidx w % 4) + 5
  | _ => 0x40B

/-- DETAIL of a message from a queue's scope; a channel-bound queue reports p (R271). -/
def queueDetail (s : State) (q : Fin 32) : Nat :=
  if qScope s.sq[q].cfg = 0 then unitDetail s (chanOfNat (qSidx s.sq[q].cfg)) q.val else q.val

/-! ## Modes -/

/-- Set a rejection of a mode command (R41). -/
def cmdRej (s : State) : State := updMod s fun m => { m with cmdRej := true }

/-- Enter a device mode; a change is reported by MSI-X vector 9 (R329). -/
def setMode (s : State) (m : Mode) : State :=
  if s.mod.mode = m then s else sendMsix (updMod s fun x => { x with mode := m }) 9

/-! ## WAGGLE (R290 to R292) -/

/-- Stop WAGGLE, held low, with a cause (R291). -/
def stopWaggle (s : State) (cause : Nat) : State :=
  { s with pins := { s.pins with waggle := false, toggling := false }
           flt := { s.flt with stopCause := cause } }
/-- Start WAGGLE (R46, R292). -/
def startWaggle (s : State) : State :=
  { s with pins := { s.pins with toggling := true }, flt := { s.flt with stopCause := 0 } }

/-! ## The store's bytes (R238) -/

/-- Bytes of the store. -/
def storeSize : Nat := 137438953472

/-- The byte at an address; an unlisted address reads 0 (A5). -/
def memRead : List Host.Cell → Nat → Byte
  | [], _ => 0
  | (x, b) :: m, a => if a = x then b else memRead m a

/-- Write one byte and keep the canonical form. -/
def memWrite : List Host.Cell → Nat → Byte → List Host.Cell
  | [], a, v => if v = 0 then [] else [(a, v)]
  | (x, b) :: m, a, v =>
    if a < x then (if v = 0 then (x, b) :: m else (a, v) :: (x, b) :: m)
    else if a = x then (if v = 0 then m else (a, v) :: m)
    else (x, b) :: memWrite m a v

/-- Write bytes at ascending addresses. -/
def memWriteN : List Host.Cell → Nat → List Byte → List Host.Cell
  | m, _, [] => m
  | m, a, b :: bs => memWriteN (memWrite m a b) (a + 1) bs

/-- Read `n` bytes at ascending addresses. -/
def memReadN (m : List Host.Cell) (a : Nat) : Nat → List Byte
  | 0 => []
  | n + 1 => memRead m a :: memReadN m (a + 1) n

/-- Strictly rising addresses above a bound, and no byte equal to 0. -/
def Memory.wfFrom : Nat → List Host.Cell → Bool
  | _, [] => true
  | lo, (a, b) :: m => decide (lo ≤ a) && b != 0 && Memory.wfFrom (a + 1) m

/-- The canonical form of the store's memory. -/
def Memory.wf (m : List Host.Cell) : Bool := Memory.wfFrom 0 m

/-- The partition that holds every byte of a span (R240). -/
def partOf (s : State) (a n : Nat) : Option (Fin 32) :=
  (List.finRange 32).find? fun k =>
    let p := s.sto.parts[k]
    p.base * 2 ^ 20 ≤ a && a + n ≤ (p.base + p.size) * 2 ^ 20 && 0 < n

/-- A refused store access (R240). -/
def storePerm (s : State) (a : Nat) : State :=
  updSto s fun t => { t with perm := true, permAddr := a }

/-- The byte span of a channel's list while it is write-protected (R172). -/
def listSpan (h : Channel) : Option (Nat × Nat) :=
  if h.sw.state.isIdle then none
  else some (h.cfg.swBase.toNat, h.cfg.swBase.toNat + 64 * h.cfg.swLen.toNat)

/-- A span meets a write-protected list (R172). -/
def spanProtected (s : State) (a n : Nat) : Bool :=
  s.ch.toList.any fun h =>
    match listSpan h with
    | some (lo, hi) => decide (a < hi ∧ lo < a + n)
    | none => false

/-- Write bytes into the store without a check. -/
def storeWrite (s : State) (a : Nat) (bs : List Byte) : State :=
  updSto s fun t => { t with mem := memWriteN t.mem a bs }

/-! ## The terminal -/

/-- The deglitcher is idle: no hold, no DEGLITCH. What drives the terminal is not the source DAC, whose last value
stays in `dg.out` until it drives again (A60). -/
def calmDac (h : Channel) : Channel := { h with dg := { h.dg with flag := false, hold := false } }

/-- High impedance: driver off, switch open, and with it the guard off and a booster's drive at 0 V (R97, R99,
R101; see `terminal`); the deglitcher does not act (R114). -/
def hizCh (h : Channel) : Channel := calmDac { h with out := .hiz, switchOn := false, rampFrom := none }

/-- The output switch closes: the averages in progress see the terminal from here on (R116). -/
def closeSwitch (h : Channel) : Channel :=
  { h with switchOn := true, ms := { h.ms with hrClosed := true }, sw := { h.sw with windowClosed := true } }

/-- The initial state of a STOPPED channel (R45, R64, R66): high impedance, or the connect-at-SAFE
state while ESTOP_N is high. OFF never closes the switch (R70). The initial range comes into force, and CH_RANGE
keeps the last request (R80). A function written since the image was loaded keeps the image's initial state (A50). -/
def initialCh (estopLow : Bool) (h : Channel) : Channel :=
  if h.cfg.connectAtSafe && !estopLow && h.cfg.func != .off then
    closeSwitch (calmDac { h with
      out := .initial, rampFrom := none, range := { h.range with vAct := h.cfg.vInit, iAct := h.cfg.iInit } })
  else hizCh h

/-! ## Time -/

/-- The step on an empty queue: the timebase counts a tick while it runs (R230, A4), and JX_OUT sends. -/
def idle (s : State) : State :=
  if s.tb.running then tickLine (updTb s fun t => { t with now := t.now + 1 }) else s

end Sys2Proof.Machine
end

