-- ==== Sys2Proof/Machine/Ledger.lean ====
section
/-!
DEFINITION. The deadline ledger: accounts, windows, charges, margins, decisions and the steering of
VCORE (R216 to R228, R241, R308, R334).
-/

namespace Sys2Proof.Machine

/-- One tick in s (R16). -/
def tickSec : Rat := 1 / 800000000
/-- The frame period in s. -/
def frameSec (s : State) : Rat := (s.tb.act : Rat) * tickSec

/-- Every account, by code and instance (R219). -/
def accounts : List Account :=
  (List.finRange 144).map .engine ++ (List.finRange 16).map .spare
    ++ (List.finRange 4).map .sequencer ++ (List.finRange 4).map .crossbar
    ++ (List.finRange 2).map .causeway ++ [.store, .ringSlots]

/-- The account codes of R273. -/
def Account.code : Account → Nat
  | .engine _ => 0 | .spare _ => 1 | .sequencer _ => 2 | .crossbar _ => 3 | .causeway _ => 4
  | .store => 5 | .ringSlots => 6

/-- The instance TB_LDG_WORST reports (R360). -/
def Account.inst : Account → Nat
  | .engine p => p.val | .spare c => c.val | .sequencer r => r.val | .crossbar r => r.val
  | .causeway d => d.val | .store => 0 | .ringSlots => 0

/-- The slot of a comb whose logical channel is assigned to a unit index (R394). -/
def slotOfUnit (s : State) (p : Fin 144) : Option (Fin 8) :=
  (List.finRange 8).find? fun i => s.comb[unitComb p].map[i] == unitIx p

/-- The logical channel assigned to a physical unit. -/
def chanOfUnit (s : State) (p : Fin 144) : Option (Fin 128) :=
  (slotOfUnit s p).map (chanAt (unitComb p))

/-- The SOURCE of an account (R227, R270). -/
def Account.source (s : State) : Account → Nat
  | .engine p => match slotOfUnit s p with
    | some i => (unitComb p).val * 16 + i.val
    | none => (unitComb p).val * 16 + 8
  | .spare c => combSource c
  | .sequencer r => regionSource r 2
  | .crossbar r => regionSource r 4
  | .causeway d => 0x300 + d.val
  | .store => 0x402
  | .ringSlots => 0x404

/-- DETAIL of a message about an account: its code, and p for a unit (R271, R273). -/
def Account.detail (a : Account) : Nat :=
  match a with
  | .engine p => p.val * 2 ^ 32
  | _ => a.code

/-- The window of an account in s (R219, R308). -/
def Account.window (s : State) : Account → Rat
  | .engine _ | .spare _ | .crossbar _ => 250 / 1000000000
  | .sequencer _ => frameSec s - 200 / 1000000000
  | .causeway _ => frameSec s
  | .store | .ringSlots => 1 / 1000000

/-! ## Charges in stages (R220) -/

/-- The enabled contenders of a channel. -/
def enabledCt (cfg : ChCfg) : List (Fin 4) := allCt.filter (ctEn cfg)

/-- A feedback source is one of the channel's own converters, read directly or over the crossbar. -/
def ownSource (c : Fin 128) (w : Word) : Bool :=
  fbSrc w < 2 || (fbSrc w == 2 && fbIdx w == c.val % 32)

/-- Distinct elements. -/
def distinct : List (Nat × Nat) → List (Nat × Nat)
  | [] => []
  | x :: l => if l.contains x then distinct l else x :: distinct l

/-- The sources of a channel's enabled contenders as (SRC, IDX). -/
def sourcesOf (cfg : ChCfg) : List (Nat × Nat) :=
  (enabledCt cfg).map fun i => (fbSrc (ctFb cfg i), fbIdx (ctFb cfg i))

/-- Distinct feedback sources other than the channel's own SENSE and MEAS. -/
def otherSources (c : Fin 128) (cfg : ChCfg) : Nat :=
  (distinct (((enabledCt cfg).filter fun i => !ownSource c (ctFb cfg i)).map fun i =>
    (fbSrc (ctFb cfg i), fbIdx (ctFb cfg i)))).length

/-- The charge of a plant model of order n. -/
def modelCharge (n : Nat) : Nat := 8 * n + 3 * n * n

/-- The loop-engine charge of a channel; an idle engine charges nothing. -/
def engineCharge (c : Fin 128) (cfg : ChCfg) : Nat :=
  if hasLoop cfg then
    36 + 22 * (enabledCt cfg).length + (if (pairFb cfg).isSome then 18 else 0)
      + modelCharge (modelN cfg) + 4 * otherSources c cfg + 12
  else 0

/-- The engine charge a channel has reserved. -/
def reservedCharge (s : State) (c : Fin 128) : Nat :=
  if s.ch[c].reserved then engineCharge c s.ch[c].cfg else 0

/-- The channels of a region. -/
def regionChans (r : Fin 4) : List (Fin 128) :=
  (List.finRange 32).map fun i => ⟨32 * r.val + i.val, by omega⟩
/-- The channels of a comb. -/
def combChans (c : Fin 16) : List (Fin 128) := (List.finRange 8).map (chanAt c)

/-- The crossbar sources that reserved channels of a region read, one per contender. -/
def crossbarReads (s : State) (r : Fin 4) : List (Nat × Nat) :=
  ((regionChans r).filter fun c => s.ch[c].reserved && hasLoop s.ch[c].cfg).flatMap fun c =>
    (sourcesOf s.ch[c].cfg).filter fun p => p.1 == 2

/-- The block rate of a capture stream with the given configuration (R244). -/
def streamRate (s : State) (cfg age : Word) : Rat :=
  match strSrc cfg with
  | 0 | 1 | 2 => 800 / ((s.tb.act : Rat) * 1024)
  | 3 | 4 => 800 / ((hrTicks (hrRate s.ch[strCh cfg].cfg) : Rat) * 1024)
  | 5 => (field age 31 16 : Rat) / (1000 * 1024)
  | 6 | 7 | 8 => 80 / 5461
  | _ => 1 / 1820

/-- The sum of a list of rationals. -/
def sumR (l : List Rat) : Rat := l.foldl (· + ·) 0

/-- The reserved rates of capture streams. -/
def streamRates (s : State) : Rat := sumR ((s.sto.stream.toList.filter fun st => st.rate != 0).map (·.rate))
/-- DMA_CFG.RATE of an engine in 1/16 block per µs. -/
def dmaRate (d : Dma) : Nat := field d.cfg 5 0
/-- DMA_CFG.DIR: towards the module. -/
def dmaIn (d : Dma) : Bool := bit d.cfg 8

/-- All reserved block rates in blocks per µs (R241, R177, R334, R367). -/
def blockRate (s : State) : Rat :=
  streamRates s + ((s.ch.toList.filter fun h => h.sw.reserved).length : Rat) / 64
    + sumR (s.dma.toList.map fun d => if d.en then (dmaRate d : Rat) / 16 else 0)
    + sumR (s.sq.toList.map fun q => if q.en then (qRate q.cfg : Rat) / 512 else 0)

/-- A stream feeds a ring whose reader is the ring egress (R250, R308). -/
def isEgress (s : State) (st : Stream) : Bool :=
  if h : strRing st.cfg < 31 then ringReader s.sto.ring[strRing st.cfg].cfg == 9 else false

/-- The block rate reserved for ring egress (R308). -/
def egressRate (s : State) : Rat :=
  sumR ((s.sto.stream.toList.filter fun st => st.rate != 0 && isEgress s st).map (·.rate))

/-- The charge of an account in stages; nothing stands before BOOT step 7 (R220). -/
def charge (s : State) (a : Account) : Rat :=
  if !s.ldg.fixed then 0
  else match a with
    | .engine p => match chanOfUnit s p with
      | some c => reservedCharge s c
      | none => 0
    | .spare k => ((combChans k).foldl (fun m c => Nat.max m (reservedCharge s c)) 0 : Nat)
    | .sequencer r => ((20 + 16 * ((regionChans r).filter fun c => s.ch[c].sw.reserved).length : Nat) : Rat)
    | .crossbar r => (((distinct (crossbarReads s r)).length + (crossbarReads s r).length : Nat) : Rat)
    | .causeway _ => 216
    | .store => 40 + 12 * blockRate s
    | .ringSlots => 24 + 6 * (ceilNat (egressRate s) : Rat)

/-- margin_a of R221. -/
def margin (s : State) (a : Account) : Rat := 1 - charge s a * s.ldg.ts / a.window s

/-- The smallest margin and its account, the first in code order among equals. -/
def worst (s : State) : Rat × Account :=
  accounts.foldl (fun b a => if margin s a < b.1 then (margin s a, a) else b)
    (margin s (.engine 0), .engine 0)

/-! ## VCORE (R217, R218, R223) -/

/-- Request a VCORE and wait for the sense. -/
def requestVcore (s : State) (mv : Nat) : State :=
  sendAvs (updLdg s fun l => { l with vcore := mv, waitSense := true }) mv

/-- The ledger wants one step up (R218, R223). -/
def wantsUp (s : State) : Bool :=
  s.ldg.vcore < 900 &&
    if s.tb.now < s.ldg.refusedUntil then decide (s.ldg.need < s.ldg.ts)
    else s.ldg.vcore < s.ldg.vmin || decide ((worst s).1 < 1 / 4)

/-- Steer VCORE: request a step up when one is wanted and none is outstanding; before the start-up request of R217
there is nothing to steer. -/
def steer (s : State) : State :=
  if s.ldg.vcore != 0 && !s.ldg.waitSense && wantsUp s then requestVcore s (s.ldg.vcore + 10) else s

/-- Keep the tick since which the smallest margin stays above 35%. A step down starts a fresh count (see `stepDown`);
a step up that is outstanding does not (R218). -/
def trackMargin (s : State) : State :=
  let ok := !s.ldg.downSense && decide (35 / 100 < (worst s).1)
  updLdg s fun l => { l with aboveSince := if ok then some (l.aboveSince.getD s.tb.now) else none }

/-- The conditions of a step down (R218). -/
def mayStepDown (s : State) : Bool :=
  !s.ldg.waitSense &&
    (match s.ldg.aboveSince with
     | some t => t + 8000000 ≤ s.tb.now && decide (35 / 100 < (worst s).1)
     | none => false)
    && s.ldg.decidedAt + 8000000 ≤ s.tb.now && s.ldg.refusedUntil ≤ s.tb.now
    && s.ldg.vmin + 10 ≤ s.ldg.vcore && 560 ≤ s.ldg.vcore

/-! ## Decisions (R221 to R223) -/

/-- The largest t_s at which the given accounts would all be admitted (R223). -/
def neededTs (s : State) (as : List Account) : Rat :=
  (as.filter fun a => charge s a != 0).foldl
    (fun m a => minR m (4 / 5 * a.window s / charge s a)) 1

/-- A decision. -/
inductive Verdict where
  | admitted | refusedByStage | refusedByBandwidth
  deriving DecidableEq, Repr

/-- The bandwidth account holds (R241), and egress fits JX_CFG.TX_SHARE (R308). -/
def bandwidthOk (s : State) : Bool :=
  decide (blockRate s ≤ 40) && decide (egressRate s * 4136 ≤ (field s.jx.txShare 13 0 : Rat))

/-- The verdict on a request whose reservations `t` holds: every affected account keeps a margin of
0.20 at the present t_s (R221), and the bandwidth account holds where it is affected. -/
def verdict (t : State) (as : List Account) (bw : Bool) : Verdict :=
  if as.any fun a => decide (margin t a < 1 / 5) then .refusedByStage
  else if bw && !bandwidthOk t then .refusedByBandwidth
  else .admitted

/-- Streams that sample once per frame take the rate of the frame period in force. -/
def refreshRates (s : State) : State :=
  updSto s fun o => { o with stream := o.stream.map fun st =>
    if st.rate != 0 && strSrc st.cfg < 3 then { st with rate := streamRate s st.cfg st.age } else st }

/-- The reservations as they stand under a frame period. -/
def underPeriod (s : State) (n : Nat) : State := refreshRates (updTb s fun b => { b with act := n })

/-- TB_LDG_NEED of a refused request: from an admitted change of period to its boundary N the request must hold under
the new period too (R223, R225). -/
def neededNow (t : State) (as : List Account) : Rat :=
  if t.tb.changeAt.isSome then minR (neededTs t as) (neededTs (underPeriod t t.tb.frame) as) else neededTs t as

/-- Note a decision: after a stage refusal TB_LDG_NEED is set and VCORE steps follow (R223). -/
def noteDecision (s t : State) (as : List Account) (v : Verdict) : State :=
  let s := updLdg s fun l => { l with decidedAt := s.tb.now }
  match v with
  | .refusedByStage =>
    steer (updLdg s fun l => { l with need := neededNow t as, refusedUntil := s.tb.now + 80000000 })
  | _ => s

/-- The verdict on a request; from an admitted change of period to its boundary N, against the reservations it
leaves as well (R225). -/
def verdictNow (t : State) (as : List Account) (bw : Bool) : Verdict :=
  match verdict t as bw with
  | .admitted => if t.tb.changeAt.isSome then verdict (underPeriod t t.tb.frame) as bw else .admitted
  | v => v

/-- Decide a request: `t` is `s` with its reservations made. On admission `t` is taken, on refusal
nothing is reserved; the Bool says which. -/
def decideReq (s t : State) (as : List Account) (bw : Bool) : Bool × State :=
  match verdictNow t as bw with
  | .admitted => (true, noteDecision t t as .admitted)
  | v => (false, noteDecision s t as v)

/-- The accounts a START affects. -/
def startAccounts (s : State) (c : Fin 128) : List Account :=
  [.engine (assignedUnit s c), .spare (combOf c)]
    ++ if (sourcesOf s.ch[c].cfg).any (fun p => p.1 == 2) then [.crossbar (regionOf c)] else []

/-- Reserve a channel's accounts, or refuse; a start-set channel and an idle engine always pass
(R56, R220). -/
def admitStart (s : State) (c : Fin 128) : Bool × State :=
  if s.ch[c].reserved then (true, s)
  else
    let t := updCh s c fun h => { h with reserved := true }
    if hasLoop s.ch[c].cfg then decideReq s t (startAccounts s c) false
    else (true, updLdg t fun l => { l with decidedAt := s.tb.now })

/-- Reserve a list's sequencer and store accounts, or refuse (R177). -/
def admitArm (s : State) (c : Fin 128) : Bool × State :=
  if s.ch[c].sw.reserved then (true, s)
  else decideReq s (updSw s c fun w => { w with reserved := true })
    [.sequencer (regionOf c), .store] true

/-- Reserve a capture stream, or refuse (R244, R308). -/
def admitStream (s : State) (n : Fin 2048) : Bool × State :=
  let st := s.sto.stream[n]
  decideReq s (updStream s n fun x => { x with rate := streamRate s x.cfg x.age })
    ([.store] ++ if isEgress s st then [.ringSlots] else []) true

/-- Reserve a queue at its rate, or refuse (R255). -/
def admitQueue (s : State) (q : Fin 32) : Bool × State :=
  decideReq s (updQ s q fun x => { x with en := true }) [.store] true

/-- The summed rates of the enabled engines of one direction (R334). -/
def dmaSum (s : State) (inward : Bool) : Nat :=
  s.dma.toList.foldl (fun n d => if d.en && dmaIn d == inward then n + dmaRate d else n) 0

/-- Reserve a DMA engine's rate, or refuse (R334). -/
def admitDma (s : State) (e : Fin 8) : Bool × State :=
  let t := updDma s e fun d => { d with en := true }
  if dmaRate s.dma[e] = 0 then (true, t)
  else if 48 < dmaSum t true || 48 < dmaSum t false then
    (false, updLdg s fun l => { l with decidedAt := s.tb.now })
  else decideReq s t [.store] true

/-- Decide a change of frame period, as it would stand with the new period in force (R222, R232). -/
def admitFrame (s : State) (n : Nat) : Bool × State :=
  let t := underPeriod s n
  let as := (List.finRange 4).map .sequencer ++ (List.finRange 2).map .causeway ++ [.store, .ringSlots]
  match verdict t as true with
  | .admitted => (true, noteDecision s t as .admitted)
  | v => (false, noteDecision s t as v)

/-- Release a channel's reservation (R224). -/
def releaseCh (h : Channel) : Channel := { h with reserved := false, startSet := false }

/-- SPEED_MARGIN of every account: raised below 5%, ended at 10% (R227). -/
def speedMargins (s : State) : State :=
  accounts.foldl (fun t a =>
    if margin s a < 1 / 20 then raiseState t 0x0D (a.source s) a.detail
    else if 1 / 10 ≤ margin s a then endWith t 0x0D (a.source s) a.detail
    else t) s

end Sys2Proof.Machine
end

