-- ==== Sys2Proof/Machine/Profile.lean ====
section
/-!
DEFINITION. The profile generator: seven-segment moves, the shortest stop, re-planning in motion and
the frame-by-frame advance (R166 to R171, R232).

Positions are normalised so that motion is towards larger values; V, A and J are the limits and T the
frame period in s. A path is known through its segment lengths τ1 to τ7, rounded up to whole frames
by exact tests, and through the jerk levels that end it exactly at its goal.
-/

namespace Sys2Proof.Machine

/-- The limits of velocity, acceleration and jerk (R167). -/
structure Limits where
  v : Rat
  a : Rat
  j : Rat
  deriving DecidableEq, Repr

/-- The limits of a channel. -/
def limitsOf (cfg : ChCfg) : Limits :=
  ⟨b64ToRat cfg.pgVmax, b64ToRat cfg.pgAmax, b64ToRat cfg.pgJmax⟩

/-! ## Rest to rest (R168) -/

/-- Frames for a length τ that `p` tests: `p x` says that x ≥ τ. -/
def framesFor (T : Rat) (p : Rat → Bool) : Nat := leastNat fun n => p (n * T)

/-- T1, T2 and T4 of the time-optimal move of length D from rest to rest. -/
def restFrames (L : Limits) (T D : Rat) : Nat × Nat × Nat :=
  if L.a * L.a ≤ L.v * L.j then
    let t1 := L.a / L.j
    let t2 := L.v / L.a - t1
    if L.v * (2 * t1 + t2) ≤ D then
      -- all limits reached
      (framesFor T (fun x => t1 ≤ x), framesFor T (fun x => t2 ≤ x),
        framesFor T (fun x => D / L.v - (2 * t1 + t2) ≤ x))
    else if 2 * L.a * L.a * L.a ≤ D * L.j * L.j then
      -- AMAX reached: τ2 = √(A⁴/J² + 4AD) / (2A) − 3A / (2J)
      (framesFor T (fun x => t1 ≤ x),
        framesFor T (fun x => sqrtNonneg (x + 3 * L.a / (2 * L.j)) (-(1 / (2 * L.a)))
          (L.a * L.a * L.a * L.a / (L.j * L.j) + 4 * L.a * D)), 0)
    else (framesFor T (fun x => D ≤ 2 * L.j * x * x * x), 0, 0)
  else if 4 * L.v * L.v * L.v ≤ D * D * L.j then
    -- VMAX reached below AMAX: τ1 = √(V/J), τ4 = D/V − 2τ1
    (framesFor T (fun x => L.v ≤ L.j * x * x), 0,
      framesFor T (fun x => sqrtNonneg (x - D / L.v) 2 (L.v / L.j)))
  else (framesFor T (fun x => D ≤ 2 * L.j * x * x * x), 0, 0)

/-- Leave out segments of length 0. -/
def nonEmpty (l : List Seg) : List Seg := l.filter fun g => g.frames != 0

/-- The symmetric path of R168 step 3. -/
def restSegs (L : Limits) (T D : Rat) : List Seg :=
  let (n1, n2, n4) := restFrames L T D
  let t1 := n1 * T
  let t2 := n2 * T
  let j := D / (t1 * (t1 + t2) * (2 * t1 + t2 + n4 * T))
  nonEmpty [⟨j, n1⟩, ⟨0, n2⟩, ⟨-j, n1⟩, ⟨0, n4⟩, ⟨-j, n1⟩, ⟨0, n2⟩, ⟨j, n1⟩]

/-! ## Distances in motion

`v`, `a` are the state with v ≥ 0. X is J·v + m² − a²/2 for the acceleration m at which the final
braking ramp begins. -/

/-- The constant of every distance below. -/
def dist0 (L : Limits) (v a : Rat) : Rat := a * a * a / (3 * L.j * L.j) - v * a / L.j

/-- J·v + m² − a²/2. -/
def brakeX (L : Limits) (v a m : Rat) : Rat := L.j * v + m * m - a * a / 2

/-- The distance from (v, a) to rest when the braking ramp begins at acceleration m ≤ 0 or m = a, as
p + q√X (R170). -/
def brakeDist (L : Limits) (v a m : Rat) : Rat × Rat :=
  let x := brakeX L v a m
  let p := dist0 L v a + m * (2 * x - m * m) / (L.j * L.j)
  if x ≤ L.a * L.a then (p, x / (L.j * L.j))
  else (p + x * (x + L.a * L.a) / (2 * L.a * L.j * L.j), 0)

/-- The braking distance is at least D. -/
def brakeReaches (L : Limits) (v a m D : Rat) : Bool :=
  let (p, q) := brakeDist L v a m
  sqrtNonneg (p - D) q (brakeX L v a m)

/-- The braking distance is at most D. -/
def brakeWithin (L : Limits) (v a m D : Rat) : Bool :=
  let (p, q) := brakeDist L v a m
  sqrtNonneg (D - p) (-q) (brakeX L v a m)

/-- The square of the peak acceleration of a rise from (v, a) to (vp, 0) without a hold. -/
def riseY (L : Limits) (v a vp : Rat) : Rat := L.j * (vp - v) + a * a / 2

/-- The distance of a rise from (v, a) to (vp, 0), as p + q√Y. -/
def riseDist (L : Limits) (v a vp : Rat) : Rat × Rat :=
  if riseY L v a vp ≤ L.a * L.a then
    (dist0 L v a, (vp + v) / L.j - a * a / (2 * L.j * L.j))
  else
    let t1 := (L.a - a) / L.j
    let v1 := v + (L.a * L.a - a * a) / (2 * L.j)
    let v2 := vp - L.a * L.a / (2 * L.j)
    let t2 := (v2 - v1) / L.a
    (v * t1 + a * t1 * t1 / 2 + L.j * t1 * t1 * t1 / 6 + v1 * t2 + L.a * t2 * t2 / 2
      + v2 * L.a / L.j + L.a * L.a * L.a / (3 * L.j * L.j), 0)

/-- The distance of a fall from (vp, 0) to rest, as p + q√(J·vp). -/
def fallDist (L : Limits) (vp : Rat) : Rat × Rat :=
  if L.j * vp ≤ L.a * L.a then (0, vp / L.j) else (vp / 2 * (vp / L.a + L.a / L.j), 0)

/-- Rise, fall and `extra` together are at least D. -/
def peakReaches (L : Limits) (v a vp extra D : Rat) : Bool :=
  let (p1, q1) := riseDist L v a vp
  let (p2, q2) := fallDist L vp
  sqrt2Nonneg (p1 + p2 + extra - D) q1 (riseY L v a vp) q2 (L.j * vp)

/-- The velocity at which the acceleration has been ramped to 0. -/
def naturalVel (L : Limits) (v a : Rat) : Rat :=
  if a < 0 then v - a * a / (2 * L.j) else v + a * a / (2 * L.j)

/-! ## Segment lengths in motion (R168 steps 1 and 2, R169) -/

/-- T1 to T7 of a path whose velocity rises to a peak. -/
def peakFrames (L : Limits) (T v a D : Rat) : List Nat :=
  let vn := naturalVel L v a
  -- the first velocity peak that reaches D, or VMAX with a cruise
  let cruise := !peakReaches L v a L.v 0 D || decide (L.v ≤ vn)
  let reach (vp : Rat) : Bool :=
    if vp < vn then false else if L.v ≤ vp then true else if cruise then false
    else peakReaches L v a vp 0 D
  let ramp := L.a / L.j
  [ framesFor T (fun x =>
      decide ((L.a - a) / L.j ≤ x) ||
        (decide (0 ≤ a + L.j * x) &&
          reach (v + ((a + L.j * x) * (a + L.j * x) - a * a / 2) / L.j)))
  , framesFor T (fun x => reach (x * L.a + v + (2 * L.a * L.a - a * a) / (2 * L.j)))
  , framesFor T (fun x => decide (ramp ≤ x) || reach (v + (L.j * x * (L.j * x) - a * a / 2) / L.j))
  , if cruise then framesFor T (fun x => peakReaches L v a L.v (x * L.v) D) else 0
  , framesFor T (fun x => decide (ramp ≤ x) || reach (L.j * x * x))
  , framesFor T (fun x => reach (L.a * (x + ramp)))
  , framesFor T (fun x => decide (ramp ≤ x) || reach (L.j * x * x)) ]

/-- The braking distance for m = −√M, with J·v + m² − a²/2 = X, is at most D. -/
def brakeWithinRoot (L : Limits) (v a M X D : Rat) (g : Rat) : Bool :=
  -- dist0 + [−√M (2X − M) + X g] / J²
  sqrtNonneg (D - dist0 L v a - X * g / (L.j * L.j)) ((2 * X - M) / (L.j * L.j)) M

/-- T1 to T7 of a path that eases a deceleration before it brakes to rest. -/
def easeFrames (L : Limits) (T v a D : Rat) : List Nat :=
  let base := L.j * v - a * a / 2
  let atMost (m : Rat) : Bool := decide (0 ≤ m) || (decide (a ≤ m) && brakeReaches L v a m D)
  [ framesFor T (fun x => atMost (a + L.j * x)), 0, 0, 0
  , framesFor T (fun x =>
      let k := L.j * x
      atMost (k - L.a) ||
        (if k = 0 then decide (base = 0) else atMost ((k * k - base) / (2 * k))))
  , framesFor T (fun x =>
      let X := L.a * L.a + L.a * L.j * x
      let M := X - base
      decide (a * a ≤ M) ||
        (decide (0 ≤ M) && brakeWithinRoot L v a M X D ((X + L.a * L.a) / (2 * L.a))))
  , framesFor T (fun x =>
      let d := L.j * x
      let M := d * d - base
      decide (L.a / L.j ≤ x) || decide (a * a ≤ M) ||
        (decide (0 ≤ M) && brakeWithinRoot L v a M (d * d) D d)) ]

/-- T1 to T3 of the shortest stop: ramp, hold, ramp (R170). -/
def stopFrames (L : Limits) (T v a : Rat) : Nat × Nat × Nat :=
  let x := L.j * v + a * a / 2
  if x ≤ L.a * L.a then
    (framesFor T (fun t => sqrtNonneg (t * L.j - a) (-1) x), 0,
      framesFor T (fun t => decide (x ≤ L.j * t * (L.j * t))))
  else
    (framesFor T (fun t => decide ((a + L.a) / L.j ≤ t)),
      framesFor T (fun t => decide ((x - L.a * L.a) / (L.a * L.j) ≤ t)),
      framesFor T (fun t => decide (L.a / L.j ≤ t)))

/-! ## Jerk levels (R168 step 3) -/

/-- Subtract a multiple of the pivot row and drop the first column. -/
def reduceRow (p r : List Rat) : List Rat :=
  let f := r.headD 0 / p.headD 1
  (List.zipWith (fun x y => x - f * y) r p).tail

/-- Move the first row with a non-zero head to the front. -/
def pivot : List (List Rat) → Option (List Rat × List (List Rat))
  | [] => none
  | r :: rs =>
    if r.headD 0 = 0 then (pivot rs).map fun (p, l) => (p, r :: l) else some (r, rs)

/-- Solve a linear system of `n` unknowns, its rows holding the coefficients and the right side; none
when it has no solution or more than one. -/
def solveRows : Nat → List (List Rat) → Option (List Rat)
  | 0, rows => if rows.all fun r => r.headD 0 == 0 then some [] else none
  | n + 1, rows =>
    match pivot rows with
    | none => none
    | some (p, rest) =>
      match solveRows n (rest.map (reduceRow p)) with
      | none => none
      | some xs =>
        let rhs := p.getLastD 0
        let dot := sumOf (List.zipWith (· * ·) (p.tail.take n) xs)
        some ((rhs - dot) / p.headD 1 :: xs)
where
  /-- The sum of a list. -/
  sumOf (l : List Rat) : Rat := l.foldl (· + ·) 0

/-- Segments as (sign, frames): sign 0 for a hold. -/
def totalTime (T : Rat) (l : List (Int × Nat)) : Rat := l.foldl (fun t g => t + g.2 * T) 0

/-- What a unit jerk of each jerk segment adds to the final acceleration, velocity and position. -/
def jerkColumns (T : Rat) : List (Int × Nat) → List (Rat × Rat × Rat)
  | [] => []
  | (sg, n) :: l =>
    let r := totalTime T l
    let t := n * T
    if sg = 0 then jerkColumns T l
    else (sg * t, sg * (t * (r + t / 2)), sg * (t * (r * r / 2 + r * t / 2 + t * t / 6)))
      :: jerkColumns T l

/-- The unit rows u_i = 0, u_i − u_j = 0 and u_i + u_j = 0, on one of which the least largest magnitude lies. -/
def extraRows (n : Nat) : List (List Rat) :=
  let e (i : Nat) : List Rat := (List.range n).map fun k => if k = i then 1 else 0
  (List.range n).flatMap fun i =>
    (e i ++ [0]) :: ((List.range n).filter (fun j => i < j)).flatMap fun j =>
      [List.zipWith (· - ·) (e i) (e j) ++ [0], List.zipWith (· + ·) (e i) (e j) ++ [0]]

/-- Every level keeps its sign. -/
def keepsSigns (l : List Rat) : Bool := l.all fun x => 0 ≤ x
/-- The largest of the magnitudes. -/
def largestOf (l : List Rat) : Rat := l.foldl (fun m x => maxR m (absR x)) 0

/-- The levels of the jerk segments that end the path at rest at distance D: the one solution of up to three segments;
of four, those on the rows where the least largest magnitude may lie, and the one whose fourth segment has constant
velocity. -/
def jerkLevels (T v a D : Rat) (l : List (Int × Nat)) : List (List Rat) :=
  let cols := jerkColumns T l
  let r := totalTime T l
  let rows : List (List Rat) :=
    [ cols.map (·.1) ++ [-a], cols.map (·.2.1) ++ [-(v + a * r)]
    , cols.map (·.2.2) ++ [D - (v * r + a * r * r / 2)] ]
  let n := cols.length
  if n < 4 then (solveRows n rows).toList
  else (cruiseRow T a l :: extraRows n).filterMap fun e => solveRows n (e :: rows)
where
  /-- The acceleration after the second of four jerk segments is 0. -/
  cruiseRow (T a : Rat) (l : List (Int × Nat)) : List Rat :=
    (((l.filter fun g => g.1 != 0).take 2).map fun g => (g.1 : Rat) * (g.2 * T)) ++ [0, 0, -a]

/-- Put the magnitudes on the segments. -/
def withLevels : List (Int × Nat) → List Rat → List Seg
  | [], _ => []
  | (sg, n) :: l, us =>
    if sg = 0 then ⟨0, n⟩ :: withLevels l us
    else ⟨sg * us.headD 0, n⟩ :: withLevels l us.tail

/-! ## Motion along a path -/

/-- Position, velocity and acceleration after a time t at jerk j. -/
def moveBy (j t : Rat) (s : Rat × Rat × Rat) : Rat × Rat × Rat :=
  (s.1 + s.2.1 * t + s.2.2 * t * t / 2 + j * t * t * t / 6, s.2.1 + s.2.2 * t + j * t * t / 2,
    s.2.2 + j * t)

/-- The state at the end of a path. -/
def endState' (T : Rat) (segs : List Seg) (s : Rat × Rat × Rat) : Rat × Rat × Rat :=
  segs.foldl (fun s g => moveBy g.jerk (g.frames * T) s) s

/-- Turn a path round. -/
def flip (sg : Rat) (l : List Seg) : List Seg := l.map fun g => { g with jerk := sg * g.jerk }

/-- The direction of motion of R169; 0 at rest. -/
def direction (v a : Rat) : Rat :=
  if 0 < v then 1 else if v < 0 then -1 else if 0 < a then 1 else if a < 0 then -1 else 0

/-- A target at signed distance d is passed (R169). -/
def passes (L : Limits) (v a d : Rat) : Bool :=
  let sg := direction v a
  if sg = 0 then false else d * sg < 0 || !brakeWithin L (v * sg) (a * sg) (a * sg) (d * sg)

/-! ## Paths within the limits (R168 to R170) -/

/-- A segment from (v, a) keeps the three limits and never turns round. -/
def segKeeps (L : Limits) (T : Rat) (g : Seg) (v a : Rat) : Bool :=
  let e := moveBy g.jerk (g.frames * T) (0, v, a)
  let peak := v - a * a / (2 * g.jerk)
  decide (absR g.jerk ≤ L.j ∧ absR e.2.2 ≤ L.a ∧ 0 ≤ e.2.1 ∧ e.2.1 ≤ L.v) &&
    (!decide (a * e.2.2 < 0) || decide (0 ≤ peak ∧ peak ≤ L.v))

/-- Every segment of a path from (v, a) does. -/
def keepsLimits (L : Limits) (T : Rat) : List Seg → Rat → Rat → Bool
  | [], _, _ => true
  | g :: l, v, a =>
    let e := moveBy g.jerk (g.frames * T) (0, v, a)
    segKeeps L T g v a && keepsLimits L T l e.2.1 e.2.2

/-- The frames of a path. -/
def framesOf (l : List Seg) : Nat := l.foldl (fun n g => n + g.frames) 0

/-- A stop from (v, a): it ends at rest and keeps the limits (R170). -/
def stopOk (L : Limits) (T v a : Rat) (l : List Seg) : Bool :=
  let e := endState' T l (0, v, a)
  framesOf l != 0 && decide (e.2.1 = 0 ∧ e.2.2 = 0) && keepsLimits L T l v a

/-- A path from (v, a) that ends at rest at distance D, keeps the limits and takes at most n frames (R168). -/
def pathOk (L : Limits) (T v a D : Rat) (n : Nat) (l : List Seg) : Bool :=
  decide ((endState' T l (0, v, a)).1 = D) && stopOk L T v a l && framesOf l ≤ n

/-- The free path of A9. -/
def freeSegs (at_ : List Rat) : List Seg :=
  let p := Config.replanFallback at_
  (p.1 :: p.2).map fun g => ⟨g.1, g.2⟩

/-- Every way to lengthen some segments by e frames in all. -/
def spread : Nat → List Nat → List (List Nat)
  | e, [] => if e = 0 then [[]] else []
  | e, n :: l => (List.range (e + 1)).flatMap fun k => (spread (e - k) l).map fun m => (n + k) :: m

/-- The lengths of segments in the order in which they are tried: the rounded ones of R168 step 2, then with as few
frames more as end the path at most 7 frames after the continuous optimum. A rounded length has grown by less than one
frame and one of 0 by none, so that 7 less the number of the others may be added (A9). -/
def lengthsOf (ns : List Nat) : List (List Nat) :=
  (List.range (8 - (ns.filter (· != 0)).length)).flatMap fun e => spread e ns

/-- The first path of some lengths, with the signs of step 1, then without them (A9). -/
def firstPath (ns : List Nat) (path : Bool → List Nat → Option (List Seg)) : Option (List Seg) :=
  match (lengthsOf ns).findSome? (path true) with
  | some l => some l
  | none => (lengthsOf ns).findSome? (path false)

/-- Segments of given lengths, those of length 0 left out. -/
def shapeOf (signs : List Int) (ns : List Nat) : List (Int × Nat) := (List.zip signs ns).filter fun g => g.2 != 0

/-- The path with the least largest jerk, the first among equals (R168). -/
def gentlest (l : List (List Rat × List Seg)) : Option (List Seg) :=
  (l.foldl (fun b x => match b with
    | none => some x
    | some w => if largestOf x.1 < largestOf w.1 then some x else some w) none).map (·.2)

/-- The path in motion to a target at distance D that is not passed: of the solutions that keep the limits, the one
whose largest jerk is least. Where no jerk levels give a path that R168 allows,
the free path of A9 does if it is one; empty where it is none either. -/
def motionSegs (L : Limits) (T v a D : Rat) : List Seg :=
  let ns := if a < 0 && brakeReaches L v a 0 D && !brakeWithin L v a 0 D then easeFrames L T v a D
    else peakFrames L T v a D
  let most := ns.foldl (· + ·) (ns.filter (· == 0)).length
  let path (signed : Bool) (ns : List Nat) : Option (List Seg) :=
    let l := shapeOf [1, 0, -1, 0, -1, 0, 1] ns
    gentlest ((((jerkLevels T v a D l).filter fun u => !signed || keepsSigns u).map fun u => (u, withLevels l u)).filter
      fun x => pathOk L T v a D most x.2)
  match firstPath ns path with
  | some l => l
  | none =>
    let l := freeSegs [v, a, D, L.v, L.a, L.j, T]
    if pathOk L T v a D most l then l else []

/-- The stop of three lengths, with the jerk levels that end it at rest within the limits (R170). -/
def stopWith (L : Limits) (T v a : Rat) (signed : Bool) (ns : List Nat) : Option (List Seg) :=
  let l := shapeOf [-1, 0, 1] ns
  let cols := jerkColumns T l
  let r := totalTime T l
  match solveRows cols.length
      [cols.map (·.1) ++ [-a], cols.map (·.2.1) ++ [-(v + a * r)]] with
  | some us =>
    if (!signed || keepsSigns us) && stopOk L T v a (withLevels l us) then some (withLevels l us) else none
  | none => none

/-- The shortest stop of R170, rounded as R168 rounds every path; a state from which no stop of whole frames keeps the
limits, as the last ramp of a stop planned in another period, takes the free path of A9, which ends at rest too (see
`settle`). -/
def stopSegs (L : Limits) (T v a : Rat) : List Seg :=
  let (n1, n2, n3) := stopFrames L T v a
  match firstPath [n1, n2, n3] (stopWith L T v a) with
  | some l => l
  | none => freeSegs [v, a, L.v, L.a, L.j, T]

/-- Plan the shortest stop from the present state (R170). -/
def planStop (cfg : ChCfg) (T : Rat) (p : Profile) (after : Option Rat) : Profile :=
  let sg := direction p.vel p.acc
  if stepMode cfg || sg = 0 then
    { p with vel := 0, acc := 0, segs := [], goal := p.pos, after := after }
  else
    let segs := flip sg (stopSegs (limitsOf cfg) T (p.vel * sg) (p.acc * sg))
    { p with segs := segs, goal := (endState' T segs (p.pos, p.vel, p.acc)).1, after := after }

/-- What a channel's PG_TARGET gives the generator: its value, or 0 V in MI (R166). -/
def targetValue (cfg : ChCfg) (p : Profile) : Rat := if cfg.func = .mi then 0 else b64ToRat p.target

/-- MOVING and ARRIVED of a generator at rest at its goal: at its target or not (R171). A STOP's target is PG_INIT
(R170). -/
def atRest (p : Profile) : Profile :=
  let there := p.goal == p.aim
  { p with moving := !there, arrived := p.arrived || there }

/-- Plan a move from rest. -/
def planRest (cfg : ChCfg) (T : Rat) (p : Profile) (t : Rat) : Profile :=
  if p.pos = t then atRest { p with segs := [], goal := t, after := none }
  else
    let d := t - p.pos
    let sg : Rat := if d < 0 then -1 else 1
    { p with segs := flip sg (restSegs (limitsOf cfg) T (absR d)), goal := t, after := none
             moving := true }

/-- The set-point becomes t at rest (STEP of R167, DIRECT of R175). -/
def jumpTo (p : Profile) (t : Rat) : Profile :=
  atRest { p with aim := t, pos := t, vel := 0, acc := 0, segs := [], goal := t, after := none }

/-- Take a target at a frame boundary (R169). -/
def planTo (cfg : ChCfg) (T : Rat) (p : Profile) (t : Rat) : Profile :=
  let p := { p with aim := t }
  if stepMode cfg then jumpTo p t
  else if p.vel = 0 ∧ p.acc = 0 then planRest cfg T p t
  else if passes (limitsOf cfg) p.vel p.acc (t - p.pos) then
    { planStop cfg T p (some t) with moving := true }
  else
    let sg := direction p.vel p.acc
    let segs := motionSegs (limitsOf cfg) T (p.vel * sg) (p.acc * sg) ((t - p.pos) * sg)
    -- no path keeps the limits: stop, then move (A9)
    if segs.isEmpty then { planStop cfg T p (some t) with moving := true }
    else { p with segs := flip sg segs, goal := t, after := none, moving := true }

/-- Come to rest at the goal, or begin the move that follows a stop. -/
def settle (cfg : ChCfg) (T : Rat) (p : Profile) : Profile :=
  let p := { p with pos := p.goal, vel := 0, acc := 0, segs := [] }
  match p.after with
  | some t => planRest cfg T p t
  | none => atRest p

/-- Advance one whole frame along the path (R168). -/
def advance (cfg : ChCfg) (T : Rat) (p : Profile) : Profile :=
  match p.segs with
  | [] => p
  | g :: l =>
    let (x, v, a) := moveBy g.jerk T (p.pos, p.vel, p.acc)
    let l := if g.frames ≤ 1 then l else { g with frames := g.frames - 1 } :: l
    let p := { p with pos := x, vel := v, acc := a, segs := l }
    if l.isEmpty then settle cfg T p else p

/-- The state after a time dt along a path of frames of T, and whether the path has ended. -/
def walk (T dt : Rat) : List Seg → Rat × Rat × Rat → (Rat × Rat × Rat) × Bool
  | [], s => (s, true)
  | g :: l, s =>
    if g.frames * T ≤ dt then walk T (dt - g.frames * T) l (moveBy g.jerk (g.frames * T) s)
    else (moveBy g.jerk dt s, false)

/-- Advance over a transition frame of length dt and re-plan at its end with the new period (R232);
a path that only stops is planned as a stop again. -/
def transition (cfg : ChCfg) (Told dt Tnew : Rat) (stopOnly : Bool) (p : Profile) : Profile :=
  if p.segs.isEmpty then p
  else
    let (s, ended) := walk Told dt p.segs (p.pos, p.vel, p.acc)
    let q := { p with pos := s.1, vel := s.2.1, acc := s.2.2 }
    if ended then settle cfg Tnew p
    else if stopOnly then planStop cfg Tnew q none
    else planTo cfg Tnew q p.aim

/-- The generator at START: at PG_INIT, at rest, PG_TARGET still to be taken (R65 step 4). -/
def startProfile (cfg : ChCfg) (p : Profile) : Profile :=
  { p with aim := b64ToRat cfg.pgInit, pos := b64ToRat cfg.pgInit, vel := 0, acc := 0, segs := [], goal := b64ToRat cfg.pgInit
           after := none, moving := false, fresh := true }

end Sys2Proof.Machine
end

