-- ==== Sys2Proof/Machine/Loop.lean ====
section
/-!
DEFINITION. The loop engine of one channel in one frame: effective limits, feedback, contenders, the
selector, clamps, the plant model and plausibility (R77, R137 to R163), the bank swap (R153), the
deglitcher (R112 to R114) and the RAMP_ZERO drive (R98).
-/

namespace Sys2Proof.Machine

/-! ## Ranges in force and effective limits (R77, R82) -/

/-- The lower and higher of the two current codes of a sequence, by full scale. -/
def lowerCode (cfg : ChCfg) (a b : Nat) : Nat := if iFull cfg a ≤ iFull cfg b then a else b
/-- See `lowerCode`. -/
def higherCode (cfg : ChCfg) (a b : Nat) : Nat := if iFull cfg a ≤ iFull cfg b then b else a

/-- The current code whose full scale limits compliance: the lower of the two during a change. -/
def compCode (h : Channel) : Nat :=
  match h.range.seq with
  | some q => if q.current then lowerCode h.cfg q.old q.new else h.range.iAct
  | none => h.range.iAct

/-- Full scale of the voltage range in force. -/
def vFs (h : Channel) : Rat := vFull h.range.vAct
/-- Full scale of the current range in force. -/
def iFs (h : Channel) : Rat := iFull h.cfg h.range.iAct
/-- Full scale of the forced quantity's present range. -/
def forcedFs (h : Channel) : Rat := if forcesCurrent h.cfg then iFs h else vFs h

/-- The current code whose full scale sets the clamp: the higher of the two during a change (R78, R82). -/
def clampCode (h : Channel) : Nat :=
  match h.range.seq with
  | some q => if q.current then higherCode h.cfg q.old q.new else h.range.iAct
  | none => h.range.iAct

/-- The full scale a clipped compliance pair is clipped to (R77). -/
def pairFs (s : State) (c : Fin 128) : Rat :=
  match pairFb s.ch[c].cfg with
  | some w =>
    if fbSrc w = 0 then vFs s.ch[c]
    else
      let d := if fbSrc w = 1 then c else regionChan (regionOf c) (fbIdx w)
      iFull s.ch[d].cfg (compCode s.ch[d])
  | none => 0

/-- The effective limits, lower and upper (R77). -/
def effLimits (s : State) (c : Fin 128) : Rat × Rat :=
  let h := s.ch[c]
  let lo := b64ToRat h.compLo
  let hi := b64ToRat h.compHi
  if pairClipped h.cfg then
    let f := pairFs s c * if arOn h.cfg then 106 / 100 else 1
    (clipR (-f) f lo, clipR (-f) f hi)
  else (lo, hi)

/-! ## Feedback sources (R155 to R160) -/

/-- The position of an encoder input in m (R157). -/
def encPos (e : Encoder) : Rat := ((e.latched - e.offsetAct.toInt : Int) : Rat) * b64ToRat e.scaleAct

/-- An encoder number taken from a field of 5 bits. -/
def encOf (n : Nat) : Fin 32 := ⟨n % 32, Nat.mod_lt _ (by decide)⟩

/-- The channel a source word reads over the crossbar. -/
def crossChan (c : Fin 128) (w : Word) : Fin 128 := regionChan (regionOf c) (fbIdx w)

/-- The value of a feedback source in this frame. -/
def srcValue (s : State) (c : Fin 128) (w : Word) : Rat :=
  match fbSrc w with
  | 0 => s.ch[c].ms.sense
  | 1 => s.ch[c].ms.meas
  | 2 => s.ch[crossChan c w].ms.meas
  | _ => encPos s.seq.enc[encOf (fbIdx w)]

/-- The cause of R273 for which a source is lost in this frame, 0 for none. -/
def srcCause (s : State) (c : Fin 128) (w : Word) : Nat :=
  match fbSrc w with
  | 0 => if s.ch[c].ms.ovrSense then 1 else 0
  | 1 => if s.ch[c].ms.ovrMeas then 1 else 0
  | 2 =>
    let d := s.ch[crossChan c w]
    if d.ms.ovrMeas then 1 else if d.cfg.func = .off then 5 else 0
  | _ =>
    let e := s.seq.enc[encOf (fbIdx w)]
    if e.cause ≠ 0 then e.cause else if e.ssiFault then 4 else 0

/-- One step of the frozen test for a source (R162), per T for a differenced one. -/
def srcStep (s : State) (c : Fin 128) (T : Rat) (w : Word) : Rat :=
  let q := match fbSrc w with
    | 0 => vFs s.ch[c] / 8388608
    | 1 => iFs s.ch[c] / 8388608
    | 2 => iFs s.ch[crossChan c w] / 8388608
    | _ => absR (b64ToRat s.seq.enc[encOf (fbIdx w)].scaleAct)
  if fbDeriv w then q / T else q

/-- The feedback is in V (R84); a differenced SENSE counts as one (A60). -/
def srcIsVolt (w : Word) : Bool := fbSrc w == 0

/-! ## Contenders (R144) -/

/-- One contender's frame: reference r, feedback y. -/
def evalCt (co : Coef) (T : Rat) (frozen first : Bool) (r y vref aref : Rat) (k : Contender) :
    Contender :=
  let ki := b64ToRat co.ki
  let hi := b64ToRat co.intHi
  let lo := b64ToRat co.intLo
  let e := r - y
  let s1 := if ki ≠ 0 ∧ !frozen then k.s + T * e else k.s
  let i1 := ki * s1
  let i := if hi < i1 then hi else if i1 < lo then lo else i1
  let s2 := if hi < i1 ∨ i1 < lo then i / ki else s1
  let tf := b64ToRat co.tf
  let a := tf / (tf + T)
  let yp := if first then y else k.yPrev
  let fd := if first then 0 else a * k.fd + (1 - a) * (y - yp) / T
  let u := b64ToRat co.kp * e + i - b64ToRat co.kd * fd + b64ToRat co.kvff * vref
    + b64ToRat co.kaff * aref
  { k with s := s2, fd := fd, yPrev := y
           u := minR (maxR u (b64ToRat co.outLo)) (b64ToRat co.outHi), iterm := i
           sat := i == hi || i == lo, win := false, track := false }

/-- Set the integral term to v within the static limits, S to match (R148). -/
def holdTerm (co : Coef) (v : Rat) (k : Contender) : Contender :=
  let ki := b64ToRat co.ki
  if ki = 0 then k
  else
    let i := clipR (b64ToRat co.intLo) (b64ToRat co.intHi) v
    { k with s := i / ki, iterm := i }

/-- The dynamic clamp on a losing contender (R148). -/
def dynClamp (co : Coef) (lower : Bool) (demand : Rat) (k : Contender) : Contender :=
  if (if lower then k.iterm < demand else demand < k.iterm) then
    { holdTerm co demand k with track := true }
  else k

/-! ## The selector (R145, R146) -/

/-- An output that takes part: its WINNER code, its set and its value. -/
structure Output where
  code : Nat
  lower : Bool
  u : Rat
  deriving DecidableEq, Repr

/-- The least or greatest output of a list, the first among equals. -/
def bestOf (better : Rat → Rat → Bool) : List Output → Option Output
  | [] => none
  | o :: l => match bestOf better l with
    | none => some o
    | some b => if better b.u o.u then some b else some o

/-- The winner of the selector; none when the upper set is empty, since an empty upper set counts as +∞ (R145). -/
def select (os : List Output) : Option Output :=
  let up := bestOf (fun a b => decide (a < b)) (os.filter fun o => !o.lower)
  let lo := bestOf (fun a b => decide (b < a)) (os.filter fun o => o.lower)
  match up, lo with
  | some a, some b => if a.u < b.u then some b else some a
  | some a, none => some a
  | none, _ => none

/-! ## Bank swap (R153) -/

/-- Rescale and clamp one integrator from an old to a new coefficient set. -/
def swapCt (old new : Coef) (k : Contender) : Contender :=
  let ko := b64ToRat old.ki
  let kn := b64ToRat new.ki
  let s1 := if kn ≠ 0 ∧ ko ≠ 0 then k.s * ko / kn else 0
  let before := kn * s1
  let i := clipR (b64ToRat new.intLo) (b64ToRat new.intHi) before
  { k with s := i / kn, iterm := i, bump := k.bump || i != before
           sat := i == b64ToRat new.intLo || i == b64ToRat new.intHi }

/-- The contender whose settings a budget half uses: the compliance contender of its set (R150). -/
def budgetCt (cfg : ChCfg) (lower : Bool) : Option (Fin 4) := ctWithRef cfg (if lower then 4 else 3)

/-- The coefficients of a budget half in a bank. -/
def budgetCoef (cfg : ChCfg) (b : Bank) (lower : Bool) : Coef :=
  match budgetCt cfg lower with
  | some i => b.ct[i]
  | none => b.ct[0]

/-- Take a requested bank at a frame boundary, or refuse it (R153, R154). Outside RUNNING, in STARTING and SAFED as in
STOPPED, only ACT changes (A60). -/
def swapBank (h : Channel) : Channel :=
  let e := h.eng
  if e.bankSel = e.bankAct then h
  else if !bankCross h.cfg (bankOf h.cfg e.bankSel) then
    { h with eng := { e with bankSel := e.bankAct, bankRej := true } }
  else if h.state = .running then
    let old := bankOf h.cfg e.bankAct
    let new := bankOf h.cfg e.bankSel
    { h with eng := { e with
        bankAct := e.bankSel
        ct := Vector.ofFn fun i => swapCt old.ct[i] new.ct[i] e.ct[i]
        bud := Vector.ofFn fun i =>
          swapCt (budgetCoef h.cfg old (i == 1)) (budgetCoef h.cfg new (i == 1)) e.bud[i] } }
  else { h with eng := { e with bankAct := e.bankSel } }

/-! ## Plant model (R161) -/

/-- The indices below the order. -/
def order (cfg : ChCfg) : List (Fin 4) := (List.finRange 4).filter fun i => i.val < modelN cfg
/-- A row of n values times x. -/
def rowDot (cfg : ChCfg) (r : Vector DWord 4) (x : Vector Rat 4) : Rat :=
  (order cfg).foldl (fun a i => a + b64ToRat r[i] * x[i]) 0
/-- MA(i, j). -/
def maAt (b : Bank) (i j : Fin 4) : Rat := b64ToRat b.ma[4 * i.val + j.val]
/-- MA · x + MB × d + ML × w. -/
def modelNext (cfg : ChCfg) (b : Bank) (x : Vector Rat 4) (d w : Rat) : Vector Rat 4 :=
  Vector.ofFn fun i =>
    if i.val < modelN cfg then
      (order cfg).foldl (fun a j => a + maAt b i j * x[j]) 0 + b64ToRat b.mb[i] * d
        + b64ToRat b.ml[i] * w
    else 0
/-- The minimum-norm state whose prediction is y. -/
def modelInit (cfg : ChCfg) (b : Bank) (y : Rat) : Vector Rat 4 :=
  let n := (order cfg).foldl (fun a i => a + b64ToRat b.mc[i] * b64ToRat b.mc[i]) 0
  Vector.ofFn fun i => if i.val < modelN cfg && n != 0 then b64ToRat b.mc[i] * y / n else 0
/-- d_hold (R161). -/
def holdDemand (cfg : ChCfg) (b : Bank) (e : Engine) : Rat :=
  if modelN cfg = 0 then e.demand else rowDot cfg b.khold e.x + b64ToRat b.dbias

/-! ## The frame (R138) -/

/-- The unit of a channel is in a spare's parallel interval (R196, R206). -/
def inParallel (s : State) (c : Fin 128) : Bool :=
  let k := s.comb[combOf c]
  k.parallel && (match k.run with
    | some r => r.unit.val == k.map[slotOf c].val
    | none => false)

/-- Contender i's feedback in this frame. -/
def ctFeedback (s : State) (c : Fin 128) (T : Rat) (i : Fin 4) : Rat :=
  let h := s.ch[c]
  let w := ctFb h.cfg i
  let raw := srcValue s c w
  if fbDeriv w then (raw - if h.eng.firstFrame then raw else h.eng.ct[i].srcPrev) / T else raw

/-- Contender i's reference (R388). -/
def ctReference (s : State) (c : Fin 128) (i : Fin 4) : Rat :=
  let h := s.ch[c]
  match ctRef h.cfg i with
  | 0 => h.pg.pos
  | 1 => h.pg.vel
  | 2 => b64ToRat (bankOf h.cfg h.eng.bankAct).ct[i].refConst
  | 3 => h.effHi
  | _ => h.effLo

/-- The lowest cause for which an enabled contender's source is lost, 0 for none (R160, R162). -/
def lostCause (s : State) (c : Fin 128) : Nat :=
  (enabledOf s.ch[c].cfg).foldl (fun m i =>
    let x := srcCause s c (ctFb s.ch[c].cfg i)
    if x ≠ 0 ∧ (m = 0 ∨ x < m) then x else m) 0
where
  /-- The enabled contenders. -/
  enabledOf (cfg : ChCfg) : List (Fin 4) := allCt.filter (ctEn cfg)

/-- The residual and frozen tests (R162), with the main contender's feedback y and prediction. -/
def plausibility (s : State) (c : Fin 128) (T y yhat : Rat) (e : Engine) : Engine :=
  let h := s.ch[c]
  let b := bankOf h.cfg e.bankAct
  if h.range.seq.isSome || inParallel s c then e
  else
    let rc := if modelN h.cfg = 0 then 0
      else if b64ToRat b.resLim < absR (y - yhat) then e.resCount + 1 else 0
    let lim := match mainCt h.cfg with
      | some i => b64ToRat b.frzLsb * srcStep s c T (ctFb h.cfg i)
      | none => 0
    let e := { e with resCount := rc
                      resDue := rc ≠ 0 && decide (b64ToRat b.resCnt ≤ (rc : Rat)) }
    if e.firstFrame || lim < absR (y - e.frzY0) then
      { e with frzY0 := y, frzD0 := e.demand, frzLen := 0, frzDrive := 0, frzDue := false }
    else
      let len := e.frzLen + 1
      let drive := maxR e.frzDrive (absR (e.demand - e.frzD0))
      { e with frzLen := len, frzDrive := drive
               frzDue := decide (b64ToRat b.frzCnt ≤ (len : Rat)) &&
                 decide (b64ToRat b.frzDrive / 1000000 * forcedFs h < drive) }

/-- The same-frame reaction of R163: frozen integrators, no correction, the demand d_hold. The selector does not run, so
WINNER and WIN keep the last frame's values (A60). -/
def reactFrame (h : Channel) (e : Engine) : Engine :=
  let b := bankOf h.cfg e.bankAct
  let d := holdDemand h.cfg b e
  { e with reacting := true, demand := d, x := modelNext h.cfg b e.x d 0, demClip := false
           ct := e.ct.map fun k => { k with track := false } }

/-- The internal code of a frame without a winner: the upper set is empty (R145). -/
def noneWins : Nat := 8
/-- LP_STATUS.WINNER of an internal code (R146); a free value without a winner (A46). -/
def shownWinner (code : Nat) : Nat := if code = noneWins then Config.noWinner.toNat else code

/-- Steps 6 and 7 of R138 with the demand `d` that is applied: dynamic clamps and the plant model (R139,
R148, R161). `code` is the winner. -/
def applyDemand (cfg : ChCfg) (b : Bank) (code : Nat) (d : Rat) (e : Engine) : Engine :=
  let ct := Vector.ofFn fun i : Fin 4 =>
    if ctEn cfg i then
      if code = i.val then { e.ctEval[i] with win := true }
      else { dynClamp b.ct[i] (ctLower cfg i) d e.ctEval[i] with win := shownWinner code == i.val }
    else { e.ctEval[i] with win := shownWinner code == i.val, track := false }
  let bud := Vector.ofFn fun j : Fin 2 =>
    let co := budgetCoef cfg b (j == 1)
    if e.takesPart then
      if code = 4 + j.val then { e.budEval[j] with win := true } else dynClamp co (j == 1) d e.budEval[j]
    else holdTerm co d e.budEval[j]
  { e with ct := ct, bud := bud, demand := d, winner := code, x := modelNext cfg b e.xPrev d e.modelErr }

/-- Steps 4 to 7 of R138. `f` is the die's budget factor. -/
def loopFrame (s : State) (c : Fin 128) (T f y yhat : Rat) (e : Engine) : Engine × Bool :=
  let h := s.ch[c]
  let cfg := h.cfg
  let b := bankOf cfg e.bankAct
  let main := mainCt cfg
  let frozenCt (i : Fin 4) : Bool := e.frozen && (!forcesCurrent cfg || srcIsVolt (ctFb cfg i))
  let ct : Vector Contender 4 := Vector.ofFn fun i =>
    if ctEn cfg i then
      let k := evalCt b.ct[i] T (frozenCt i) e.firstFrame (ctReference s c i) (ctFeedback s c T i)
        (if main = some i then h.pg.vel else 0) (if main = some i then h.pg.acc else 0) e.ct[i]
      { k with srcPrev := srcValue s c (ctFb cfg i) }
    else e.ct[i]
  let takesPart := decide (f < 1) && pairClipped cfg
  let bud : Vector Contender 2 := Vector.ofFn fun j =>
    match budgetCt cfg (j == 1) with
    | some i => evalCt b.ct[i] T (frozenCt i || !takesPart) e.firstFrame
        (f * if j == 1 then h.effLo else h.effHi) (ctFeedback s c T i) 0 0 e.bud[j]
    | none => e.bud[j]
  let outs : List Output :=
    (allCt.filter (ctEn cfg)).map (fun i => ⟨i.val, ctLower cfg i, ct[i].u⟩)
      ++ if takesPart then [⟨4, false, bud[0].u⟩, ⟨5, true, bud[1].u⟩] else []
  let win := select outs
  let lim := 5 / 4 * forcedFs h
  let raw := match win with
    | some o => o.u
    | none => lim
  let d := clipR (-lim) lim raw
  let code := match win with
    | some o => o.code
    | none => noneWins
  let comp := code == 4 || code == 5 ||
    allCt.any fun i => code == i.val && (ctRef cfg i == 3 || ctRef cfg i == 4)
  let e := { e with ctEval := ct, budEval := bud, takesPart := takesPart, modelErr := y - yhat
                    demClip := d != raw || win.isNone }
  (applyDemand cfg b code d e, comp)

/-! ## The source DAC (R108 to R114, R211) -/

/-- The current that the open terminal fields take from a measured current on a range code, at the voltage v (R211). -/
def termAmps (r : Option Record) (code : Nat) (v : Rat) : Rat :=
  match r with
  | some r => if r.openOk then (if h : code < 8 then b64ToRat r.ios[code] else 0) + b64ToRat r.g * v else 0
  | none => 0

/-- The voltage that the short terminal fields take from a measured voltage, at the current i (R211). -/
def termVolts (r : Option Record) (i : Rat) : Rat :=
  match r with
  | some r => if r.shortOk then b64ToRat r.vos + i * b64ToRat r.rs else 0
  | none => 0

/-- The correction of a channel's forced quantity: the terminal fields of the assigned unit, at the readings of
the frame (R108, R204, R211). -/
def forceTerm (r : Option Record) (h : Channel) : Rat :=
  if forcesCurrent h.cfg then termAmps r h.range.iAct h.ms.sense else termVolts r h.ms.meas

/-- The range-normalized code of a demand: rounded and saturated (R109). -/
def rangeCode (fs d : Rat) : Int :=
  let q := roundEven (d / fs * 16777216)
  if q < -33554432 then -33554432 else if 33554431 < q then 33554431 else q

/-- The step of the source DAC that a code drives; an odd code drives the even one of its two neighbours (R110). -/
def dacStep (code : Int) : Int := roundEven ((code : Rat) / 2)

/-- The value of the step that a DAC demand drives (R109, R110). -/
def dacValue (fs d : Rat) : Rat := (dacStep (rangeCode fs d) : Rat) * (2 * fs / 16777216)

/-- A step between two demands is a major transition (R112). The first condition compares the demands
themselves, the second their codes (A47). -/
def majorStep (fs a b : Rat) : Bool :=
  decide (fs / 16 < absR (b - a)) || rangeCode fs a / 8388608 != rangeCode fs b / 8388608

/-- A voltage range sequence runs: its held sequence supersedes the deglitcher (R84, R114). -/
def voltSeq (h : Channel) : Bool :=
  match h.range.seq with
  | some q => !q.current
  | none => false

/-- The output stage drives: a closed switch in a forcing function. -/
def driving (h : Channel) : Bool := h.switchOn && hasLoop h.cfg && h.out != .hiz
/-- The internal driver is on: a booster channel's is disabled (R90). -/
def driverOn (h : Channel) : Bool := driving h && !usesBooster h.cfg

/-- The deglitcher takes the DAC demand of a frame (R113, R114); `prev` is the one before. It does not act while the
output is HIZ or the driver is disabled. -/
def deglitch (prev : Rat) (h : Channel) : Channel :=
  let d := h.eng.dac
  let fs := forcedFs h
  let g := h.dgPrev
  { h with dg :=
      if g.hold then { g with flag := false }
      else if voltSeq h then { g with flag := false, next := d }
      else if !driverOn h then ⟨false, false, dacValue fs d, d⟩
      else if majorStep fs prev d then ⟨true, true, dacValue fs prev, d⟩
      else ⟨false, false, dacValue fs d, d⟩ }

/-- The hold ends: the held-for demand is tracked, and a waiting demand in its turn (R113); during a voltage
sequence the value stays held (R114). -/
def deglitchEnd (h : Channel) : Channel :=
  let g := h.dg
  let d := h.eng.dac
  let fs := forcedFs h
  { h with dg :=
      if !g.hold then g
      else if voltSeq h then { g with hold := false, next := d }
      else if d != g.next && majorStep fs g.next d then ⟨true, true, dacValue fs g.next, d⟩
      else { g with hold := false, out := dacValue fs d, next := d } }

/-- The deglitcher releases after a voltage range switch, on the code rescaled to the new range (R84). -/
def deglitchRelease (h : Channel) : Channel :=
  { h with dg := { h.dg with hold := false, out := dacValue (forcedFs h) h.eng.dac, next := h.eng.dac } }

/-- The source DAC takes a new demand: corrected, and passed to the deglitcher (R108, R112). -/
def driveDac (r : Option Record) (h : Channel) : Channel :=
  let prev := h.eng.dac
  let d := h.eng.demand + forceTerm r h
  deglitch prev { h with
    dgPrev := h.dg, eng := { h.eng with dac := d, dacs := (d :: h.eng.dacs).take 8 } }

/-- The demand of the frame that has begun is replaced: the source DAC and the deglitcher take the new one in its
place (R113, R139, R228). -/
def redriveDac (r : Option Record) (h : Channel) : Channel :=
  let prev := (h.eng.dacs[1]?).getD 0
  let d := h.eng.demand + forceTerm r h
  deglitch prev { h with eng := { h.eng with dac := d, dacs := d :: h.eng.dacs.drop 1 } }

/-- The frame is finished with the demand of the frame before, which the isle die has repeated (R139). -/
def repeatDemand (r : Option Record) (h : Channel) : Channel :=
  if h.state != .running || !hasLoop h.cfg then h
  else
    let e := h.eng
    let b := bankOf h.cfg e.bankAct
    let d := (e.demands[1]?).getD 0
    let e := if e.reacting then { e with demand := d, x := modelNext h.cfg b e.xPrev d 0 }
      else applyDemand h.cfg b e.winner d e
    redriveDac r { h with eng := { e with demands := d :: e.demands.drop 1 } }

/-- A late crossbar value is lost feedback: the same-frame reaction of R163, from the state and the demand of the
frame before (R228). -/
def lateFeedback (r : Option Record) (h : Channel) : Channel :=
  let e := h.eng
  let d := (e.demands[1]?).getD 0
  let e := reactFrame h { e with ct := e.ctPrev, bud := e.budPrev, x := e.xPrev, demand := d }
  redriveDac r { h with eng := { e with demands := e.demand :: e.demands.drop 1 }, inComp := false }

/-- One engine frame of a RUNNING channel with a loop: T in s, f the die's budget factor. -/
def engineFrame (s : State) (c : Fin 128) (T f : Rat) : State :=
  let (lo, hi) := effLimits s c
  let s := updCh s c fun h => { h with effLo := lo, effHi := hi }
  let h := s.ch[c]
  let e := h.eng
  let b := bankOf h.cfg e.bankAct
  let y := match mainCt h.cfg with
    | some i => ctFeedback s c T i
    | none => 0
  let e := if e.firstFrame then { e with x := modelInit h.cfg b y } else e
  let yhat := rowDot h.cfg b.mc e.x
  let cause := lostCause s c
  let e := { plausibility s c T y yhat e with yhat := yhat, ctPrev := e.ct, budPrev := e.bud, xPrev := e.x }
  let react := e.reacting || cause != 0 || e.resDue || e.frzDue
  let (e, comp) := if react then (reactFrame h e, false) else loopFrame s c T f y yhat e
  let e := { e with firstFrame := false, demands := (e.demand :: e.demands).take 8 }
  let rec_ := assignedRec s c
  let s := updCh s c fun h => driveDac rec_ { h with eng := e, inComp := comp }
  -- R156, R160, R272: one onset while lost, one end when no test of the kind holds
  let s := if cause ≠ 0 then raiseUnit s c 0x06 cause
    else if h.ms.leadCount < 2 then endUnit s c 0x06 else s
  let s := if e.resDue then s else endUnit s c 0x08
  if e.frzDue then s else endUnit s c 0x07

/-! ## RAMP_ZERO (R98) -/

/-- Begin the ramp: the shortest stop from the set-point's state at the reaction. -/
def beginRamp (now : Nat) (T : Rat) (h : Channel) : Channel :=
  { h with out := .ramp, rampFrom := some now, pg := planStop h.cfg T h.pg none }

/-- MC · MB divides the inverse of the plant model; where a run-time write has selected RAMP_ZERO although it is 0,
the demand is a free value (A48). -/
def inverseDemand (fresh : Nat) (cfg : ChCfg) (b : Bank) (num : Rat) : Rat :=
  if mcmb cfg b = 0 then Config.blindRamp fresh else num / mcmb cfg b

/-- The path's value at the next boundary: after a frame of length T in a path of frames of Tper (R98, R232). -/
def nextPos (Tper T : Rat) (p : Profile) : Rat :=
  let (x, ended) := walk Tper T p.segs (p.pos, p.vel, p.acc)
  if ended then p.goal else x.1

/-- One frame of the ramp, its path already at this boundary (see `moveProfile`): the demand whose prediction is the
path's next value, or 0 A, with the deglitcher idle, once the path has come to rest. -/
def rampFrame (r : Option Record) (fresh : Nat) (Tper T : Rat) (h : Channel) : Channel :=
  if h.pg.segs.isEmpty then calmDac { h with out := .rampEnd, rampFrom := none }
  else
    let b := bankOf h.cfg h.eng.bankAct
    let d := inverseDemand fresh h.cfg b (nextPos Tper T h.pg - rowDot h.cfg b.mc (modelNext h.cfg b h.eng.x 0 0))
    let lim := 5 / 4 * forcedFs h
    let d' := clipR (-lim) lim d
    driveDac r { h with eng := { h.eng with demand := d', demClip := d' != d, x := modelNext h.cfg b h.eng.x d' 0 } }

end Sys2Proof.Machine
end

