-- ==== Sys2Proof/Machine/RingOps.lean ====
section
/-!
DEFINITION. Jaxier frames: their bytes and CRC, their making and sending (R301, R306), the by-pass
(R323, R325), ring events (R184, R319) and what leaving the ring clears.
-/

namespace Sys2Proof.Machine

/-- The 16 header bytes (R301). -/
def headerBytes (f : Frame) : List Byte :=
  toBytes 8 (f.type + f.dst * 2 ^ 8 + f.src * 2 ^ 18 + f.hops * 2 ^ 28 + f.len * 2 ^ 48)
    ++ toBytes 8 (f.seq + f.arg * 2 ^ 32)

/-- The CRC of a frame: header, payload, trailer bytes 0 to 3 (R301). -/
def frameCrc (f : Frame) : Word :=
  crc32c (headerBytes f ++ f.payload ++ toBytes 4 (if f.poison then 1 else 0))

/-- The frame with the CRC its bytes have. -/
def sealFrame (f : Frame) : Frame := { f with crc := frameCrc f }

/-- The frame's CRC passes. -/
def crcOk (f : Frame) : Bool := f.crc == frameCrc f
/-- The frame has been stomped (R305). -/
def stomped (f : Frame) : Bool := f.crc == frameCrc f ^^^ 0xFFFFFFFF

/-- The ring port is enabled (R297). -/
def jxEn (s : State) : Bool := bit s.jx.cfg 0
/-- This member is the ring master (R297). -/
def jxMaster (s : State) : Bool := bit s.jx.cfg 1
/-- The module's work does not depend on the ring (R297). -/
def jxAutonomous (s : State) : Bool := bit s.jx.cfg 2
/-- The member sends and receives: by-pass open and an id held (R304). -/
def onRing (s : State) : Bool := jxEn s && !s.jx.bypassed && s.jx.id < 1023

/-- A frame of this member with its next sequence number. -/
def newFrame (s : State) (type dst arg : Nat) (payload : List Byte) : Frame :=
  sealFrame { type := type, dst := dst, src := s.jx.id, hops := 0, len := payload.length
              seq := s.jx.seqNo, arg := arg, payload := payload, poison := false, crc := 0 }

/-- Send a new frame and advance the sequence number (R301). -/
def sendNew (s : State) (type dst arg : Nat) (payload : List Byte) : State :=
  sendFrame (updJx s fun j => { j with seqNo := (j.seqNo + 1) % 2 ^ 32 })
    (newFrame s type dst arg payload)

/-- The frame that answers a request with its own SEQ (R301). -/
def replyFrame (s : State) (type : Nat) (req : Frame) (arg : Nat) (payload : List Byte) : Frame :=
  sealFrame { type := type, dst := req.src, src := s.jx.id, hops := 0, len := payload.length
              seq := req.seq, arg := arg, payload := payload, poison := false, crc := 0 }

/-- Answer a request; a member the access itself took off the ring sends nothing (R304). -/
def sendReply (s : State) (type : Nat) (req : Frame) (arg : Nat) (payload : List Byte) : State :=
  if onRing s then sendFrame s (replyFrame s type req arg payload) else s

/-- Count one operation of the by-pass (R325). -/
def countBypass (j : Jx) : Jx :=
  { j with bypCount := j.bypCount + 1, wear := j.wear || 190000000 ≤ j.bypCount + 1 }

/-- Release the locks of an owner id (R339). -/
def freeLocks (s : State) (id : Nat) : State :=
  { s with lock := s.lock.map fun o => if o = id then 0 else o }

/-- The ring port leaves FORMED: the ring agent's locks are released (R339). -/
def leaveFormed (s : State) : State := if s.jx.state = 3 then freeLocks s 8 else s

/-- Close the by-pass: the module has left the ring (R298, R323). -/
def closeBypass (s : State) : State :=
  if s.jx.bypassed then s
  else updJx (leaveFormed s) fun j =>
    { countBypass j with
      bypassed := true, closedAt := some s.tb.now, state := if bit j.cfg 0 then 1 else 0
      id := 1023, aligned := false, linkOk := false, linked := false, joinReq := false, goodTimes := 0
      timed := false, enumPass := 0, overbooked := false, upstream := 1023, roundTrip := [], timeSent := none
      line := { JxLine.reset with clock := lineNow s, wire := j.line.wire } }

/-- Open the by-pass: JOINING (R309 step 2), no sooner than 100 ms after it closed (R323). -/
def openBypass (s : State) : State :=
  if s.jx.bypassed && jxEn s && s.jx.localOk &&
      (match s.jx.closedAt with | some t => t + 80000000 ≤ s.tb.now | none => true) then
    updJx s fun j =>
      { countBypass j with bypassed := false, state := 2, joinReq := false
                           id := if bit j.cfg 1 then 0 else 1023 }
  else s

/-- The join condition holds and the mode admits a join: the by-pass opens (R47, R323). -/
def tryJoin (s : State) : State :=
  if s.jx.joinReq && s.mod.mode.operating then openBypass s else s

/-- The ring at an entry to SAFE: a closed port trains in internal loopback (R47, R309 step 1). -/
def ringAtSafe (s : State) : State :=
  if jxEn s && s.jx.bypassed then updJx s fun j => { j with state := 1, localOk := false, joinReq := false }
  else s

/-- A ring event of this number and execution tick has been taken already; copies merge (R184, R319). -/
def knownEvent (s : State) (e : RingEvent) : Bool :=
  s.seq.executed.contains e || s.seq.events.any fun x => x.1 == e

/-- Take a ring event: a late one counts now, sets LATE_EVT and records a notice (R184). -/
def takeRingEvent (s : State) (e : RingEvent) : State :=
  if knownEvent s e then s
  else if e.tick < s.tb.now then
    updSeq (send s 0x49 0x404 e.event) fun q =>
      { q with lateEvt := true, events := q.events ++ [(e, s.tb.now)] }
  else updSeq s fun q => { q with events := q.events ++ [(e, e.tick)] }

/-- Send a ring event to every member, this module included; the frame is sent twice (R184, R319). -/
def sendRingEvent (s : State) (event tick : Nat) (hold : Bool) : State :=
  let s := takeRingEvent s ⟨event, tick, hold⟩
  if onRing s then
    let f := newFrame s 0x10 1023 0 (toBytes 8 tick ++ toBytes 8 (event + if hold then 256 else 0))
    updJx (sendFrame (sendFrame s f) f) fun j => { j with seqNo := (j.seqNo + 1) % 2 ^ 32 }
  else s

end Sys2Proof.Machine
end

