-- ==== Sys2Proof/Machine/SweepOps.lean ====
section
/-!
DEFINITION. Compliance writes (R76), target writes (R166, R167), range requests (R80), and sweep lists:
fetching, checking, starting, ending and aborting steps, trigger events and TRIG_OUT (R172 to R188).
-/

namespace Sys2Proof.Machine

/-- The tick of the next frame boundary: N of an admitted period change, or the next multiple of the
period (R231, R232). -/
def nextBoundary (s : State) : Nat :=
  match s.tb.changeAt with
  | some n => n
  | none => (s.tb.last / s.tb.act + 1) * s.tb.act

/-- An event at tick t is due: it lies before or at the next boundary (A4). -/
def dueBy (s : State) (t : Nat) : Bool := t ≤ nextBoundary s

/-- The timebase has reached a tick. -/
def reachTick (s : State) (t : Nat) : State := tickLine (updTb s fun b => { b with now := Nat.max b.now t })

/-! ## Live writes -/

/-- A compliance pair is allowed: LO < HI and, for a clipped pair, apart by 0.1% of fs (R76). -/
def pairOk (cfg : ChCfg) (fs : Rat) (hi lo : DWord) : Bool :=
  b64Valid hi && b64Valid lo && decide (b64ToRat lo < b64ToRat hi) &&
    (!pairClipped cfg || decide (fs / 1000 ≤ b64ToRat hi - b64ToRat lo))

/-- Write the pair, or refuse it with COMP_REJ (R76). While a current range changes, the present range is the lower
of the two, as for the limits themselves (A51). -/
def writePair (s : State) (c : Fin 128) (hi lo : DWord) : State :=
  if pairOk s.ch[c].cfg (pairFs s c) hi lo then updCh s c fun h => { h with compHi := hi, compLo := lo }
  else updCh s c fun h => { h with compRej := true }

/-- The list of a channel owns its target, pair and ranges; the write sets OWN_REJ (R178). -/
def ownedBy (s : State) (c : Fin 128) (k : State → State) : State :=
  if s.ch[c].sw.state.owns then updSw s c fun w => { w with ownRej := true } else k s

/-- A write of one compliance value by a master (R76, R178). -/
def writeComp (s : State) (c : Fin 128) (hi : Bool) (v : DWord) : State :=
  ownedBy s c fun s =>
    if hi then writePair s c v s.ch[c].compLo else writePair s c s.ch[c].compHi v

/-- A write of PG_TARGET by a master (R166, R167, R178); it does not change the path of a STOP (R66). -/
def writeTarget (s : State) (c : Fin 128) (v : DWord) : State :=
  ownedBy s c fun s =>
    if s.ch[c].cfg.func = .mi || !targetOk s.ch[c].cfg v then updPg s c fun p => { p with tgtRej := true }
    else updPg s c fun p => { p with target := v, fresh := p.fresh || !s.ch[c].stopping }

/-- A request for both ranges (R80). -/
def requestRanges (s : State) (c : Fin 128) (v i : Nat) : State :=
  updRange s c fun r => { r with vReq := v, iReq := i, pendV := some v, pendI := some i }

/-- A write of CH_RANGE by a master: undefined codes, and any write on a SAFED or STARTING channel, are
refused (R80, R178, R425). -/
def writeRange (s : State) (c : Fin 128) (w : Word) : State :=
  ownedBy s c fun s =>
    if s.ch[c].state = .safed || s.ch[c].state = .starting || 2 < field w 1 0 || 11 < field w 7 4 then
      updRange s c fun r => { r with rangeRej := true }
    else requestRanges s c (field w 1 0) (field w 7 4)

/-! ## Lists -/

/-- The region sequencer's SOURCE for a channel. -/
def seqSource (c : Fin 128) : Nat := regionSource (regionOf c) 2

/-- DETAIL of STEP_BAD and TRIG_TIMEOUT (R274). -/
def stepDetail (s : State) (c : Fin 128) : Nat := c.val + s.ch[c].sw.pos * 256

/-- End a list: its reservations are released (R224); it holds no step. -/
def endList (w : Sweep) (st : ListState) (cause : ListCause) : Sweep :=
  { w with state := st, cause := cause, step := none, started := false, trigAt := none, base := none
           windowOpen := false, windowRanging := false, windowDone := false, endLate := false, disarmReq := false
           reserved := false }

/-- Abort a list that has not ended (R176). -/
def abortList (w : Sweep) (cause : ListCause) : Sweep :=
  if w.state.isIdle then w else endList w .aborted cause

/-- A fault reaction discards the list and the events it has scheduled (R188). -/
def discardList (w : Sweep) : Sweep := { abortList w .fault with outs := [], armReq := false }

/-- SW_LIST_BASE and SW_LIST_LEN lie in one TABLE partition (R172). -/
def listPlaced (s : State) (c : Fin 128) : Bool :=
  let h := s.ch[c]
  let b := h.cfg.swBase.toNat
  let n := 64 * h.cfg.swLen.toNat
  b % 64 == 0 && 1 ≤ n &&
    match partOf s b n with
    | some k => s.sto.parts[k].type == 2
    | none => false

/-- The byte address of a step. -/
def stepAddr (h : Channel) (i : Nat) : Nat := h.cfg.swBase.toNat + 64 * i

/-- The 64 bytes of a step. -/
def stepBytes (s : State) (c : Fin 128) (i : Nat) : List Byte :=
  memReadN s.sto.mem (stepAddr s.ch[c] i) 64

/-- A number at an offset of a step. -/
def numAt (bs : List Byte) (off n : Nat) : Nat := ofBytes ((bs.drop off).take n)

/-- The step that 64 bytes lay out (R173). -/
def decodeStep (bs : List Byte) : SweepStep :=
  { target := BitVec.ofNat 64 (numAt bs 0 8), compHi := BitVec.ofNat 64 (numAt bs 8 8)
    compLo := BitVec.ofNat 64 (numAt bs 16 8), hold := numAt bs 24 8, mdelay := numAt bs 32 4
    maper := numAt bs 36 4, range := numAt bs 40 2, trigIn := numAt bs 42 2
    trigOut := numAt bs 44 2, flags := numAt bs 46 2, tmo := numAt bs 48 4 }

/-- FLAGS of R173. -/
def SweepStep.direct (p : SweepStep) : Bool := fieldN p.flags 0 0 == 1
/-- See R173. -/
def SweepStep.waitArrive (p : SweepStep) : Bool := fieldN p.flags 1 1 == 1
/-- See R173. -/
def SweepStep.keepComp (p : SweepStep) : Bool := fieldN p.flags 2 2 == 1
/-- See R173. -/
def SweepStep.keepRange (p : SweepStep) : Bool := fieldN p.flags 3 3 == 1
/-- See R173. -/
def SweepStep.capture (p : SweepStep) : Bool := fieldN p.flags 4 4 == 1
/-- The step has a trigger condition (R180). -/
def SweepStep.triggered (p : SweepStep) : Bool := fieldN p.trigIn 3 0 != 0

/-- TRIG_IN holds defined codes (R180). -/
def trigInOk (t : Nat) : Bool :=
  let idx := fieldN t 8 4
  let edge := fieldN t 10 9
  fieldN t 15 11 == 0 &&
    match fieldN t 3 0 with
    | 0 => edge == 0
    | 1 => idx < 16 && edge < 3
    | 2 | 4 => edge == 0
    | 3 => idx < 16 && edge == 0
    | _ => false

/-- TRIG_OUT holds defined codes (R180). -/
def trigOutOk (t : Nat) : Bool :=
  fieldN t 15 11 == 0 &&
    match fieldN t 3 0 with
    | 0 | 2 | 3 => true
    | 1 => fieldN t 8 4 < 16
    | _ => false

/-- The full scale a step's pair is checked against (R174). -/
def stepPairFs (s : State) (c : Fin 128) (p : SweepStep) : Rat :=
  let h := s.ch[c]
  if p.keepRange then pairFs s c
  else match pairFb h.cfg with
    | some w =>
      if fbSrc w = 0 then vFull (fieldN p.range 1 0)
      else if fbSrc w = 1 then iFull h.cfg (fieldN p.range 7 4)
      else pairFs s c
    | none => 0

/-- Every condition of R173 to R175 and R180 on a fetched step but its CHECK. -/
def stepOk (s : State) (c : Fin 128) (bs : List Byte) (p : SweepStep) : Bool :=
  let h := s.ch[c]
  ((bs.drop 52).take 8).all (· == 0) && fieldN p.flags 15 5 == 0 &&
  (if h.cfg.func = .mi then b64Valid p.target else targetOk h.cfg p.target) &&
  800 ≤ p.hold && p.hold < 2 ^ 48 &&
  (p.maper == 0 || (80 ≤ p.maper && p.maper ≤ 800000000)) && p.mdelay + 10 * p.maper ≤ p.hold &&
  fieldN p.range 3 2 == 0 && fieldN p.range 15 8 == 0 &&
  (p.keepRange ||
    (h.cfg.vTable.contains (fieldN p.range 1 0) && h.cfg.iTable.contains (fieldN p.range 7 4))) &&
  (p.keepComp || pairOk h.cfg (stepPairFs s c p) p.compHi p.compLo) &&
  trigInOk p.trigIn && trigOutOk p.trigOut

/-- Fetch step `pos` of a list for a start from boundary b: a bad CHECK sends STORE_CRC for the region
and leaves the list without a step; a bad step aborts the list with a notice (R174). -/
def fetchStep (s : State) (c : Fin 128) (pos b : Nat) (first : Bool) : State :=
  let bs := stepBytes s c pos
  let s := updSw s c fun w => { w with
    state := .waiting, pos := pos, step := none, started := false, waitFrom := b, trigAt := none
    base := none, windowOpen := false, windowRanging := false, windowDone := false, endLate := false
    firstStep := first }
  if crc32c (bs.take 60) != BitVec.ofNat 32 (numAt bs 60 4) then
    send s 0x13 (seqSource c) (stepAddr s.ch[c] pos)
  else
    let p := decodeStep bs
    if stepOk s c bs p then updSw s c fun w => { w with step := some p }
    else send (updSw s c fun w => abortList w .stepBad) 0x47 (seqSource c) (stepDetail s c)

/-- The tick at which a step's TRIG_OUT event is scheduled, from its start S and its base (R180);
events at the step end are sent there. -/
def outTick (p : SweepStep) (start base : Nat) : Option Nat :=
  if fieldN p.trigOut 3 0 = 0 then none
  else match fieldN p.trigOut 10 9 with
    | 0 => some start
    | 1 => some (base + p.mdelay)
    | 2 => some (base + p.mdelay + 10 * p.maper + 1600)
    | _ => none

/-- MDELAY and HOLD count from tick b; the event tied to them is scheduled. -/
def setBase (s : State) (c : Fin 128) (b : Nat) : State :=
  updSw s c fun w =>
    match w.step with
    | none => w
    | some p =>
      { w with base := some b
               outs := if fieldN p.trigOut 10 9 = 0 then w.outs
                 else match outTick p b b with
                   | some t => w.outs ++ [(t, p.trigOut)]
                   | none => w.outs }

/-- The path is at rest at the target (R171). -/
def arrivedAt (h : Channel) : Bool := h.pg.segs.isEmpty && h.pg.pos == h.pg.aim

/-- Apply a step at its start boundary b: range, pair, target, in this order (R175). -/
def startStep (s : State) (c : Fin 128) (b : Nat) : State :=
  match s.ch[c].sw.step with
  | none => s
  | some p =>
    let s := updSw s c fun w => { w with
      state := .playing, started := true, firstStep := false, stepAt := b
      outs := if fieldN p.trigOut 10 9 = 0 then
          (match outTick p b b with | some t => w.outs ++ [(t, p.trigOut)] | none => w.outs)
        else w.outs }
    let s := if p.keepRange then s else requestRanges s c (fieldN p.range 1 0) (fieldN p.range 7 4)
    let s := if p.keepComp then s else writePair s c p.compHi p.compLo
    let T := frameSec s
    let s := if s.ch[c].cfg.func = .mi then s
      else updCh s c fun h =>
        let pg := { h.pg with target := p.target, fresh := false }
        { h with pg := if p.direct then jumpTo pg (b64ToRat p.target)
                       else planTo h.cfg T pg (b64ToRat p.target) }
    if p.waitArrive && !p.direct && !arrivedAt s.ch[c] then s else setBase s c b

/-- A step that waits starts at boundary b: 400 ticks after its event, or without a trigger (R179, R181). A tick of
SW_START_AT at the boundary at which the list leaves ARMED has not passed. -/
def startsAt (w : Sweep) (b : Nat) : Bool :=
  w.state == .waiting &&
    match w.step with
    | none => false
    | some p =>
      if p.triggered then
        (match w.trigAt with | some t => t + 400 ≤ b | none => false)
      else if w.firstStep then
        (if w.startAt != 0 && w.waitFrom ≤ w.startAt.toNat then w.startAt.toNat ≤ b else w.waitFrom < b)
      else w.waitFrom ≤ b

/-- An armed list leaves ARMED at boundary b once its channel runs in RUN (R176). -/
def leaveArmed (s : State) (c : Fin 128) (b : Nat) : State :=
  if s.ch[c].sw.state = .armed && s.ch[c].state = .running && s.mod.mode = .run then
    fetchStep s c (field s.ch[c].sw.first 19 0) b true
  else s

/-! ## Arming (R177) -/

/-- ARM meets the conditions of R172, R177, R295 and R392. -/
def armOk (s : State) (c : Fin 128) : Bool :=
  let h := s.ch[c]
  (s.mod.mode == .ready || s.mod.mode == .run || s.mod.mode == .hold) && !s.mod.collStall &&
    h.state != .safed && h.sw.state.isIdle && field h.sw.first 19 0 < field h.cfg.swLen 20 0 &&
    listPlaced s c

/-- SW_CTRL.ARM: the ledger decides at the next boundary (R225). -/
def armList (s : State) (c : Fin 128) : State :=
  if armOk s c then updSw s c fun w => { w with armReq := true } else updSw s c fun w => { w with armRej := true }

/-- The ledger decides an ARM that waits, its conditions being still met (R177, R225). -/
def decideArm (s : State) (c : Fin 128) : State :=
  if !s.ch[c].sw.armReq then s
  else
    let s := updSw s c fun w => { w with armReq := false }
    if !armOk s c then updSw s c fun w => { w with armRej := true }
    else
      let (ok, s) := admitArm s c
      if ok then updSw s c fun w => { w with
        state := .armed, cause := .none, iter := 0, passes := 0, disarmReq := false }
      else updSw s c fun w => { w with admitDenied := true }

/-- SW_CTRL.DISARM: of an IDLE list it has no effect (R392); of a DONE or ABORTED one it drops an ARM that waits. -/
def disarmList (w : Sweep) : Sweep :=
  if w.state = .idle then w else { w with armReq := false, disarmReq := true }

/-! ## Trigger events (R180 to R185) -/

/-- The wait window of a list holds a tick (R181, R186). -/
def inWait (w : Sweep) (p : SweepStep) (t : Nat) : Bool :=
  w.waitFrom ≤ t && (p.tmo == 0 || t < w.waitFrom + 800 * p.tmo)

/-- A step's condition names a source; `edge` is the pin's edge, 0 rising and 1 falling. -/
def condHits (p : SweepStep) (src idx edge : Nat) : Bool :=
  fieldN p.trigIn 3 0 == src && fieldN p.trigIn 8 4 == idx &&
    (src != 1 || fieldN p.trigIn 10 9 == edge || fieldN p.trigIn 10 9 == 2)

/-- Offer an event at tick t to one list: the first qualifying event starts its step (R181). -/
def offerEvent (src idx edge t : Nat) (w : Sweep) : Sweep :=
  if w.state = .waiting then
    match w.step with
    | some p =>
      if condHits p src idx edge && inWait w p t then
        { w with trigAt := some (match w.trigAt with | some u => Nat.min u t | none => t) }
      else w
    | none => w
  else w

/-- Offer an event to every list, or to those of one region. -/
def deliver (s : State) (region : Option (Fin 4)) (src idx edge t : Nat) : State :=
  mapCh s fun c h =>
    if region.isNone || region == some (regionOf c) then
      { h with sw := offerEvent src idx edge t h.sw }
    else h

/-- SEQ_TRIGn_CFG.PW in ticks (R182, R377). -/
def trigWidth (w : Word) : Nat := field w 31 16

/-- Start a pulse of PW ticks on an output pin at tick t; none starts in HOLD (R57, R182). -/
def startPulse (s : State) (pin : Fin 16) (t : Nat) : State :=
  if trigRole s.seq.trig[pin].cfg = 2 && s.mod.mode != .hold then
    updTrig s pin fun p => { p with pulses := p.pulses ++ [t + trigWidth p.cfg] }
  else s

/-- SEQ_RING_LEAD in ticks (R184). -/
def ringLead (s : State) : Nat := s.seq.ringLead.toNat

/-- Send an event to a destination coded as TRIG_OUT, with the tick of its cause (R180, R184). -/
def emitTo (s : State) (region : Fin 4) (dest idx t : Nat) : State :=
  match dest with
  | 1 => startPulse s ⟨idx % 16, Nat.mod_lt _ (by decide)⟩ t
  | 2 => sendRingEvent s idx (t + ringLead s) false
  | 3 => deliver s (some region) 4 idx 0 t
  | _ => s

/-- Emit a TRIG_OUT field at its tick. -/
def emitOut (s : State) (c : Fin 128) (t trigOut : Nat) : State :=
  emitTo s (regionOf c) (fieldN trigOut 3 0) (fieldN trigOut 8 4) t

/-- The step of a playing list whose hold time has expired ends at boundary b: the next step starts or
waits, or the list ends DONE (R175 to R179). -/
def endStep (s : State) (c : Fin 128) (p : SweepStep) (b : Nat) : State :=
  let s := if fieldN p.trigOut 10 9 = 3 then emitOut s c b p.trigOut else s
  let w := s.ch[c].sw
  let last := w.pos + 1 = field s.ch[c].cfg.swLen 20 0
  let s := if last then updSw s c fun w =>
      { w with passes := w.passes + 1, iter := Nat.min (w.iter + 1) 65535 } else s
  let rep := field w.repeats 15 0
  if last && rep != 65535 && rep ≤ w.passes then updSw s c fun w => endList w .done w.cause
  else
    let s := fetchStep s c (if last then 0 else w.pos + 1) b false
    if b ≤ s.tb.last && startsAt s.ch[c].sw b then startStep s c b else s

/-- A step end that was missed is applied at boundary b (R228). -/
def endLateStep (s : State) (c : Fin 128) (b : Nat) : State :=
  match s.ch[c].sw.step with
  | some p => endStep s c p b
  | none => s

/-- A list's work at boundary b in RUN: DISARM, leaving ARMED, ending a step late, starting a step, arrival. A start
or an end that the region sequencer has missed waits for the next boundary (R228). -/
def listBoundary (s : State) (c : Fin 128) (b : Nat) : State :=
  if s.ch[c].sw.disarmReq then
    updSw s c fun w => if w.state = .idle then { w with disarmReq := false } else endList w .idle .none
  else
    let s := leaveArmed s c b
    let missed := s.seq.missed[regionOf c]
    if s.ch[c].sw.endLate && !missed then endLateStep s c b
    else if startsAt s.ch[c].sw b && !missed then startStep s c b
    else if s.ch[c].sw.state = .playing && s.ch[c].sw.base.isNone && s.ch[c].sw.started
        && arrivedAt s.ch[c] then setBase s c b
    else s

end Sys2Proof.Machine
end

