-- ==== Sys2Proof/Machine/ChanOps.lean ====
section
/-!
DEFINITION. Channel states and ranges: START and STOP, the SAFE transition, range requests and their
sequences (R43, R64 to R68, R80 to R92), and the supervision of one frame (R77 to R94, R130 to R136).
-/

namespace Sys2Proof.Machine

/-- All of BAR0 responds: from SAFE onwards (R48). -/
def regsUp (s : State) : Bool := !(s.mod.mode == .bypass || s.mod.mode == .boot)

/-- The cores run: PORST_N low in OPEN holds them in reset (R40). -/
def coresRun (s : State) : Bool := s.pins.porstN || s.mod.mode != .opened

/-- A generator at rest where it stands. -/
def restProfile (p : Profile) : Profile :=
  { p with vel := 0, acc := 0, segs := [], goal := p.pos, after := none, moving := false }

/-- Counts that run only while a channel is RUNNING return to 0 (R130, R162). -/
def clearCounts (h : Channel) : Channel :=
  { h with
    ms := { h.ms with openCount := 0, openDue := false, monCount := 0, monDue := false
                      clampCount := 0, clampDue := false, leadCount := 0, leadDue := false }
    eng := { h.eng with resCount := 0, resDue := false, frzLen := 0, frzDrive := 0, frzDue := false
                        reacting := false, frozen := false, demands := [], dacs := [] }
    inComp := false
    range := { h.range with downCount := 0 } }

/-- The end messages a unit owes when its tests stop being evaluated (R272). -/
def endTests (s : State) (c : Fin 128) : State :=
  [0x03, 0x06, 0x07, 0x08].foldl (fun s k => endUnit s c k) s

/-- A channel reaches STOPPED: its initial state, no work in flight, its reservation released unless
it belongs to the start set (R64, R66, R67, R224). A range sequence that still runs is dropped with the old range in
force (A51). -/
def reachStopped (s : State) (c : Fin 128) : State :=
  let s := endTests s c
  let estop := s.pins.estopLow
  updCh s c fun h =>
    let h := calmDac (clearCounts h)
    initialCh estop { h with
      state := .stopped, stopping := false, startReq := false, stopReq := none, bdrvZero := false
      reserved := h.reserved && h.startSet, pg := restProfile h.pg
      range := { h.range with seq := none } }

/-- Every channel is STOPPED. -/
def allStopped (s : State) : Bool := s.ch.toList.all fun h => h.state == .stopped

/-- Connect a STOPPED connect-at-SAFE channel on entry to SAFE while ESTOP_N is high (R45, R67). -/
def connectAtEntry (s : State) : State :=
  let estop := s.pins.estopLow
  mapCh s fun _ h => if h.state = .stopped then initialCh estop h else h

/-- Release the reservations that last until a transition to SAFE (R56, R224). -/
def releaseAll (s : State) : State :=
  mapCh s fun _ h =>
    let h := if h.startSet || h.state == .stopped then releaseCh h else h
    if h.sw.state.isIdle then { h with sw := { h.sw with reserved := false } } else h

/-- The transition to SAFE completes once the last channel is STOPPED (R43). -/
def completeSafe (s : State) : State :=
  if s.mod.safePend && allStopped s then
    let s := setMode (updMod s fun m => { m with safePend := false, readyAdmitted := false }) .safe
    ringAtSafe (connectAtEntry (releaseAll s))
  else s

/-! ## START and STOP -/

/-- A channel whose profile generator must have limits and has one that reads 0 (R167). -/
def limitsMissing (cfg : ChCfg) : Bool :=
  !(cfg.func == .off || cfg.func == .mv) &&
    (b64ToRat cfg.pgVmax == 0 || b64ToRat cfg.pgAmax == 0 || b64ToRat cfg.pgJmax == 0)

/-- START is accepted (R43, R65, R102, R167, R295); a STOP in the same frame wins (R68). -/
def startAccepted (s : State) (c : Fin 128) : Bool :=
  s.mod.mode == .run && !s.mod.safePend && !s.pins.estopLow && !s.mod.collStall &&
    s.ch[c].state == .stopped && s.ch[c].stopFrame != some s.tb.last && !limitsMissing s.ch[c].cfg

/-- CH_CTRL.START (R65). -/
def startCh (s : State) (c : Fin 128) : State :=
  if !regsUp s then s
  else if startAccepted s c then updCh s c fun h => { h with startReq := true }
  else updCh s c fun h => { h with startRej := true }

/-- A SAFED channel takes a STOP; in the frame of its reaction the STOP is consumed (R68). -/
def stopSafedCh (frame : Nat) (h : Channel) : Channel :=
  if h.reactFrame = some frame then h else { h with stopReq := some frame }

/-- STOP of one channel (R66 to R68, R177); a channel stays SAFED in LOCKDOWN and OPEN (R38). -/
def stopCh (s : State) (c : Fin 128) : State :=
  let frame := s.tb.last
  let s := updCh s c fun h => { h with stopFrame := some frame }
  let s := if s.ch[c].state = .safed then s else updSw s c fun w => { abortList w .stop with armReq := false }
  match s.ch[c].state with
  | .stopped => updCh s c fun h =>
      if h.startReq then { h with startReq := false, startRej := true } else h
  | .starting => reachStopped s c
  | .running =>
    if s.ch[c].stopping then s
    else updCh s c fun h => { h with stopping := true, pg := { h.pg with fresh := true } }
  | .safed =>
    if s.mod.mode = .lockdown || s.mod.mode = .opened then s
    else updCh s c (stopSafedCh s.tb.last)

/-- CH_CTRL.STOP; the last channel may reach STOPPED with it (R43, R66). -/
def stopCommand (s : State) (c : Fin 128) : State := if regsUp s then completeSafe (stopCh s c) else s

/-- A SAFED channel's STOP takes effect at a boundary after its ramp (R67), never in LOCKDOWN (R38). -/
def takeSafedStop (s : State) (c : Fin 128) : State :=
  let h := s.ch[c]
  if s.mod.mode.operating && h.state = .safed && h.stopReq.isSome && h.out != .ramp then reachStopped s c else s

/-- START is taken at a boundary: the ledger decides, the initial range is set, the source DAC goes to
zero and the switch closes (R65 steps 1 to 3). -/
def takeStart (s : State) (c : Fin 128) : State :=
  let h := s.ch[c]
  if !(h.startReq && h.state == .stopped) then s
  else if s.mod.mode != .run || s.mod.safePend || s.pins.estopLow then
    updCh s c fun h => { h with startReq := false, startRej := true }
  else
    let (ok, s) := admitStart s c
    if ok then
      updCh s c fun h =>
        let h := { h with
          startReq := false, state := .starting
          out := match h.cfg.func with | .off => .hiz | .mv => .measure | _ => .dacZero
          bdrvZero := false
          range := { h.range with vAct := h.cfg.vInit, iAct := h.cfg.iInit, seq := none } }
        if h.cfg.func = .off then { h with switchOn := false } else closeSwitch h
    else updCh s c fun h => { h with startReq := false, admitDenied := true }

/-- The START sequence finishes: cleared state, the bank of BANK_SEL, or the present one with BANK_REJ where that
bank fails its conditions (R153), the profile at PG_INIT, RUNNING (R65 step 4). The read-back comparison is skipped
in its first MON_LAG frames (R134); the CLAMP_ACTIVE count goes on (R79). -/
def completeStart (h : Channel) : Channel :=
  let m := h.ms
  let h := clearCounts h
  let ok := h.eng.bankSel == h.eng.bankAct || bankCross h.cfg (bankOf h.cfg h.eng.bankSel)
  let bank := if ok then h.eng.bankSel else h.eng.bankAct
  { h with
    state := .running
    out := match h.cfg.func with | .off => .hiz | .mv => .measure | _ => .driven
    pg := startProfile h.cfg h.pg
    dg := Deglitch.reset, dgPrev := Deglitch.reset
    ms := { h.ms with monSkip := monLag h.cfg, clampCount := m.clampCount, clampDue := m.clampDue }
    eng := { h.eng with
      ct := h.eng.ct.map fun k => { Contender.reset with bump := k.bump }
      bud := Vector.replicate 2 Contender.reset
      bankSel := bank, bankAct := bank, bankRej := h.eng.bankRej || !ok
      demand := 0, dac := 0, yhat := 0, x := Vector.replicate 4 0, winner := 0, demClip := false
      firstFrame := true } }

/-- The stopping profile is at rest at PG_INIT, or the channel has no profile (R66). -/
def stopArrived (h : Channel) : Bool :=
  h.state == .running && h.stopping &&
    (!hasLoop h.cfg || (h.pg.segs.isEmpty && !h.pg.fresh && h.pg.pos == b64ToRat h.cfg.pgInit))

/-! ## Ranges (R80 to R92) -/

/-- Drop the pending requests: CH_RANGE returns to the codes last taken (R80). -/
def dropRanges (r : ChRange) : ChRange :=
  if r.pendV.isSome || r.pendI.isSome then
    { r with pendV := none, pendI := none, vReq := r.vTaken, iReq := r.iTaken, rangeRej := true }
  else r

/-- A voltage request is refused (R81). -/
def vRefused (h : Channel) (v : Nat) : Bool :=
  !h.cfg.vTable.contains v ||
    (vFull v < vFs h && decide (vFull v < absR h.ms.sense))
/-- A current request is refused (R81). -/
def iRefused (h : Channel) (i : Nat) : Bool :=
  !h.cfg.iTable.contains i ||
    (iFull h.cfg i < iFs h && decide (iFull h.cfg i < absR h.ms.meas))

/-- The comb's spare is taking this channel over or handing it back (R86). -/
def inHandover (s : State) (c : Fin 128) : Bool :=
  let k := s.comb[combOf c]
  match k.run with
  | some r => r.kind == .takeover && (r.phase == .taking || r.phase == .handing) && r.unit.val == k.map[slotOf c].val
  | none => false

/-- Take the voltage request of a RUNNING or STOPPED channel. -/
def takeV (h : Channel) (v : Nat) : Channel :=
  let r := { h.range with pendV := none }
  if vRefused h v then { h with range := { r with vReq := r.vTaken, rangeRej := true } }
  else if v = r.vAct then { h with range := { r with vTaken := v } }
  else if h.state = .running then
    { h with range := { r with vTaken := v, seq := some ⟨false, r.vAct, v, 0⟩ }
             eng := { h.eng with frozen := true } }
  else { h with range := { r with vTaken := v, vAct := v } }

/-- Take the current request of a RUNNING or STOPPED channel; booster codes change at once (R92). -/
def takeI (h : Channel) (i : Nat) : Channel :=
  let r := { h.range with pendI := none }
  if iRefused h i then { h with range := { r with iReq := r.iTaken, rangeRej := true } }
  else if i = r.iAct then { h with range := { r with iTaken := i } }
  else if h.state = .running && !(8 ≤ i && 8 ≤ r.iAct) then
    { h with range := { r with iTaken := i, seq := some ⟨true, r.iAct, i, 0⟩ } }
  else { h with range := { r with iTaken := i, iAct := i } }

/-- The range work of a channel at a boundary: a sequence counts its frames, or a pending request is
taken, voltage first (R80, R82, R84, R86). -/
def rangeBoundary (s : State) (c : Fin 128) : State :=
  let h := s.ch[c]
  match h.range.seq with
  | some q => updRange s c fun r => { r with seq := some { q with frames := q.frames + 1 } }
  | none =>
    if h.state = .starting || h.state = .safed then updRange s c dropRanges
    else if inHandover s c then s
    else match h.range.pendV, h.range.pendI with
      | some v, pi =>
        let h' := takeV h v
        if h'.range.seq.isSome then updCh s c fun _ => h'
        else match pi with
          | some i => updCh s c fun _ => takeI h' i
          | none => updCh s c fun _ => h'
      | none, some i => updCh s c fun _ => takeI h i
      | none, none => s

/-- A sequence ends: the new range is in force and autorange starts afresh; after a voltage sequence the deglitcher
releases (R82, R84, R88). -/
def endSequence (h : Channel) (current : Bool) : Channel :=
  match h.range.seq with
  | some q =>
    if q.current = current then
      let h := { h with
        range := { h.range with vAct := if current then h.range.vAct else q.new
                                iAct := if current then q.new else h.range.iAct
                                seq := none, downCount := 0 }
        eng := if current then h.eng else { h.eng with frozen := false } }
      if current then h else deglitchRelease h
    else h
  | none => h

/-- A fault reaction aborts a sequence: the higher current range stays (R86), and of two voltage ranges the old one
(A51). -/
def abortSequence (h : Channel) : Channel :=
  match h.range.seq with
  | some q =>
    { h with
      range := { h.range with seq := none, downCount := 0
                              iAct := if q.current then higherCode h.cfg q.old q.new else h.range.iAct }
      eng := { h.eng with frozen := false } }
  | none => h

/-- An autorange request for a current code: within MIN and MAX (R87), and none while RANGING (R88). -/
def autorange (h : Channel) (code : Nat) : Channel :=
  if h.range.seq.isSome || code < arMin h.cfg || arMax h.cfg < code then h
  else { h with range := { h.range with iReq := code, pendI := some code } }

/-- Autorange in one frame: up above 105%, and the down count below 9% (R87, R88). -/
def autorangeFrame (h : Channel) : Channel :=
  if !(arOn h.cfg && h.state == .running) then h
  else
    let m := absR h.ms.meas
    let fs := iFs h
    let h := if 105 / 100 * fs < m then autorange h (h.range.iAct + 1) else h
    let n := if h.range.seq.isSome || decide (9 / 100 * fs ≤ m) then 0
      else Nat.min (h.range.downCount + 1) 16
    { h with range := { h.range with downCount := n } }

/-! ## The terminal (R78, R90, R91, R95 to R101) -/

/-- The analog clamp's threshold in A, none where it does not act: 110% of the present range, the higher one during a
change, or of the initial range of a connect-at-SAFE channel (R78, R82, R96); the safe state's limit while SAFED (R97);
no clamp on a booster channel (R91). -/
def clampLimit (h : Channel) : Option Rat :=
  if !driving h || usesBooster h.cfg then none
  else match h.state, h.out with
    | .safed, .zero => some (iFs h / 100)
    | .safed, .holdV _ => some (clipR 0 (iFs h) (b64ToRat h.cfg.holdComp))
    | .safed, _ => some (11 / 10 * iFs h)
    | .stopped, _ => some (11 / 10 * iFull h.cfg h.cfg.iInit)
    | _, _ => some (11 / 10 * iFull h.cfg (clampCode h))

/-- The terminal voltage's limit in V: FI's second clamp, capped at 17 V (R78), and that of the 0 A at the end of
RAMP_ZERO (R98). It is part of the front end's analog loops, and a booster channel keeps it (A60). -/
def clampVolts (h : Channel) : Option Rat :=
  if !driving h then none
  else if h.out = .rampEnd then some (11 / 10 * vFs h)
  else if h.cfg.func = .fi && (h.state == .running || h.state == .starting) then
    some (minR (11 / 10 * vFs h) 17)
  else none

/-- A magnitude has reached a limit. -/
def reaches (l : Option Rat) (x : Rat) : Bool :=
  match l with
  | some l => decide (l ≤ absR x)
  | none => false

/-- A clamp is acting at the end of a frame. -/
def clampActs (r : Reading) (h : Channel) : Bool :=
  reaches (clampLimit h) r.amps || reaches (clampVolts h) r.frc

/-- OVERCURRENT's threshold: 120% of the present range, the higher one during a change (A51), or of the booster's
declared full scale (R79, R91). -/
def tripAmps (h : Channel) : Rat := 6 / 5 * iFull h.cfg (clampCode h)
/-- OVERVOLTAGE's threshold: OV_LIM of the voltage range, capped at 16.5 V (R79). -/
def tripVolts (h : Channel) : Rat := minR ((ovLim h.cfg : Rat) / 100 * vFs h) (33 / 2)

/-- The nodes of a terminal that the front end senses and guards (R93, R95). -/
inductive SenseNode where
  | sns | frc
  deriving DecidableEq, Repr

/-- What the front end holds at a channel's pins. -/
structure Terminal where
  /-- the output switch is closed -/
  switch : Bool
  /-- the internal driver is on -/
  driver : Bool
  /-- SNSn is connected to the front end (R93) -/
  sns : Bool
  /-- where the front end senses the terminal voltage (R93) -/
  senses : SenseNode
  /-- the node GRDn follows; none where its driver is high-impedance (R95) -/
  guard : Option SenseNode
  /-- BDRVn is driven to 0 V (R91, R99, R101); else the booster's drive follows the demand -/
  bdrvZero : Bool
  /-- FRCn is a sense input at the load side of the shunt, and BISNn senses its booster side (R90) -/
  frcSense : Bool
  /-- the current limit -/
  amps : Option Rat
  /-- the voltage limit -/
  volts : Option Rat
  deriving DecidableEq, Repr

/-- Where the front end senses the terminal: SNSn under REMOTE sense, FRCn under LOCAL (R93). -/
def senseNode (cfg : ChCfg) : SenseNode := if localSense cfg then .frc else .sns

/-- The pins of a channel. The guard driver is on with the switch, MV's included, and follows the sensed node (R95);
LOCAL sense disconnects SNSn (R93); a booster channel's internal driver is
disabled (R90), and its HIZ opens the FRCn sense path (R99). -/
def terminal (h : Channel) : Terminal :=
  let b := usesBooster h.cfg
  { switch := h.switchOn, driver := driverOn h, sns := !localSense h.cfg, senses := senseNode h.cfg
    guard := if h.switchOn then some (senseNode h.cfg) else none
    bdrvZero := b && (h.bdrvZero || !driving h || h.out == .zero)
    frcSense := b && h.switchOn, amps := clampLimit h, volts := clampVolts h }

/-! ## Supervision of one frame -/

/-- The current a MEAS conversion stands for: on booster codes the shunt voltage over the declared shunt (R90). -/
def toAmps (h : Channel) (m : Rat) : Rat :=
  match h.cfg.boosters.find? (fun b => b.code == h.range.iAct) with
  | some b => m / b.shunt
  | none => m

/-- SENSE and MEAS of a channel: behind an open switch the converters see 0 V (R116), and the assigned unit's terminal
fields correct both values (R204, R211; A46). `closed` says that the switch was closed in the interval; an average
over one in which it closed or opened is of what the converters saw. -/
def measured (rec_ : Option Record) (h : Channel) (closed : Bool) (sense meas : Rat) : Rat × Rat :=
  let v := if closed then sense else 0
  let i := if closed then toAmps h meas else 0
  (v - termVolts rec_ i, i - termAmps rec_ h.range.iAct v)

/-- MEAS of frame k + j of a current range change: the two gains weighted j/16 towards the new range (R82). -/
def crossFade (r : Reading) (h : Channel) : Rat :=
  match h.range.seq with
  | some q =>
    if q.current then
      let j : Rat := (Nat.min q.frames 16 : Nat)
      r.meas + j / 16 * (r.measNew - r.meas)
    else r.meas
  | none => r.meas

/-- MON reads a current (R128). -/
def monReadsCurrent (cfg : ChCfg) : Bool :=
  match cfg.func with
  | .fi => true
  | .servo => monCurrent cfg
  | _ => false

/-- What the terminal fields take from MON's quantity (R211). -/
def monTerm (rec_ : Option Record) (h : Channel) : Rat :=
  if monReadsCurrent h.cfg then termAmps rec_ h.range.iAct h.ms.sense else termVolts rec_ h.ms.meas

/-- Readings of a channel in this frame; OFF reads 0; a corrected value beyond ±125% of range, or a modulator that
the closed switch holds at its end, is marked (R115, R116, R123). -/
def takeReading (rec_ : Option Record) (r : Reading) (h : Channel) : Channel :=
  if h.cfg.func = .off then
    { h with ms := { h.ms with sense := 0, meas := 0, mon := 0, ovrSense := false, ovrMeas := false } }
  else
    let m := crossFade r h
    let (v, i) := measured rec_ h h.switchOn r.sense m
    let mon := if !h.switchOn then 0 else if monReadsCurrent h.cfg then toAmps h r.mon else r.mon
    let h := { h with ms := { h.ms with
        sense := v, meas := i
        ovrSense := (h.switchOn && r.ovrSense) || decide (5 / 4 * vFs h < absR v)
        ovrMeas := (h.switchOn && r.ovrMeas) || decide (5 / 4 * iFs h < absR i) } }
    { h with ms := { h.ms with mon := mon - monTerm rec_ h } }

/-- The CLAMP_ACTIVE count runs (R79); a booster channel has no clamp (R91). -/
def clampRuns (h : Channel) : Bool :=
  hasLoop h.cfg && !usesBooster h.cfg &&
    (h.state == .running || h.state == .starting ||
      (h.state == .stopped && h.cfg.connectAtSafe && h.switchOn))

/-- The clamp and lead-drop counts of a frame (R79, R93). The lead drop of an MV channel, which forces nothing, is not
tested (A53). -/
def frontCounts (r : Reading) (h : Channel) : Channel :=
  let cc := if clampRuns h && clampActs r h then h.ms.clampCount + 1 else 0
  let cc := Nat.min cc 1000
  let lc := if h.state == .running && hasLoop h.cfg && !localSense h.cfg &&
      decide (leadDropLim h.cfg < absR r.lead) then Nat.min (h.ms.leadCount + 1) 2 else 0
  { h with ms := { h.ms with clampCount := cc, clampDue := cc != 0 && clampCnt h.cfg ≤ cc
                             leadCount := lc, leadDue := lc == 2 } }

/-- COMPLIANCE is supervised (R130). -/
def superviseComp (cfg : ChCfg) : Bool := supvMode cfg == 0 || supvMode cfg == 2
/-- READBACK is supervised (R130). -/
def superviseMon (cfg : ChCfg) : Bool := supvMode cfg == 1 || supvMode cfg == 2

/-- Full scale of the present range of the quantity MON reads. -/
def monFs (h : Channel) : Rat := if monReadsCurrent h.cfg then iFs h else vFs h

/-- The value MON should read in this frame, none while no demand of frame k − MON_LAG exists: the corrected DAC
demand of that frame in the quantity MON reads, less what R211 takes from MON's own value (R133, R134; A46). -/
def monExpected (rec_ : Option Record) (h : Channel) : Option Rat :=
  let fs := if forcesCurrent h.cfg == monReadsCurrent h.cfg then 1 else monFs h / forcedFs h
  match h.cfg.func with
  | .off => none
  | .mv => some h.ms.sense
  | .mi => if (h.eng.dacs[monLag h.cfg]?).isSome then some 0 else none
  | _ => (h.eng.dacs[monLag h.cfg]?).map fun d => d * fs - monTerm rec_ h

/-- The disagreement count of a frame; true says that it has reached MON_CNT (R133, R134). -/
def monFrame (rec_ : Option Record) (skip clamp : Bool) (h : Channel) : Nat × Bool :=
  if !superviseMon h.cfg || skip || h.range.seq.isSome then (0, false)
  else match monExpected rec_ h with
    | none => (0, false)
    | some e =>
      if clamp then (h.ms.monCount, false)
      else if (monTol h.cfg : Rat) / 1000000 * monFs h < absR (h.ms.mon - e) then
        if monCnt h.cfg ≤ h.ms.monCount + 1 then (0, true) else (h.ms.monCount + 1, false)
      else (0, false)

/-- The open-load count of a frame; true says that it has reached OPEN_CNT (R132). -/
def openFrame (h : Channel) : Nat × Bool :=
  let comp := h.inComp && h.eng.winner < 4
  if superviseComp h.cfg && forcesCurrent h.cfg && comp && h.range.seq.isNone &&
      decide (iFs h / 100 ≤ absR h.pg.pos) && decide (absR h.ms.meas < absR h.pg.pos / 100) then
    if openCnt h.cfg ≤ h.ms.openCount + 1 then (0, true) else (h.ms.openCount + 1, false)
  else (0, false)

/-- Supervision of a RUNNING channel in one frame (R130 to R136). -/
def superviseFrame (rec_ : Option Record) (parallel clamp : Bool) (h : Channel) : Channel :=
  if h.state != .running then h
  else
    let seen := superviseComp h.cfg && h.inComp
    let (mc, md) := monFrame rec_ (parallel || h.ms.monSkip != 0) clamp h
    let (oc, od) := openFrame h
    { h with ms := { h.ms with
        compSeen := h.ms.compSeen || seen
        compFrames := if seen then Nat.min (h.ms.compFrames + 1) 4294967295 else h.ms.compFrames
        monCount := mc, monDue := h.ms.monDue || md, openCount := oc, openDue := h.ms.openDue || od
        monSkip := if parallel then monLag h.cfg else h.ms.monSkip - 1 } }

end Sys2Proof.Machine
end

