-- ==== Sys2Proof/Machine/Capture.lean ====
section
/-!
DEFINITION. Capture: samples (R124), blocks and their descriptors (R245, R247), capture rings with their
overrun policy (R249 to R253), and the opening and closing of streams (R244, R246).
-/

namespace Sys2Proof.Machine

/-! ## Samples (R124) -/

/-- VALUE of a quantity against its full scale, rounded to multiples of 2^drop. -/
def sampleValue (q fs : Rat) (drop : Nat) : Int :=
  let v := roundEven (q / fs * 16777216 / (2 ^ drop : Nat)) * (2 ^ drop : Nat)
  if -33554432 ≤ v ∧ v < 33554432 then v else Config.overSpan q

/-- A capture sample. -/
def sampleWord (v : Int) (range : Nat) (ranging ovr : Bool) : Word :=
  BitVec.ofNat 32 ((BitVec.ofInt 26 v).toNat * 64 + range % 16 * 4 + (if ranging then 2 else 0)
    + if ovr then 1 else 0)

/-- A sample of a voltage of a channel. -/
def voltSample (h : Channel) (q : Rat) (drop : Nat) (ranging ovr : Bool) : Word :=
  sampleWord (sampleValue q (vFs h) drop) h.range.vAct ranging ovr
/-- A sample of a current of a channel. -/
def currSample (h : Channel) (q : Rat) (drop : Nat) (ranging ovr : Bool) : Word :=
  sampleWord (sampleValue q (iFs h) drop) h.range.iAct ranging ovr

/-- A voltage range change marks the decimator values of its frame (R85), and those of each further frame in which its
sequence still runs (A51). -/
def loopRanging (h : Channel) : Bool :=
  match h.range.seq with
  | some q => !q.current
  | none => false

/-- The sample a loop stream takes in a frame: SRC 0 SENSE, 1 MEAS, 2 MON. -/
def loopSample (h : Channel) (src : Nat) : Word :=
  match src with
  | 0 => voltSample h h.ms.sense 0 (loopRanging h) h.ms.ovrSense
  | 1 => currSample h h.ms.meas 0 (loopRanging h) h.ms.ovrMeas
  | _ => if monReadsCurrent h.cfg then currSample h h.ms.mon 8 (loopRanging h) false
    else voltSample h h.ms.mon 8 (loopRanging h) false

/-- The sample of an averaged pair: SENSE or MEAS. -/
def pairSample (h : Channel) (a : Aperture) (current : Bool) : Word :=
  if current then currSample h a.meas 0 a.ranging a.ovr else voltSample h a.sense 0 a.ranging a.ovr

/-- An aperture-result stream carries MEAS (R125). -/
def resultIsCurrent (cfg : ChCfg) : Bool :=
  match cfg.func with
  | .fv | .mi => true
  | .servo => !forceQ cfg
  | _ => false

/-! ## Rings (R249 to R253) -/

/-- N of a ring. -/
def ringBlocks (s : State) (n : Fin 31) : Nat := s.sto.parts[n.castSucc].size * 2 ^ 20 / 4112

/-- A receive-ring entry names the partition (R321). -/
def isRxRing (s : State) (n : Fin 31) : Bool :=
  s.jx.rx.toList.any fun w => bit w 31 && field w 4 0 == n.val

/-- The registers of ring n are active (R369). -/
def ringActive (s : State) (n : Fin 31) : Bool :=
  s.sto.parts[n.castSucc].type == 1 || isRxRing s n

/-- The store address of the data of block index i, and of its descriptor. -/
def blockAddr (s : State) (n : Fin 31) (i : Nat) : Nat × Nat :=
  let b := s.sto.parts[n.castSucc].base * 2 ^ 20
  let N := ringBlocks s n
  (b + i % N * 4096, b + N * 4096 + i % N * 16)

/-- Block m is overwritten when the ring of N blocks takes its next block (R252). -/
def overwritten (N : Nat) (r : CapRing) (m : Nat) : Bool := N < r.wp + 1 - m

/-- WP advances over a written block; MARK is lost when it is overwritten (R252), and a rewind to it that waits for the
end of the scheduler cycle fails (R253). -/
def advanceWp (N : Nat) (r : CapRing) : CapRing :=
  let lost := r.markValid && overwritten N r r.mark
  { r with
    wp := r.wp + 1, markValid := r.markValid && !lost, markLost := r.markLost || lost
    rewindTo := r.rewindTo.filter fun m => !overwritten N r m }

/-- A 32-bit counter that saturates. -/
def satInc (n : Nat) : Nat := Nat.min (n + 1) 4294967295

/-- Write a block of 4,096 data bytes and its descriptor under the overrun policy (R249, R251). -/
def writeBlock (s : State) (n : Fin 31) (data desc : List Byte) : State :=
  let N := ringBlocks s n
  let r := s.sto.ring[n]
  if !ringActive s n || N = 0 then s
  else if r.wp - r.rp < N || ringOverwrites r.cfg then
    let (d, e) := blockAddr s n r.wp
    let s := storeWrite (storeWrite s d data) e desc
    updRing s n fun r =>
      let r := if r.wp - r.rp < N then r
        else { r with rp := r.rp + 1, ovwr := satInc r.ovwr, overrun := true }
      advanceWp N r
  else updRing s n fun r => { r with drop := satInc r.drop, overrun := true }

/-- RP with a rewind that waits for the end of the scheduler cycle (R253). -/
def rpAfter (r : CapRing) : Nat := if r.rewindReq then r.rewindTo.getD r.rp else r.rp
/-- SET_MARK (R252): after a REWIND of the same scheduler cycle MARK is the RP that the rewind leaves (R253). -/
def setRingMark (r : CapRing) : CapRing := { r with mark := rpAfter r, markValid := true }
/-- CLR_MARK (R252). -/
def clrRingMark (r : CapRing) : CapRing := { r with markValid := false }
/-- REWIND waits for the end of the scheduler cycle, whose block writes are applied first (R253): it goes to the MARK of
this moment, or fails. -/
def askRewind (r : CapRing) : CapRing :=
  if r.markValid then
    { r with rewindReq := true, rewindTo := some r.mark
             rewindErr := r.rewindErr || (r.rewindReq && r.rewindTo.isNone) }
  else if r.rewindTo.isSome then { r with rewindErr := true }
  else { r with rewindReq := true }
/-- A rewind takes effect, or fails without a mark (R253). -/
def rewindRing (r : CapRing) : CapRing :=
  if !r.rewindReq then r
  else match r.rewindTo with
    | some m => { r with rewindReq := false, rewindTo := none, rp := m }
    | none => { r with rewindReq := false, rewindErr := true }

/-! ## Blocks (R245, R247) -/

/-- Bytes 0 to 11 of a block descriptor. -/
def descHead (ts stream count : Nat) (part : Bool) : List Byte :=
  toBytes 8 ts ++ toBytes 4 (stream + count * 2 ^ 11 + if part then 2 ^ 24 else 0)

/-- A block descriptor with the CRC over data and head (R247). -/
def descBytes (data head : List Byte) : List Byte :=
  head ++ toBytes 4 (crc32c (data ++ head)).toNat

/-- The data bytes of a block, unused bytes 0. -/
def padBlock (bs : List Byte) : List Byte := bs.take 4096 ++ List.replicate (4096 - bs.length) 0

/-- Pack raw codes, least significant bit first (R127). -/
def packCodes (width : Nat) : List Nat → Nat
  | [] => 0
  | c :: l => c % 2 ^ width + packCodes width l * 2 ^ width

/-- The ring a stream feeds. -/
def streamRing (st : Stream) : Option (Fin 31) :=
  if h : strRing st.cfg < 31 then some ⟨strRing st.cfg, h⟩ else none

/-- Write a block of a stream into its ring. -/
def putBlock (s : State) (n : Fin 2048) (ts count : Nat) (part : Bool) (data : List Byte) : State :=
  match streamRing s.sto.stream[n] with
  | some r => writeBlock s r data (descBytes data (descHead ts n.val count part))
  | none => s

/-- Close the assembly block of a stream of 32-bit samples; an empty block leaves nothing. -/
def closeBlock (s : State) (n : Fin 2048) : State :=
  let st := s.sto.stream[n]
  if st.block.isEmpty then s
  else
    let data := padBlock (st.block.flatMap fun w => toBytes 4 w.toNat)
    let s := putBlock s n st.ts st.block.length (st.block.length < 1024) data
    updStream s n fun x => { x with block := [], ts := 0 }

/-- Add a sample to a stream's block; a full block closes (R245). -/
def addSample (s : State) (n : Fin 2048) (t : Nat) (w : Word) : State :=
  let now := s.tb.now
  let s := updStream s n fun x =>
    { x with block := x.block ++ [w], ts := if x.block.isEmpty then t else x.ts
             openedAt := if x.block.isEmpty then now else x.openedAt }
  if 1024 ≤ s.sto.stream[n].block.length then closeBlock s n else s

/-! ## Raw streams (R107, R126, R127) -/

/-- The source is raw (R243). -/
def rawSource (st : Stream) : Bool := 6 ≤ strSrc st.cfg

/-- Codes in a full block of a raw stream, the bits of a code, and the ticks between codes (R107, R127). -/
def rawShape (st : Stream) : Nat × Nat × Nat := if strSrc st.cfg = 9 then (1820, 18, 800) else (5461, 6, 10)

/-- The first sample instant of a raw stream at or after a tick (R107). -/
def rawInstant (st : Stream) (t : Nat) : Nat :=
  let gap := (rawShape st).2.2
  (t + gap - 1) / gap * gap

/-- Close the assembly block of a raw stream; an empty block leaves nothing. -/
def closeRaw (s : State) (n : Fin 2048) : State :=
  let st := s.sto.stream[n]
  let (full, width, _) := rawShape st
  if st.raw.isEmpty then s
  else
    let s := putBlock s n st.ts st.raw.length (st.raw.length < full) (toBytes 4096 (packCodes width st.raw))
    updStream s n fun x => { x with raw := [], ts := 0 }

/-- Add one code at its instant; a full block closes (R127, R245). -/
def addCode (s : State) (n : Fin 2048) (code : Nat) : State :=
  let (full, _, gap) := rawShape s.sto.stream[n]
  let s := updStream s n fun x =>
    let t := x.nextCode
    { x with raw := x.raw ++ [code], nextCode := t + gap, ts := if x.raw.isEmpty then t else x.ts
             openedAt := if x.raw.isEmpty then t else x.openedAt }
  if full ≤ s.sto.stream[n].raw.length then closeRaw s n else s

/-- How many instants before a tick have not been taken. -/
def rawDue (st : Stream) (before : Nat) : Nat := (before + (rawShape st).2.2 - 1 - st.nextCode) / (rawShape st).2.2

/-- The codes of the instants before a tick that have not been taken, from what the converter delivered; an instant
without one reads 0, and a channel in OFF delivers none (R126, R244). -/
def addRaw (s : State) (n : Fin 2048) (before : Nat) (codes : List Nat) : State :=
  let st := s.sto.stream[n]
  if s.ch[strCh st.cfg].cfg.func = .off then updStream s n fun x => { x with nextCode := rawInstant x before }
  else
    ((List.range (rawDue st before)).map fun i => codes[i]?.getD 0).foldl (fun s c => addCode s n c) s

/-- Close the assembly block of a stream (R245). -/
def closeAssembly (s : State) (n : Fin 2048) : State :=
  if rawSource s.sto.stream[n] then closeRaw s n else closeBlock s n

/-- The open streams of a channel from one of some sources. -/
def streamsOf (s : State) (c : Fin 128) (p : Nat → Bool) : List (Fin 2048) :=
  (List.finRange 2048).filter fun n =>
    let st := s.sto.stream[n]
    st.opened && strCh st.cfg == c && p (strSrc st.cfg)

/-- Every open stream from a loop source takes its sample of the frame that begins at t (R243), and every raw stream
the codes of the frame that ends there. -/
def captureFrame (s : State) (raw : List (Fin 2048 × List Nat)) (t : Nat) : State :=
  ((List.finRange 2048).filter fun n => s.sto.stream[n].opened).foldl (fun s n =>
    let st := s.sto.stream[n]
    let h := s.ch[strCh st.cfg]
    if rawSource st then
      addRaw s n t (match raw.find? fun p => p.1 == n with | some p => p.2 | none => [])
    else if strSrc st.cfg < 3 && h.cfg.func != .off then addSample s n t (loopSample h (strSrc st.cfg))
    else s) s

/-- A raw stream takes the codes of the instants since the last frame boundary: those its block holds when it closes,
whose values no command that closes a stream brings (R244; A14). -/
def rawUntilNow (s : State) (n : Fin 2048) : State :=
  if rawSource s.sto.stream[n] then
    let k := s.freshCount
    let m := rawDue s.sto.stream[n] s.tb.now
    addRaw { s with freshCount := k + m } n s.tb.now ((List.range m).map fun i => Config.rawCode (k + i))
  else s

/-- Close a stream: its block is written with the samples taken until now, its reservation released (R244, R246). -/
def endStream (s : State) (n : Fin 2048) : State :=
  updStream (closeAssembly (rawUntilNow s n) n) n fun x => { x with opened := false, openReq := false, rate := 0 }

/-- A stream that is not open when every stream closes: an OPEN that waits is refused, and what a READY that is dropped
had reserved for it is released (R224, R246, R289). -/
def dropWaiting (x : Stream) : Stream :=
  if x.opened then x else { x with openReq := false, cfgRej := x.cfgRej || x.openReq, rate := 0 }

/-- Every stream closes (R246). -/
def endStreams (s : State) : State :=
  ((List.finRange 2048).filter fun n => s.sto.stream[n].opened).foldl endStream
    (updSto s fun t => { t with stream := t.stream.map dropWaiting })

/-- A stream's configuration is within its ranges (R243, R369). -/
def streamCfgOk (s : State) (st : Stream) : Bool :=
  strSrc st.cfg ≤ 9 && 1 ≤ field st.age 13 0 && field st.age 13 0 ≤ 10000 &&
    (strSrc st.cfg != 5 || 1 ≤ field st.age 31 16) &&
    match streamRing st with
    | some r => s.sto.parts[r.castSucc].type == 1
    | none => false

/-- OPEN is accepted now (R244, R295, R370). -/
def mayOpen (s : State) (n : Fin 2048) : Bool :=
  streamCfgOk s s.sto.stream[n] && s.mod.mode.operating && !s.mod.collStall

/-- CAP_STRs_CTRL.OPEN: the ledger decides at the next boundary (R225, R244, R370). -/
def openStr (s : State) (n : Fin 2048) : State :=
  if s.sto.stream[n].opened then s
  else if mayOpen s n then updStream s n fun x => { x with openReq := true }
  else updStream s n fun x => { x with cfgRej := true }

/-- An admitted stream opens; its raw codes are those from now on. -/
def startStream (now : Nat) (x : Stream) : Stream :=
  { x with opened := true, openReq := false, nextCode := rawInstant x now }

/-- The ledger decides a stream that waits (R225). -/
def decideStream (s : State) (n : Fin 2048) : State :=
  if !mayOpen s n then updStream s n fun x => { x with openReq := false, cfgRej := true }
  else
    let (ok, s) := admitStream s n
    if ok then updStream s n (startStream s.tb.now)
    else updStream s n fun x => { x with openReq := false, admitDenied := true }

/-- Every stream that waits is decided, in ascending order. -/
def decideStreams (s : State) : State :=
  ((List.finRange 2048).filter fun n => s.sto.stream[n].openReq).foldl decideStream s

/-- CAP_STRs_CTRL.CLOSE takes back an OPEN that waits for its decision, too (R244, R245). -/
def closeStr (s : State) (n : Fin 2048) : State :=
  if s.sto.stream[n].opened then endStream s n else updStream s n fun x => { x with openReq := false }

/-! ## Windows cut short (R57, R122) -/

/-- An open measure window ends at once: its result is marked invalid. -/
def cutWindow (s : State) (c : Fin 128) : State :=
  let w := s.ch[c].sw
  if !w.windowOpen then s
  else
    let n := s.freshCount
    let cap := match w.step with | some p => p.capture | none => false
    let t := match w.step, w.base with | some p, some b => b + p.mdelay | _, _ => 0
    updSw { s with freshCount := n + 2 } c fun w => { w with
      windowOpen := false, windowRanging := false, windowDone := true
      results := w.results ++ [(⟨Config.cutAverage n, Config.cutAverage (n + 1), true, true⟩, cap, t)] }

end Sys2Proof.Machine
end

