-- ==== Sys2Proof/Machine/QueueOps.lean ====
section
/-!
DEFINITION. Stream queues: items, framing, credits, watermarks, flush and discard (R254 to R263), the
host port, the consumers inside the module and the set-point injector's packets (R265 to R268).
-/

namespace Sys2Proof.Machine

/-! ## Tags (R254) -/

/-- SOP of an item. -/
def QItem.sop (i : QItem) : Bool := i.tag.getLsbD 1
/-- EOP of an item. -/
def QItem.eop (i : QItem) : Bool := i.tag.getLsbD 2
/-- CRC_BAD of an item. -/
def QItem.crcBad (i : QItem) : Bool := i.tag.getLsbD 3
/-- The item as the queue holds it: VALID is set. -/
def QItem.held (i : QItem) : QItem := { i with tag := i.tag ||| 1 }

/-! ## Watermarks (R261) -/

/-- The level of watermark pin p. -/
def wmLevel (s : State) (p : Fin 4) : Bool :=
  let m := s.pins.wmMap[p]
  if !bit m 31 || s.mod.mode = .bypass || s.mod.mode = .boot then false
  else
    let q := s.sq[(⟨field m 4 0 % 32, Nat.mod_lt _ (by decide)⟩ : Fin 32)]
    if field q.wm 29 16 ≤ q.items.length then true
    else if q.items.length ≤ field q.wm 13 0 then false
    else s.pins.sqWm[p]

/-- Bring the watermark pins up to date. -/
def updWm (s : State) : State := updPins s fun p => { p with sqWm := Vector.ofFn fun i => wmLevel s i }

/-! ## Flush and discard (R262, R263) -/

/-- Empty a queue; its credits are on their way back. -/
def emptyQueue (q : Queue) : Queue := { q with items := [], visible := 0, returning := 8192 - q.credit }

/-- A flush takes effect. -/
def flushNow (q : Queue) : Queue :=
  { emptyQueue q with flushPend := false, flushDone := true, pktOpen := false, pktLen := 0 }

/-- FLUSH is requested. -/
def flushReq (q : Queue) : Queue :=
  if q.pktOpen || q.dropping then { q with flushPend := true } else flushNow q

/-- The queue discards its contents for a safe state. -/
def discardQueue (q : Queue) : Queue :=
  { emptyQueue q with
    discarded := true, flushDone := q.flushDone || q.flushPend, flushPend := false
    dropping := q.dropping || q.pktOpen, pktOpen := false, pktLen := 0, inj := [], injCrcs := [], values := [] }

/-! ## Writes (R256 to R258) -/

/-- The discarded rest of a packet: one item on arrival. -/
def dropItem (q : Queue) (i : QItem) : Queue :=
  let q := { q with dropping := !i.eop }
  if i.eop && q.flushPend then flushNow q else q

/-- Take an accepted item. -/
def pushItem (q : Queue) (i : QItem) : Queue :=
  let q := { q with items := q.items ++ [i.held], credit := q.credit - 1, pktOpen := !i.eop
                    pktLen := if i.eop then 0 else if i.sop then 1 else q.pktLen + 1 }
  if i.eop && q.flushPend then flushNow q else q

/-- Discard the open packet, its unread items included; their credits return. -/
def breakPacket (q : Queue) : Queue :=
  let n := Nat.min q.pktLen q.items.length
  let keep := q.items.take (q.items.length - n)
  { q with items := keep, visible := Nat.min q.visible keep.length, returning := q.returning + n
           pktOpen := false, pktLen := 0, frameErr := true }

/-- An item breaks framing (R256). -/
def breaksFrame (q : Queue) (i : QItem) : Bool := i.sop == q.pktOpen

/-- SOP while the rest of a packet is being discarded: framing breaks, and the item begins a packet (R256). -/
def endDrop (s : State) (n : Fin 32) : State :=
  let q := s.sq[n]
  updQ (send s 0x4A (queueSource q.cfg) (queueDetail s n)) n fun q => { q with dropping := false, frameErr := true }

/-- The producer writes an item into an enabled queue. -/
def queueWrite (s : State) (n : Fin 32) (i : QItem) : State :=
  let q := s.sq[n]
  if !q.en then s
  else if q.dropping && !i.sop then updWm (updQ s n fun q => dropItem q i)
  else
    let s := if q.dropping then endDrop s n else s
    queueAccept s n i
where
  /-- The item of a producer whose packets are not being discarded. -/
  queueAccept (s : State) (n : Fin 32) (i : QItem) : State :=
  let q := s.sq[n]
  if q.credit = 0 then
    updWm (updQ (send s 0x19 (queueSource q.cfg) (queueDetail s n)) n fun q =>
      dropItem { q with pktOpen := false, pktLen := 0 } i)
  else if breaksFrame q i then
    let s := send s 0x4A (queueSource q.cfg) (queueDetail s n)
    updWm (updQ s n fun q =>
      let q := breakPacket q
      if i.sop then pushItem q i else q)
  else updWm (updQ s n fun q => pushItem q i)

/-! ## Reads (R259) -/

/-- Take the item the consumer sees, if any. -/
def takeItem (s : State) (n : Fin 32) : Option QItem × State :=
  let q := s.sq[n]
  if q.en && 0 < q.visible then
    match q.items with
    | i :: l => (some i, updWm (updQ s n fun q =>
        { q with items := l, visible := q.visible - 1, returning := q.returning + 1 }))
    | [] => (none, s)
  else (none, s)

/-! ## Set-point packets (R266 to R268) -/

/-- The internal CRC-32C of a value (R264). -/
def itemCrc (d : DWord) : Word := crc32c (toBytes 8 d.toNat)

/-- The bytes of items, data only. -/
def itemBytes (l : List QItem) : List Byte := l.flatMap fun i => toBytes 8 i.data.toNat

/-- A channel lies in a binding scope. -/
def inScope (cfg : Word) (ch : Nat) : Bool :=
  match qScope cfg with
  | 0 => ch == qSidx cfg
  | 1 => ch / 8 == qSidx cfg
  | 2 => ch / 32 == qSidx cfg
  | _ => true

/-- The packet passes its check: host CRC, COUNT and CHANNEL. -/
def packetOk (cfg : Word) (l : List QItem) : Bool :=
  match l with
  | [] => false
  | h :: _ =>
    let n := field64 h.data 15 8
    let body := l.take (n + 1)
    1 ≤ n && l.length == n + 2 && inScope cfg (field64 h.data 6 0) &&
      match l.getLast? with
      | some e => e.data == (crc32c (itemBytes body)).setWidth 64
      | none => false

/-- The injector has taken a whole packet: its values wait for boundaries, or it is refused. -/
def checkPacket (s : State) (n : Fin 32) : State :=
  let q := s.sq[n]
  let l := q.inj
  let clear (s : State) := updQ s n fun q => { q with inj := [], injCrcs := [] }
  if l.any QItem.crcBad then clear (send s 0x4C (queueSource q.cfg) (queueDetail s n))
  else if packetOk q.cfg l then
    let h := (l.head?.map (·.data)).getD 0
    updQ s n fun q => { q with
      inj := [], injCrcs := [], injCh := field64 h 6 0
      values := List.zip (((l.drop 1).dropLast).map (·.data)) (q.injCrcs.drop 1)
      injDirect := h.getLsbD 16, spSeq := hiHalf h }
  else clear (updQ (send s 0x4D (queueSource q.cfg) (queueDetail s n)) n fun q => { q with spErr := true })

/-- Payload of a QITEMS frame (R302). -/
def qitemsPayload (l : List QItem) : List Byte :=
  let b := itemBytes l ++ l.map (·.tag)
  b ++ List.replicate ((8 - b.length % 8) % 8) 0

/-- The ring agent has taken a whole packet: it leaves in one frame (R322). -/
def sendPacket (s : State) (n : Fin 32) : State :=
  let q := s.sq[n]
  let l := q.inj
  let s := updQ s n fun q => { q with inj := [], injCrcs := [] }
  if onRing s && l.length ≤ 448 then
    sendNew s 0x21 (field q.dest 9 0) (field q.dest 20 16 + l.length * 2 ^ 16) (qitemsPayload l)
  else s

/-- A consumer inside the module has taken a whole packet (R265). -/
def endPacket (s : State) (n : Fin 32) : State :=
  let q := s.sq[n]
  let s := if q.inj.any QItem.crcBad then send s 0x4C (queueSource q.cfg) (queueDetail s n) else s
  updQ s n fun q => { q with inj := [], injCrcs := [] }

/-- A consumer that gathers packets takes an item; an item outside a packet is dropped, and SOP starts
the packet anew. Each item's internal CRC is computed as it arrives (R264). -/
def gather (s : State) (n : Fin 32) (i : QItem) (done : State → Fin 32 → State) : State :=
  let q := s.sq[n]
  if !i.sop && q.inj.isEmpty then s
  else
    let s := updQ s n fun q => { q with
      inj := if i.sop then [i] else q.inj ++ [i]
      injCrcs := if i.sop then [itemCrc i.data] else q.injCrcs ++ [itemCrc i.data] }
    if i.eop then done s n else s

/-- The slot of an item: lane k carries data bit 16u + k in UI u, and in UI 4 tag bit k below 8 (R419). -/
def portSlot (i : QItem) : StreamSlot :=
  .data (Vector.ofFn fun u : Fin 5 => if u.val < 4 then i.data.extractLsb' (16 * u.val) 16 else i.tag.setWidth 16)

/-- A slot leaves on the stream port. -/
def sendSlot (s : State) (x : StreamSlot) : State := { s with out := { s.out with stream := x :: s.out.stream } }

/-- A consumer reads an item (R259): the item goes where the consumer takes it. -/
def queueRead (s : State) (n : Fin 32) : State :=
  let q := s.sq[n]
  let nextEop := match q.items with
    | i :: _ => i.eop
    | [] => false
  if qCons q.cfg = 9 && nextEop && !q.values.isEmpty then s
  else match takeItem s n with
    | (none, s) => s
    | (some i, s) =>
      match qCons q.cfg with
      | 0 | 1 => s
      | 7 => gather s n i sendPacket
      | 8 => sendSlot s (portSlot i)
      | 9 => gather s n i checkPacket
      | _ => gather s n i endPacket

/-- The injector applies one value at a boundary, as a write by the producer (R267); one whose internal check fails is
not applied, and the capture store reports it (R268). -/
def injectOne (s : State) (n : Fin 32) : State :=
  let q := s.sq[n]
  match q.values with
  | [] => s
  | (v, crc) :: l =>
    let c := chanOfNat q.injCh
    let s := updQ s n fun q => { q with values := l }
    if crc != itemCrc v then
      send { s with freshCount := s.freshCount + 1 } 0x13 0x400 (Config.setPointDetail s.freshCount)
    else if !q.injDirect then writeTarget s c v
    else ownedBy s c fun s =>
      let h := s.ch[c]
      if h.cfg.func = .mi || !targetOk h.cfg v then updPg s c fun p => { p with tgtRej := true }
      else if h.state = .running && !h.stopping && s.mod.mode != .hold then
        updCh s c fun h => { h with pg := jumpTo { h.pg with target := v, fresh := false } (b64ToRat v) }
      else updPg s c fun p => { p with target := v, fresh := p.fresh || !h.stopping }

/-- Every injector applies its next value. -/
def injectAll (s : State) : State := (List.finRange 32).foldl injectOne s

/-! ## Enabling (R255) -/

/-- Another queue names the stream port. -/
def streamPortTaken (s : State) (n : Fin 32) (w : Word) : Bool :=
  (qProd w == 8 || qCons w == 8) && (List.finRange 32).any fun m =>
    m != n && (qProd s.sq[m].cfg == 8 || qCons s.sq[m].cfg == 8)

/-- A SQn_CFG value names what the queue may have. -/
def queueCfgFits (s : State) (n : Fin 32) (w : Word) : Bool :=
  queueCfgOk w && !(qProd w == 8 && qCons w == 8) && !streamPortTaken s n w

/-- A sender on the stream port starts with 1,024 training slots (R419). -/
def startPort (s : State) (n : Fin 32) : State := if qCons s.sq[n].cfg = 8 then sendSlot s (.training 1024) else s

/-- A write of SQn_CTRL.EN; a closed receiver on the stream port is no longer aligned (R419). -/
def writeQueueEn (s : State) (n : Fin 32) (en : Bool) : State :=
  if !en then updQ s n fun q => { q with en := false, aligned := false }
  else if s.sq[n].en then s
  else
    let (ok, s) := admitQueue s n
    if ok then startPort s n else updQ s n fun q => { q with admitDenied := true }

end Sys2Proof.Machine
end

