-- ==== Sys2Proof/Machine/CalOps.lean ====
section
/-!
DEFINITION. Calibration runs: records and commits, deferral, takeover, hand-back, abort, repair and
release (R189 to R214).
-/

namespace Sys2Proof.Machine

/-! ## Records and commits (R201 to R204) -/

/-- The record a new one is built on: the active record, or an empty one with the factory trims. -/
def baseRec (p : Fin 144) (u : CalUnit) : Record :=
  (activeRec p u).getD { Record.factory with trims := u.factory }

/-- The trims of the record in force, or the factory trims (R203). -/
def recordTrims (p : Fin 144) (u : CalUnit) : Trims := ((activeRec p u).map (·.trims)).getD u.factory

/-- A commit goes to slot A: slot B is in force, or slot A holds no record that is. -/
def intoA (p : Fin 144) (u : CalUnit) : Bool := activeIsB p u.slotA u.slotB || (slotRec p u.slotA).isNone

/-- Put a slot's contents where the commit goes. -/
def putSlot (toA : Bool) (x : Slot) (u : CalUnit) : CalUnit :=
  if toA then { u with slotA := some x } else { u with slotB := some x }

/-- SEQ of a commit: the active slot's plus 1 (R202). -/
def nextSeq (p : Fin 144) (u : CalUnit) (r : Record) : Record :=
  { r with seq := ((baseRec p u).seq + 1) % 4294967296 }

/-- Steps 1 and 2 of a commit to the inactive slot (R202). -/
def writeBody (p : Fin 144) (u : CalUnit) (r : Record) : CalUnit :=
  putSlot (intoA p u) (Slot.torn p (nextSeq p u r)) u

/-- Step 3 of a commit: CHECK makes the slot whole, and newer (R202). -/
def writeCheck (p : Fin 144) (u : CalUnit) (r : Record) : CalUnit :=
  putSlot (intoA p u) (Slot.seal p (nextSeq p u r)) u

/-- The readouts show the active record, 0 without one (R203, R214). -/
def showRec (p : Fin 144) (u : CalUnit) : CalUnit :=
  match activeRec p u with
  | some r => { u with count := r.count, time := r.time, temp := r.temp }
  | none => { u with count := 0, time := 0, temp := 0 }

/-- BOOT step 8 applies the record in force, or the factory trims (R203). -/
def applyRec (p : Fin 144) (u : CalUnit) : CalUnit := { showRec p u with trims := recordTrims p u }

/-- The record in force is the one a run has committed; SEQ counts commits and is no part of the run's record. -/
def committed (p : Fin 144) (u : CalUnit) (r : Option Record) : Bool :=
  match r, activeRec p u with
  | some r, some x => { x with seq := r.seq } == r
  | _, _ => false

/-- An abort restores the trims of the record in force before the run; a record the run has already committed is
taken back by spoiling its slot (R200, R207; A31). -/
def restoreUnit (p : Fin 144) (r : Option Record) (u : CalUnit) : CalUnit :=
  if committed p u r then
    let u := if activeIsB p u.slotA u.slotB then { u with slotB := (slotRec p u.slotB).map (Slot.torn p) }
      else { u with slotA := (slotRec p u.slotA).map (Slot.torn p) }
    applyRec p u
  else { u with trims := recordTrims p u }

/-- The record that a further commit of a unit is built on: the last one that waits, or the one in force. -/
def latestRec (s : State) (c : Fin 16) (i : Fin 9) : Record :=
  match (s.comb[c].commits.filter fun x => x.1 == i).getLast? with
  | some x => x.2
  | none => baseRec (unitAt c i) s.unit[unitAt c i]

/-- A commit begins: the body is written and the record waits for CAL_COMMIT_DONE (R202). -/
def beginCommit (s : State) (c : Fin 16) (i : Fin 9) (r : Record) : State :=
  let p := unitAt c i
  updComb (updUnit s p fun u => writeBody p u r) c fun k => { k with commits := k.commits ++ [(i, r)] }

/-- A run's commit is in progress. -/
def committing (k : Comb) (r : CalRun) : Bool :=
  match r.newRec with
  | some x => k.commits.contains (r.unit, x)
  | none => false

/-- A commit that an abort overtakes is dropped: its slot stays torn (R203, R207). -/
def dropCommit (s : State) (c : Fin 16) (r : CalRun) : State :=
  match r.newRec with
  | some x => updComb s c fun k => { k with commits := k.commits.erase (r.unit, x) }
  | none => s

/-! ## Units of a comb -/

/-- The SOURCE and DETAIL of a message of physical unit p. -/
def unitNotice (s : State) (p : Fin 144) (kind d : Nat) : State :=
  send s kind ((Account.engine p).source s) (p.val * 2 ^ 32 + d)

/-- A state kind is present at a source (R195). -/
def anyPresent (s : State) (source : Nat) : Bool :=
  (List.range 29).any fun k => isPresent s k source

/-- The idle spare is withheld by its own fault (R277). -/
def spareOut (s : State) (c : Fin 16) : Bool :=
  s.comb[c].spareKinds.any fun k => if h : k < 29 then s.flt.outLvl[k] != 0 else false

/-- The unit owes a run. -/
def runDue (u : CalUnit) : Bool := u.dueTemp || u.dueAge || u.dueReq || u.dueInit || !u.dueTerm.isEmpty

/-- The triggers that hold now (R189, R208). -/
def dueTriggers (u : CalUnit) : Triggers :=
  { temp := u.dueTemp, age := u.dueAge, req := u.dueReq, init := u.dueInit, term := u.dueTerm.length }

/-- How many of the triggers `d` are not among `n`. -/
def Triggers.fresh (d n : Triggers) : Nat :=
  (if d.temp && !n.temp then 1 else 0) + (if d.age && !n.age then 1 else 0) + (if d.req && !n.req then 1 else 0)
    + (if d.init && !n.init then 1 else 0) + (d.term - n.term)

/-- The triggers of both. -/
def Triggers.both (d n : Triggers) : Triggers :=
  { temp := d.temp && n.temp, age := d.age && n.age, req := d.req && n.req, init := d.init && n.init
    term := Nat.min d.term n.term }

/-- A trigger that no longer holds is forgotten: should it hold again, it is another trigger (R195). -/
def forgetGone (u : CalUnit) : CalUnit := { u with noticed := (dueTriggers u).both u.noticed }

/-- The slot a unit index is assigned to. -/
def slotOfIx (s : State) (c : Fin 16) (u : Fin 9) : Option (Fin 8) := slotOfUnit s (unitAt c u)

/-- The channel of a unit index. -/
def chanOfIx (s : State) (c : Fin 16) (u : Fin 9) : Option (Fin 128) := (slotOfIx s c u).map (chanAt c)

/-- CMB_SPARE.CAL_NO_SPARE: the spare is assigned by repair, or withheld (R213, R277). -/
def noSpare (s : State) (c : Fin 16) : Bool := s.comb[c].calNoSpare || spareOut s c

/-! ## Deferral (R195, R213) -/

/-- The first boundary at or after tick t, b being one and T the frame. -/
def boundaryAtOrAfter (b T t : Nat) : Nat := if t ≤ b then b else b + (t - b + T - 1) / T * T

/-- The step that follows the present one, none after the last step of the last repeat. -/
def nextStep (s : State) (c : Fin 128) : Option SweepStep :=
  let h := s.ch[c]
  let rep := field h.sw.repeats 15 0
  if h.sw.pos + 1 < field h.cfg.swLen 20 0 then some (decodeStep (stepBytes s c (h.sw.pos + 1)))
  else if rep = 65535 || h.sw.passes < rep then some (decodeStep (stepBytes s c 0))
  else none

/-- The window of a step whose MDELAY counts from `start` opens from b on and within the next 8,000 ticks. -/
def opensSoon (p : SweepStep) (b start : Nat) : Bool :=
  p.maper != 0 && b ≤ start + p.mdelay && start + p.mdelay < b + 8000

/-- The window of a step that waits, or will wait, for a trigger can open within the next 8,000 ticks. -/
def trigSoon (p : SweepStep) : Bool := p.maper != 0 && p.mdelay < 7600

/-- The window of a step that starts at tick `start`, or that of its successor. -/
def stepsSoon (p : SweepStep) (next : Option SweepStep) (b T start : Nat) : Bool :=
  opensSoon p b start ||
    match next with
    | some q => if q.triggered then trigSoon q else opensSoon q b (boundaryAtOrAfter b T (start + p.hold))
    | none => false

/-- The earliest boundary at which a step that waits without an event can start, after boundary b. -/
def earliestStart (w : Sweep) (b T : Nat) : Nat :=
  if w.firstStep && w.startAt != 0 then Nat.max (b + T) (boundaryAtOrAfter b T w.startAt.toNat) else b + T

/-- A measure window of a list is open at boundary b, or can open within the next 8,000 ticks (R195). -/
def windowSoon (s : State) (c : Fin 128) (b : Nat) : Bool :=
  let w := s.ch[c].sw
  let T := s.tb.act
  let next := nextStep s c
  let waits (p : SweepStep) : Bool :=
    (p.triggered && w.trigAt.isNone && trigSoon p) ||
      stepsSoon p next b T (match w.trigAt with
        | some t => Nat.max (b + T) (boundaryAtOrAfter b T (t + 400))
        | none => earliestStart w b T)
  let plays (p : SweepStep) (start : Nat) : Bool :=
    stepsSoon (if w.windowDone then { p with maper := 0 } else p) next b T start
  w.windowOpen ||
    match w.state, w.step with
    | .armed, _ =>
      let p := decodeStep (stepBytes s c (field w.first 19 0))
      if p.triggered then trigSoon p
      else opensSoon p b (Nat.max (b + 2 * T) (boundaryAtOrAfter b T w.startAt.toNat))
    | .waiting, some p => waits p
    | .playing, some p => plays p (w.base.getD (b + T))
    | .paused, some p =>
      if w.started then plays p (match w.base with | some t => t + (b + T - s.mod.holdFrom) | none => b + T)
      else waits p
    | _, _ => false

/-- A takeover of a channel is deferred at boundary b (R195). -/
def takeoverDeferred (s : State) (c : Fin 128) (b : Nat) : Bool :=
  let h := s.ch[c]
  h.inComp || h.range.seq.isSome || h.range.pendV.isSome || h.range.pendI.isSome ||
    h.state == .safed || h.state == .starting || anyPresent s (unitSource c) || windowSoon s c b

/-- A frame is idle (R205). -/
def idleFrame (s : State) (c : Fin 128) (b : Nat) : Bool :=
  let h := s.ch[c]
  !h.pg.moving && !(h.sw.state == .waiting || h.sw.state == .playing) && !takeoverDeferred s c b

/-- Boundary b starts a step with MDELAY of at least 8,000 ticks (R205). -/
def stepStartAt (s : State) (c : Fin 128) (b : Nat) : Bool :=
  let w := s.ch[c].sw
  w.state == .playing && w.started && w.stepAt == b &&
    match w.step with
    | some p => decide (8000 ≤ p.mdelay)
    | none => false

/-- CAL_WAIT in ticks (R190). -/
def calWaitTicks (s : State) : Nat := ceilNat (b64ToRat s.cal.wait * 800000000)

/-- Boundary b is the hand-back boundary of a prepared unit (R205). -/
def handbackAt (s : State) (c : Fin 128) (since b : Nat) : Bool :=
  stepStartAt s c b || idleFrame s c b || since + calWaitTicks s ≤ b

/-! ## Runs -/

/-- Set CAL_DEFERRED, with one notice for each trigger that holds and has had none (R195). -/
def deferUnit (s : State) (p : Fin 144) : State :=
  let due := dueTriggers s.unit[p]
  let s := (List.range (due.fresh s.unit[p].noticed)).foldl (fun s _ => unitNotice s p 0x42 0) s
  updUnit s p fun u => { u with deferred := true, noticed := due }

/-- A channel may have a terminal run (R208). -/
def termReady (h : Channel) : Bool := h.state == .stopped && h.cfg.func != .off && !usesBooster h.cfg

/-- A TERM_OPEN or TERM_SHORT that waits for its comb is refused once its channel no longer meets the conditions of
R208 (A31). -/
def rejectTerms (s : State) (c : Fin 16) : State :=
  (List.finRange 9).foldl (fun s i =>
    let p := unitAt c i
    if !s.unit[p].dueTerm.isEmpty && !((chanOfIx s c i).any fun n => termReady s.ch[n]) then
      updUnit s p fun u => forgetGone { u with dueTerm := [], cmdRej := true }
    else s) s

/-- How a unit would be calibrated now: at the terminal, in place, under a takeover, or deferred (none). -/
def runKindFor (s : State) (c : Fin 16) (u : Fin 9) (b : Nat) : Option RunKind :=
  let p := unitAt c u
  let free := !anyPresent s ((Account.engine p).source s)
  match chanOfIx s c u with
  | none => if free then some .inPlace else none
  | some n =>
    let h := s.ch[n]
    if !s.unit[p].dueTerm.isEmpty && termReady h then (if free then s.unit[p].dueTerm.head? else none)
    else if !h.switchOn && h.state != .safed && h.state != .starting then (if free then some .inPlace else none)
    else if s.comb[c].assigned != 15 || spareOut s c || takeoverDeferred s n b then none
    else some .takeover

/-- A run at the terminal (R208). -/
def RunKind.terminal (k : RunKind) : Bool := k == .termOpen || k == .termShort

/-- Start the run of a unit at boundary b (R196, R208). -/
def startRun (s : State) (c : Fin 16) (u : Fin 9) (kind : RunKind) (b : Nat) : State :=
  let p := unitAt c u
  let phase : RunPhase := if kind = .takeover then .taking else .measuring
  let s := updComb s c fun k => { k with run := some {
    unit := u, chan := chanOfIx s c u, kind := kind, phase := phase, newRec := none
    requested := s.unit[p].dueReq && !kind.terminal
    since := b, aborting := false } }
  let s := updUnit s p fun x => { x with
    running := true, deferred := false
    noticed := { x.noticed with term := x.noticed.term - (if kind.terminal then 1 else 0) }
    dueTerm := if kind.terminal then x.dueTerm.tail else x.dueTerm }
  if kind.terminal then
    match chanOfIx s c u with
    | some n => updCh s n closeSwitch
    | none => s
  else s

/-- The units of a comb in the order of R192: the spare, then 0 to 7. -/
def runOrder : List (Fin 9) := 8 :: (List.finRange 8).map Fin.castSucc

/-- Every unit whose due run may not start at boundary b is deferred, whether the comb is free or not (R195, R213). -/
def deferDue (s : State) (c : Fin 16) (b : Nat) : State :=
  runOrder.foldl (fun s u =>
    let x := s.unit[unitAt c u]
    if runDue x && !x.running && (runKindFor s c u b).isNone then deferUnit s (unitAt c u) else s) s

/-- Start the first unit that may run (R192). -/
def startFirst (s : State) (c : Fin 16) (b : Nat) : List (Fin 9) → State
  | [] => s
  | u :: l =>
    if runDue s.unit[unitAt c u] then
      match runKindFor s c u b with
      | some k => startRun s c u k b
      | none => startFirst s c b l
    else startFirst s c b l

/-- The crossbar is back at the normal unit, and the comb is free; MON is not compared in the first frames after a
takeover (R134). -/
def freeComb (s : State) (c : Fin 16) (r : CalRun) : State :=
  let served := r.kind == .takeover && s.comb[c].serve != 15
  let s := updComb s c fun k => { k with run := none, serve := 15, parallel := false }
  let s := updUnit s (unitAt c r.unit) fun u => { u with running := false, spareOn := false }
  match r.chan with
  | some n => if served then updMs s n fun m => { m with monSkip := monLag s.ch[n].cfg } else s
  | none => s

/-- A run has ended: the comb is free and the trigger it served is gone; a terminal run serves no other
trigger, and returns its channel to the initial state (R189, R192, R208). -/
def finishRun (s : State) (c : Fin 16) (r : CalRun) : State :=
  let s := freeComb s c r
  let s := updUnit s (unitAt c r.unit) fun u => forgetGone { u with
    deferred := false
    dueTemp := u.dueTemp && r.kind.terminal, dueAge := u.dueAge && r.kind.terminal
    dueReq := u.dueReq && r.kind.terminal, dueInit := u.dueInit && r.kind.terminal }
  match r.chan with
  | some n =>
    let estop := s.pins.estopLow
    if r.kind.terminal then updCh s n fun h => if h.state = .stopped then initialCh estop h else h else s
  | none => s

/-- The run is dropped without serving its trigger (R207). -/
def dropRun (s : State) (c : Fin 16) (r : CalRun) : State := freeComb s c r

/-- A run ends with its hand-back: an aborted one serves no trigger. -/
def endRun (s : State) (c : Fin 16) (r : CalRun) : State := if r.aborting then dropRun s c r else finishRun s c r

/-- Abort the run of a comb: ABORTED, CAUSE, a notice, and the trims of the record in force. A channel that the spare
serves is handed back from the next boundary on, or at once where both paths are open (R207, R212). -/
def abortRun (s : State) (c : Fin 16) (cause : CalCause) (atOnce : Bool) : State :=
  match s.comb[c].run with
  | none => s
  | some r =>
    if r.aborting then (if atOnce then dropRun s c r else s)
    else
      let p := unitAt c r.unit
      let s := dropCommit (unitNotice s p 0x44 cause.code) c r
      let s := updUnit s p fun u => { restoreUnit p r.newRec u with aborted := true, cause := cause }
      if r.kind = .takeover && s.comb[c].serve != 15 && !atOnce then
        updComb s c fun k => { k with run := some { r with aborting := true, newRec := none } }
      else dropRun s c r

/-- Abort the run that measures one unit index. -/
def abortUnitRun (s : State) (c : Fin 16) (u : Fin 9) (cause : CalCause) : State :=
  match s.comb[c].run with
  | some r => if r.unit = u then abortRun s c cause false else s
  | none => s

/-- A run is rejected: the trims before it stay in force (R200). -/
def rejectRun (s : State) (p : Fin 144) (cause : CalCause) : State :=
  let s := unitNotice s p 0x43 cause.code
  updUnit s p fun u => { u with
    reject := true, cause := cause, rejRun := Nat.min (u.rejRun + 1) 15
    quietUntil := s.tb.now + 8000000000, suspended := u.suspended || 3 ≤ u.rejRun + 1 }

/-- A run is accepted: rejections are forgotten, a requested run lifts a suspension, its trims stay and its record is
committed (R198, R200, R202). -/
def acceptRun (s : State) (c : Fin 16) (r : CalRun) (x : Record) : State :=
  let s := updUnit s (unitAt c r.unit) fun u => { u with
    rejRun := 0, suspended := u.suspended && !r.requested, trims := x.trims }
  beginCommit (updComb s c fun k => { k with
    run := some { r with phase := .committing, newRec := some x, since := s.tb.now } }) c r.unit x

/-- CAL_TOL as the largest disagreement (R199). -/
def calTol (s : State) : Rat := b64ToRat s.cal.tol

/-! ## Repair (R212, R213) -/

/-- The record a repair gives the spare: its own with the terminal fields of the failed unit's (R212). -/
def repairRec (s : State) (c : Fin 16) (i : Fin 8) : Record :=
  let old := latestRec s c s.comb[c].map[i]
  { latestRec s c 8 with
    openOk := old.openOk, shortOk := old.shortOk, ios := old.ios, g := old.g, rs := old.rs, vos := old.vos }

/-- The spare takes part in a run, its own or a takeover (R212). -/
def spareInRun : Option CalRun → Bool
  | some r => r.kind == .takeover || r.unit == 8
  | none => false

/-- A repair is in progress: no run of the comb starts. -/
def repairing (k : Comb) : Bool := k.repairPend.isSome || k.repairCommit.isSome || k.mapPend.isSome

/-- Steps 1 and 2 of a repair, outside a parallel interval: the spare's run is aborted, and once the spare is free its
record takes the failed unit's terminal fields by a commit (R212, R395). -/
def tryRepair (s : State) (c : Fin 16) : State :=
  match s.comb[c].repairPend with
  | none => s
  | some i =>
    if s.comb[c].parallel then s
    else
      let s := if spareInRun s.comb[c].run then abortRun s c .repair false else s
      if spareInRun s.comb[c].run then s
      else beginCommit (updComb s c fun k => { k with repairPend := none, repairCommit := some i }) c 8
        (repairRec s c i)

/-- Steps 3 and 4 of a repair: the map names the spare, and its channel shows the spare's record (R212, R213). -/
def takeMap (s : State) (c : Fin 16) (i : Fin 8) : State :=
  let s := updComb s c fun k => { k with
    map := k.map.set i 8, assigned := i.val, calNoSpare := true, mapPend := none }
  send s 0x46 (combSource c) 0

/-- A released channel returns to its normal unit (R213, R395). -/
def takeRelease (s : State) (c : Fin 16) : State :=
  updComb s c fun k => { k with
    map := Vector.ofFn fun i => i.castSucc, assigned := 15, calNoSpare := false, releasePend := false }

/-! ## The boundary's part (R192, R196, R205 to R207, R212, R213) -/

/-- The hand-back at boundary b: at h the engine state goes over; from h + 1 the paths are in parallel and an accepted
record shows, or, behind an open switch, only the crossbar changes (R206, R207). -/
def handBoundary (s : State) (c : Fin 16) (r : CalRun) (b : Nat) : State :=
  let closed := r.chan.any fun n => s.ch[n].switchOn
  if r.phase != .handing then
    if r.aborting && !closed then dropRun s c r
    else updComb s c fun k => { k with parallel := false, run := some { r with phase := .handing, since := b } }
  else if b ≤ r.since || s.comb[c].parallel then s
  else
    let p := unitAt c r.unit
    let s := if r.newRec.isSome then updUnit s p fun u => showRec p u else s
    if closed then updComb s c fun k => { k with parallel := true } else endRun s c r

/-- A takeover or a prepared unit moves on at boundary b. -/
def advanceRun (s : State) (c : Fin 16) (r : CalRun) (b : Nat) : State :=
  match r.kind, r.phase with
  | .takeover, .taking =>
    match r.chan, slotOfIx s c r.unit with
    | some n, some i =>
      if s.comb[c].serve = 15 then
        updComb s c fun k => { k with serve := i.val, parallel := s.ch[n].switchOn
                                      run := some { r with since := b } }
      else if r.since + 3200 ≤ b then
        let s := updComb s c fun k => { k with parallel := false
                                               run := some { r with phase := .measuring, since := b } }
        updUnit s (unitAt c r.unit) fun u => { u with spareOn := true }
      else s
    | _, _ => s
  | .takeover, .prepared =>
    match r.chan with
    | some n => if handbackAt s n r.since b then handBoundary s c r b else s
    | none => s
  | .takeover, .handing => handBoundary s c r b
  | _, _ => s

/-- The run of a comb at a boundary (R196, R205 to R207). -/
def runBoundary (s : State) (c : Fin 16) (b : Nat) : State :=
  match s.comb[c].run with
  | some r => if r.aborting then handBoundary s c r b else advanceRun s c r b
  | none => s

/-- A change of a comb's map that is due takes effect: a repair's, then a release (R212, R213). -/
def mapBoundary (s : State) (c : Fin 16) : State :=
  let s := match s.comb[c].mapPend with
    | some i => takeMap s c i
    | none => s
  if s.comb[c].releasePend then takeRelease s c else s

/-- The calibration work of a comb at boundary b. -/
def calBoundary (s : State) (b : Nat) (c : Fin 16) : State :=
  let s := rejectTerms (tryRepair (mapBoundary (runBoundary s c b) c) c) c
  let s := if s.mod.mode.operating then deferDue s c b else s
  if s.comb[c].run.isNone && !repairing s.comb[c] && s.mod.mode.operating && s.mod.refSettled then
    startFirst s c b runOrder
  else s

end Sys2Proof.Machine
end

