-- ==== Sys2Proof/Machine/Reaction.lean ====
section
/-!
DEFINITION. Fault reactions: the safe state of a channel (R97 to R100), what a safe state discards
(R188, R289), the scopes of the levels (R276), LOCKDOWN (R60) and the level-6 broadcast (R278).
-/

namespace Sys2Proof.Machine

/-! ## One channel -/

/-- The output a reaction leaves: HIZ where the switch is open, ESTOP_N is low or the function has no
other safe state, else the state CH_SAFE selects (R72, R97, R101). A channel whose switch a terminal run has closed is no
channel with an open switch (A60). -/
def safeOut (estop : Bool) (now : Nat) (T : Rat) (h : Channel) : Channel :=
  if !h.switchOn || estop || h.cfg.func = .mv || h.cfg.func = .off then hizCh h
  else match safeCode h.cfg with
    | 1 => { h with out := .zero }
    | 2 => { h with out := .holdV h.ms.sense }
    | 3 => beginRamp now T h
    | _ => hizCh h

/-- OVERCURRENT, OVERVOLTAGE and RANGE_SWITCH of the unit end a ramp (R100). -/
def endsRamp (kind : Nat) : Bool := kind == 1 || kind == 2 || kind == 9

/-- What a reaction drops in a channel, whatever its state (R86, R188, R289). -/
def dropWork (h : Channel) : Channel :=
  let h := clearCounts (abortSequence h)
  { h with
    range := dropRanges h.range, sw := discardList h.sw
    startRej := h.startRej || h.startReq, startReq := false
    eng := { h.eng with bankSel := h.eng.bankAct }
    pg := { h.pg with target := h.cfg.pgInit, fresh := false, after := none } }

/-- The state a reaction leaves a channel in: SAFED with its safe state, a SAFED channel keeping its
output, a deglitcher hold in its ramp included, unless `kind` of its own unit ends its ramp (R97, R100); once the ramp
has ended, the 0 A hold stays (A60). A STOP of the same frame is consumed, whichever came
first (R68; see `stopSafedCh`). -/
def safedCh (estop : Bool) (frame now : Nat) (T : Rat) (kind : Nat) (h : Channel) : Channel :=
  let h := { h with reactFrame := some frame, stopReq := if h.stopReq = some frame then none else h.stopReq }
  if h.state = .safed then
    let h := dropWork h
    if h.out = .ramp && endsRamp kind then hizCh h else h
  else
    let h := safeOut estop now T (dropWork h)
    let h := if h.out = .ramp then h else calmDac { h with pg := restProfile h.pg }
    { h with state := .safed, stopping := false }

/-- A reaction reaches a logical channel; `kind` is the fault's kind where its own unit sent it, else
0 (R276). -/
def reactCh (s : State) (c : Fin 128) (kind : Nat) (cause : CalCause) : State :=
  let s := cutWindow s c
  let s := abortUnitRun s (combOf c) s.comb[combOf c].map[slotOf c] cause
  let s := endTests s c
  let estop := s.pins.estopLow
  let now := s.tb.now
  let T := frameSec s
  let frame := s.tb.last
  updCh s c (safedCh estop frame now T kind)

/-! ## Scopes -/

/-- A queue is bound to a channel, comb or region that a predicate on channels covers whole. -/
def boundIn (cov : Fin 128 → Bool) (w : Word) : Bool :=
  match qScope w with
  | 0 => cov (chanOfNat (qSidx w))
  | 1 => (List.finRange 128).all fun c => (combOf c).val != qSidx w || cov c
  | 2 => (List.finRange 128).all fun c => (regionOf c).val != qSidx w || cov c
  | _ => false

/-- A DMA engine drops its descriptors but the one in progress (R289, R333). -/
def discardDma (d : Dma) : Dma := if d.en then { d with head := d.tail, discarded := true } else d

/-- The queue an engine serves is bound inside a scope. -/
def dmaBound (s : State) (cov : Fin 128 → Bool) (d : Dma) : Bool :=
  match d.queue with
  | some q => boundIn cov s.sq[q].cfg
  | none => false

/-- The queues bound inside a scope discard their contents, and the engines that serve them their
descriptors (R263, R289). -/
def discardQueues (s : State) (cov : Fin 128 → Bool) : State :=
  updWm { s with
    sq := s.sq.map fun q => if boundIn cov q.cfg then discardQueue q else q
    dma := s.dma.map fun d => if dmaBound s cov d then discardDma d else d }

/-- A timer turned off (R188). -/
def timerOff (t : Timer) : Timer := { t with cfg := t.cfg &&& 0xFFFFFFFC }

/-- The timers of some regions are turned off (R188). -/
def timersOff (s : State) (r : Fin 4 → Bool) : State :=
  let t := s.seq.timer
  let t' := Vector.ofFn fun i : Fin 64 => if r ⟨i.val / 16, by omega⟩ then timerOff t[i] else t[i]
  updSeq s fun q => { q with timer := t' }

/-- A reaction on every channel a predicate covers, their combs' runs and bound queues included. -/
def reactChans (s : State) (cov : Fin 128 → Bool) (own : Fin 128 → Nat) (cause : CalCause) : State :=
  let s := forCh s fun s c => if cov c then reactCh s c (own c) cause else s
  discardQueues s cov

/-- The runs of some combs are aborted, those of their spares too. -/
def abortRuns (s : State) (k : Fin 16 → Bool) (cause : CalCause) (atOnce : Bool) : State :=
  forComb s fun s c => if k c then abortRun s c cause atOnce else s

/-- The comb a unit or comb SOURCE names (R270). -/
def sourceComb (source : Nat) : Fin 16 :=
  if h : source < 256 then ⟨source / 16, by omega⟩ else ⟨(source - 256) % 16, Nat.mod_lt _ (by decide)⟩

/-- The region a unit, comb or region SOURCE names. -/
def sourceRegion (source : Nat) : Fin 4 :=
  if source < 512 then ⟨(sourceComb source).val / 4, by omega⟩
  else ⟨(source - 512) / 16 % 4, Nat.mod_lt _ (by decide)⟩

/-- The logical channel of a unit SOURCE, none for an idle spare or another source. -/
def sourceChan (source : Nat) : Option (Fin 128) :=
  if source < 256 && source % 16 < 8 then some (chanOfNat (source / 16 * 8 + source % 16)) else none

/-- The starting level of a SOURCE (R270). -/
def startLevel (source : Nat) : Nat :=
  if source < 256 then 1 else if source < 512 then 2 else if source < 768 then 3
  else if source < 1024 then 4 else if source < 2048 then 5 else 6

/-- The channels in the scope of a level around a SOURCE (R276). -/
def inScopeOf (level source : Nat) (c : Fin 128) : Bool :=
  match level with
  | 1 => sourceChan source == some c
  | 2 => combOf c == sourceComb source
  | 3 => regionOf c == sourceRegion source
  | 4 =>
    if 768 ≤ source then source == 770 || (dieOf c).val == source - 768
    else (dieOf c).val == (sourceRegion source).val / 2
  | _ => true

/-- The combs whose runs end with the scope of a level around a SOURCE. -/
def combInScope (level source : Nat) (k : Fin 16) : Bool :=
  if level = 1 then false else inScopeOf level source (chanAt k 0)

/-! ## LOCKDOWN (R60, R289) -/

/-- A remote access in progress ends with DISCARDED (R289, R318). -/
def discardRa (r : RaSet) : RaSet := if r.busy then { r with busy := false, status := 3 } else r

/-- Mode commands accepted and not completed are dropped; CMD_REJ says so (R289). -/
def dropModeReqs (m : Mod) : Mod :=
  { m with
    cmdRej := m.cmdRej || m.readyReq || m.runReq || m.holdReq || m.safeReq || m.safePend
    readyReq := false, readyAuto := false, readyAdmitted := false, runReq := false
    holdReq := false, safeReq := false, safePend := false, autoStart := false }

/-- A STOP that a SAFED channel still owes is dropped: in LOCKDOWN and OPEN every channel stays SAFED (R38). -/
def dropStops (s : State) : State := mapCh s fun _ h => { h with stopReq := none }

/-- The work in flight of the whole module is discarded (R246, R289). The streams close with it, so that a result cut
by this reaction reaches none of them (A60). -/
def discardModule (s : State) (own : Fin 128 → Nat) (cause : CalCause) : State :=
  let s := dropStops (reactChans s (fun _ => true) own cause)
  let s := abortRuns s (fun _ => true) cause false
  let s := endStreams s
  let s := timersOff s (fun _ => true)
  let s := updWm { s with sq := s.sq.map discardQueue }
  let s := { s with dma := s.dma.map discardDma, jx := { s.jx with ra := s.jx.ra.map discardRa } }
  updMod s dropModeReqs

/-- Enter LOCKDOWN (R39, R60); in LOCKDOWN, and in OPEN, which has no such transition, the reaction is taken in the mode
that stands (R277). -/
def lockdown (s : State) (own : Fin 128 → Nat) : State :=
  match s.mod.mode with
  | .bypass => s
  | .lockdown | .opened => discardModule s own .lockdown
  | m =>
    let s := discardModule s own .lockdown
    setMode (updMod s fun x => { x with lifeLock := x.lifeLock + 1, fromBoot := m == .boot }) .lockdown

/-! ## Levels (R276) -/

/-- The kind that counts for a channel's own unit (R100). -/
def ownKind (kind source : Nat) (c : Fin 128) : Nat := if sourceChan source = some c then kind else 0

/-- The idle spare of a comb was withheld before the tick in process: its kinds stand, that of the present fault as
it stood then (R277). -/
def wasOut (s : State) (c : Fin 16) (kind : Nat) : Bool :=
  s.comb[c].spareKinds.any fun k => if h : k < 29 then (if k = kind then s.flt.snap[k] else s.flt.outLvl[k]) != 0 else false

/-- A fault of an idle spare is kept for SPARE_OUT, and its own run ends. The comb has no spare for takeovers from then
on: CAL_NO_SPARE shows it, and a notice is recorded (R213, R277). -/
def spareFault (s : State) (kind source : Nat) : State :=
  if source < 256 && source % 16 == 8 then
    let c := sourceComb source
    let told := wasOut s c kind || s.comb[c].calNoSpare
    let s := abortUnitRun (updComb s c fun k => { k with
      spareKinds := if k.spareKinds.contains kind then k.spareKinds else kind :: k.spareKinds }) c 8 .fault
    if told then s else send s 0x46 (combSource c) 0
  else s

/-- Word 0 of a history entry (R269, R284). -/
def entryWord0 (m : Msg) (level : Nat) : Nat :=
  m.detail % 2 ^ 40 + level * 2 ^ 40 + m.source % 2 ^ 12 * 2 ^ 44 + m.kind % 2 ^ 8 * 2 ^ 56

/-- Broadcast a level-6 fault on the ring (R278, R320). -/
def sendFault6 (s : State) (m : Msg) (tick : Nat) : State :=
  if onRing s && m.source < 2048 then
    let f := newFrame s 0x11 1023 0 (toBytes 8 (entryWord0 m 6) ++ toBytes 8 tick)
    updJx (sendFrame s f) fun j => { j with seqNo := (j.seqNo + 1) % 2 ^ 32, sent6 := j.sent6 ++ [f] }
  else s

/-- WAGGLE stops for a level at or above FLT_WAGGLE.LEVEL (R291). -/
def waggleLevel (s : State) (level : Nat) : State :=
  if s.flt.wagLevel ≤ level && (s.flt.stopCause = 0 || s.flt.stopCause = 4) then stopWaggle s 1 else s

/-- React on the scope of a level around a message's source (R276). -/
def react (s : State) (m : Msg) (level tick : Nat) : State :=
  let s := waggleLevel (spareFault s m.kind m.source) level
  let own := ownKind m.kind m.source
  if 5 ≤ level then
    let s := if level = 6 then sendFault6 s m tick else s
    lockdown s own
  else match s.mod.mode with
    | .bypass | .boot => s
    | _ =>
      let s := reactChans s (inScopeOf level m.source) own .fault
      let s := abortRuns s (combInScope level m.source) .fault false
      if 3 ≤ level then timersOff s (fun r => inScopeOf level m.source (regionChan r 0)) else s

end Sys2Proof.Machine
end

