-- ==== Sys2Proof/Machine/Collect.lean ====
section
/-!
DEFINITION. The fault collector: escalation tick by tick (R279), status (R280 to R282), the history and
the first fault (R284 to R288), acknowledgement and clearing (R280, R364).
-/

namespace Sys2Proof.Machine

/-- A fault kind's onset (R269). -/
def isOnset (k : Nat) : Bool := 1 ≤ k && k ≤ 28
/-- The end of a fault kind (R269). -/
def isEnd (k : Nat) : Bool := 0x81 ≤ k && k ≤ 0x9C
/-- A notice (R269). -/
def isNotice (k : Nat) : Bool := 0x41 ≤ k && k ≤ 0x4F

/-- The event kinds of R273. -/
def isEvent (k : Nat) : Bool :=
  [0x04, 0x05, 0x09, 0x0B, 0x0C, 0x11, 0x12, 0x13, 0x14, 0x16, 0x17, 0x19, 0x1A, 0x1B, 0x1C].contains k

/-- OUTLVL of a kind. -/
def outLevel (f : Collector) (k : Nat) : Nat := if h : k < 29 then f.outLvl[k] else 0
/-- OUTLVL of a kind as it stood before the tick in process. -/
def snapLevel (f : Collector) (k : Nat) : Nat := if h : k < 29 then f.snap[k] else 0
/-- Set OUTLVL of a kind. -/
def setOutLevel (f : Collector) (k l : Nat) : Collector :=
  if h : k < 29 then { f with outLvl := f.outLvl.set k l } else f

/-- CUR of a kind: a source has sent its onset and no end (R282). -/
def curOf (f : Collector) (k : Nat) : Bool := f.present.any fun p => p.1 == k

/-- The resulting level of an onset (R279). -/
def resultLevel (f : Collector) (m : Msg) : Nat :=
  let start := startLevel m.source
  let snap := snapLevel f m.kind
  if 2048 ≤ m.source then 6
  else if snap = 0 then start
  else Nat.max start (Nat.min (snap + 1) 6)

/-- An onset as an entry. -/
def faultEntry (f : Collector) (m : Msg) : Entry :=
  let l := resultLevel f m
  { msg := m, level := l, esc := startLevel m.source < l, notice := false }

/-- A notice as an entry. -/
def noticeEntry (m : Msg) : Entry := { msg := m, level := 0, esc := false, notice := true }

/-- The order of R288: faults first, the higher level first, then SOURCE, KIND and DETAIL ascending. -/
def entryBefore (a b : Entry) : Bool :=
  if a.notice != b.notice then b.notice
  else if a.level != b.level then b.level < a.level
  else if a.msg.source != b.msg.source then a.msg.source < b.msg.source
  else if a.msg.kind != b.msg.kind then a.msg.kind < b.msg.kind
  else a.msg.detail < b.msg.detail

/-- Insert an entry in order. -/
def insertEntry (e : Entry) : List Entry → List Entry
  | [] => [e]
  | x :: l => if entryBefore e x then e :: x :: l else x :: insertEntry e l

/-- Entries in the order of R288. -/
def sortEntries (l : List Entry) : List Entry := l.foldr insertEntry []

/-! ## History (R284 to R287) -/

/-- The 128 bits of an entry. -/
def entryBits (tick : Nat) (simul : Bool) (e : Entry) : BitVec 128 :=
  BitVec.ofNat 64 (tick % 2 ^ 60 + (if e.esc then 2 ^ 60 else 0) + if simul then 2 ^ 63 else 0) ++
    BitVec.ofNat 64 (entryWord0 e.msg e.level)

/-- Record one entry; a fault fills an empty FLT_FIRST. -/
def recordOne (h : History) (v : BitVec 128) (fault : Bool) : History :=
  { cnt := (h.cnt + 1) % 2 ^ 32
    slots := h.slots.set (h.cnt % 32) v (Nat.mod_lt _ (by decide))
    first := if fault && !h.firstValid then v else h.first
    firstValid := h.firstValid || fault }

/-- Record the entries of one tick in order; every one after the first carries SIMUL. -/
def recordAll (tick : Nat) (simul : Bool) : History → List Entry → History
  | h, [] => h
  | h, e :: l => recordAll tick true (recordOne h (entryBits tick simul e) (!e.notice)) l

/-- The history as the entries of the tick in process leave it. -/
def reRecord (f : Collector) : Collector := { f with hist := recordAll f.tick false f.base f.entries }

/-- Add entries to the tick in process. -/
def addEntries (f : Collector) (es : List Entry) : Collector :=
  reRecord { f with entries := sortEntries (f.entries ++ es) }

/-- A new tick: the snapshot is taken (R279). -/
def newTick (f : Collector) (t : Nat) : Collector :=
  { f with tick := t, snap := f.outLvl, tickKinds := [], tickAcks := [], entries := []
           ackRejBase := f.ackRej, base := f.hist }

/-- Go on in the tick in process, or begin another. -/
def beginTick (f : Collector) (t : Nat) : Collector := if f.tick = t then f else newTick f t

/-- An access reaches the collector: while the timebase does not run, each access is an instant of its own (A60). -/
def accessTick (s : State) : State :=
  let t := s.tb.now
  if s.tb.running then updFlt s fun f => beginTick f t else updFlt s fun f => newTick f t

/-! ## A tick (R279) -/

/-- Acknowledge one kind (R280). -/
def ackKind (f : Collector) (k : Nat) : Collector :=
  if outLevel f k = 0 then f
  else if curOf f k || f.tickKinds.contains k then { f with ackRej := true }
  else setOutLevel f k 0

/-- The acknowledgements of the tick in process, applied to its onsets and ends whatever their order of arrival
(R279, R280). -/
def ackTick (f : Collector) : Collector := f.tickAcks.foldl ackKind { f with ackRej := f.ackRejBase }

/-- CUR, LATCH, OUT and OUTLVL of an onset. -/
def noteOnset (f : Collector) (e : Entry) : Collector :=
  let k := e.msg.kind
  let f := setOutLevel f k (Nat.max (outLevel f k) e.level)
  { f with
    present := if isEvent k || f.present.contains (k, e.msg.source) then f.present
      else f.present ++ [(k, e.msg.source)]
    latch := f.latch ||| BitVec.ofNat 32 (2 ^ k)
    tickKinds := if f.tickKinds.contains k then f.tickKinds else k :: f.tickKinds }

/-- Take one onset and react on its scope. -/
def takeOnset (s : State) (e : Entry) : State :=
  sendMsix (react (updFlt s fun f => noteOnset f e) e.msg e.level s.flt.tick) 8

/-- An end message: the source no longer holds the kind (R272). -/
def takeEnd (f : Collector) (m : Msg) : Collector :=
  { f with present := f.present.filter fun p => !(p.1 == m.kind - 0x80 && p.2 == m.source) }

/-- A kind whose OUT bit has cleared no longer withholds a spare (R277). -/
def pruneSpares (s : State) : State :=
  { s with comb := s.comb.map fun k => { k with spareKinds := k.spareKinds.filter fun x => outLevel s.flt x != 0 } }

/-- The tick's acknowledgements, if it has any, free what they clear. -/
def pruneAcked (s : State) : State := if s.flt.tickAcks.isEmpty then s else pruneSpares s

/-- Process the messages of one tick: onsets, ends, then its acknowledgements. -/
def collectTick (s : State) (t : Nat) (ms : List Msg) : State :=
  let s := updFlt s fun f => beginTick f t
  let es := sortEntries ((ms.filter fun m => isOnset m.kind).map (faultEntry s.flt))
  let s := es.foldl takeOnset s
  let s := pruneAcked (updFlt s fun f => ackTick ((ms.filter fun m => isEnd m.kind).foldl takeEnd f))
  let ns := (ms.filter fun m => isNotice m.kind).map noticeEntry
  updFlt s fun f => addEntries f (es ++ ns)

/-- Group stamped messages by tick, in order. -/
def groupTicks : List Stamped → List (Nat × List Msg)
  | [] => []
  | m :: l =>
    match groupTicks l with
    | (t, ms) :: g => if t = m.tick then (t, m.msg :: ms) :: g else (m.tick, [m.msg]) :: (t, ms) :: g
    | [] => [(m.tick, [m.msg])]

/-- Process every message that waits at the inputs. -/
def drain (s : State) : State :=
  (groupTicks s.flt.inbox).foldl (fun s g => collectTick s g.1 g.2)
    (updFlt s fun f => { f with inbox := [] })

/-- The collector works: once over the waiting messages, once over those its reactions sent; a stalled
collector does nothing (R294). -/
def collect (s : State) : State :=
  if s.mod.collStall then s
  else drain (drain (if s.tb.running || s.flt.inbox.isEmpty then s else accessTick s))

/-- Present messages of one tick and let the collector take them. -/
def present (s : State) (ms : List Msg) : State :=
  collect (ms.foldl (fun s m => send s m.kind m.source m.detail) s)

/-! ## Acknowledgement (R280) and clearing (R285, R286, R364) -/

/-- The kinds a FLT_ACK names. -/
def ackNames (v : Word) : List Nat :=
  if bit v 31 then (List.range 28).map (· + 1)
  else if isOnset (field v 7 0) then [field v 7 0] else []

/-- A kind is acknowledged in the tick in process. -/
def addAck (f : Collector) (k : Nat) : Collector :=
  { f with tickAcks := if f.tickAcks.contains k then f.tickAcks else k :: f.tickAcks }

/-- FLT_ACK; an undefined KIND is refused (R280, R425). -/
def ackFaults (s : State) (v : Word) : State :=
  if s.mod.collStall then s
  else
    let s := collect s
    if (ackNames v).isEmpty then updFlt s fun f => { f with setRej := true }
    else pruneSpares (updFlt (accessTick s) fun f => ackTick ((ackNames v).foldl addAck f))

/-- HIST_CLR: the entries of the same tick stay (R285, R364). -/
def clearHist (s : State) : State :=
  if s.mod.collStall then s
  else
    updFlt (accessTick (collect s)) fun f =>
      reRecord { f with base := { f.base with cnt := 0, slots := Vector.replicate 32 0 } }

/-- FIRST_CLR (R286, R364). -/
def clearFirst (s : State) : State :=
  if s.mod.collStall then s
  else
    updFlt (accessTick (collect s)) fun f =>
      reRecord { f with base := { f.base with first := 0, firstValid := false } }

/-- FLT_LATCH is cleared where written as 1 unless the kind is present (R282). -/
def clearLatch (f : Collector) (v : Word) : Collector :=
  let keep := (List.range 29).foldl (fun m k => if curOf f k then m + 2 ^ k else m) 0
  { f with latch := f.latch &&& (~~~v ||| BitVec.ofNat 32 keep) }

/-- A write of FLT_WAGGLE.LEVEL (R291). -/
def writeWaggle (s : State) (v : Word) : State :=
  let l := field v 2 0
  if s.mod.collStall then s
  else if l < 1 || 5 < l then updFlt s fun f => { f with setRej := true }
  else
    let s := updFlt s fun f => { f with wagLevel := l }
    if (List.range 29).any (fun k => l ≤ outLevel s.flt k) && s.flt.stopCause = 0 then stopWaggle s 1 else s

/-! ## Faults the module raises and the collector takes at once -/

/-- A BOOT step fails: BOOT_ERR and one fault of the loader at level 5 (R53). -/
def bootFail (s : State) (err kind detail : Nat) : State :=
  present (updBoot s fun b => { b with err := err }) [⟨kind, 0x407, detail⟩]

end Sys2Proof.Machine
end

