-- ==== Sys2Proof/Machine/Boundary.lean ====
section
/-!
DEFINITION. The frame boundary: the period change (R232), mode requests (R42), HOLD (R57, R59), READY
(R55), the work of every channel in one frame (R138), the budget (R149), and the supervision of combs
(R94, R104).
-/

namespace Sys2Proof.Machine

/-! ## The period (R231, R232) -/

/-- The first multiple of n at or after t. -/
def multipleFrom (n t : Nat) : Nat := (t + n - 1) / n * n

/-- The tick at which the high-resolution aperture in progress ends: a multiple of its length, after the last one taken;
a count that TIME has stepped back starts afresh. After a change of HR_RATE the next multiple of the new length ends an
aperture of that length (A54). -/
def hrEnd (now : Nat) (h : Channel) : Nat :=
  let L := hrTicks (hrRate h.cfg)
  multipleFrom L (Nat.max now (if h.ms.hrTs + L ≤ now then h.ms.hrTs + 2 * L else L))

/-- A range sequence that stands at boundary b marks what it overlaps: the high-resolution aperture in progress, or the
next one where that ends at b or before, and the measure window (R120, R121). -/
def markRanging (b : Nat) (h : Channel) : Channel :=
  if h.range.seq.isNone then h
  else
    let inside := h.sw.windowOpen &&
      match h.sw.step, h.sw.base with
      | some p, some t => b < (t + p.mdelay + 10 * p.maper) / 10 * 10
      | _, _ => false
    let now := decide (b < hrEnd b h)
    { h with ms := { h.ms with hrRanging := h.ms.hrRanging || now, hrNext := h.ms.hrNext || !now }
             sw := { h.sw with windowRanging := h.sw.windowRanging || inside } }

/-- The boundary is reached: the counters stand at it or beyond. -/
def reachBoundary (s : State) (b : Nat) : State :=
  updTb s fun t => { t with now := Nat.max t.now b, last := b }

/-- At boundary N the new period takes effect. -/
def takePeriod (s : State) : State :=
  refreshRates (updTb s fun t => { t with act := t.frame, len := t.frame, changeAt := none })

/-- At boundary B the ledger decides a requested period. -/
def decidePeriod (s : State) (b : Nat) : State :=
  if !s.tb.reqPend || s.tb.changeAt.isSome || !(s.tb.at_ == 0 || s.tb.at_.toNat ≤ b) then s
  else
    let n := s.tb.frame
    let (ok, s) := admitFrame s n
    let s := updTb s fun t => { t with reqPend := false }
    if ok then
      let N := multipleFrom n (b + 800)
      updTb s fun t => { t with changeAt := some N, len := N - b }
    else updTb s fun t => { t with admitDenied := true }

/-- T of the frame just begun in s (R138, R232). -/
def frameLen (s : State) : Rat := (s.tb.len : Rat) * tickSec

/-! ## HOLD (R57, R59) -/

/-- A profile in motion decelerates to rest for HOLD; a STOP goes on (R57, R58). -/
def holdProfile (T : Rat) (h : Channel) : Channel :=
  if h.state = .running && !h.stopping && hasLoop h.cfg then
    { h with pg := planStop h.cfg T h.pg none }
  else h

/-- A list that advances is paused. -/
def pauseList (w : Sweep) : Sweep :=
  if w.state = .waiting || w.state = .playing then { w with state := .paused } else w

/-- A paused list goes on, its later ticks moved by the length L of HOLD. -/
def resumeList (L : Nat) (w : Sweep) : Sweep :=
  if w.state = .paused then
    { w with state := if w.started then .playing else .waiting
             waitFrom := if w.started then w.waitFrom else w.waitFrom + L
             base := w.base.map (· + L), outs := w.outs.map fun o => (o.1 + L, o.2) }
  else w

/-- Enter HOLD at boundary b; the profiles in motion are stopped once they have reached it (see `boundaryStart`). -/
def enterHold (s : State) (b : Nat) : State :=
  let s := setMode (updMod s fun m => { m with holdFrom := b }) .hold
  mapCh (forCh s cutWindow) fun _ h => { h with sw := pauseList h.sw }

/-- Return to RUN at boundary b: lists go on, pulses end once the rest of their width has passed, and the stored
targets are taken; the path of a STOP goes on (R57, R66). -/
def leaveHold (s : State) (b : Nat) : State :=
  let L := b - s.mod.holdFrom
  let s := setMode s .run
  let s := updSeq s fun q => { q with trig := q.trig.map fun p => { p with pulses := p.pulses.map (· + L) } }
  mapCh s fun _ h => { h with sw := resumeList L h.sw, pg := { h.pg with fresh := h.pg.fresh || !h.stopping } }

/-! ## READY (R55) -/

/-- The image loaded, if any. -/
def imageStartSet (s : State) : List (Fin 128) := (s.boot.image.map (·.startSet)).getD []
/-- The lists the image arms. -/
def imageArmed (s : State) : List (Fin 128) := (s.boot.image.map (·.armed)).getD []
/-- The streams the image opens. -/
def imageOpens (s : State) : List (Fin 2048) :=
  (s.boot.image.map fun i => (i.streams.filter (·.opens)).map (·.stream)).getD []

/-- The reservations READY asks for (R55). -/
def readyReservations (s : State) : State :=
  let s := (imageStartSet s).foldl (fun s c =>
    updCh s c fun h => { h with reserved := true, startSet := true }) s
  let s := (imageArmed s).foldl (fun s c => updSw s c fun w => { w with reserved := true }) s
  (imageOpens s).foldl (fun s n =>
    updStream s n fun x => { x with rate := streamRate s x.cfg x.age }) s

/-- The ledger decides READY: every initial run is owed from then on; a refusal is a notice and ends the
automatic path (R55, R189). -/
def decideReady (s : State) : State :=
  if !(s.mod.readyReq && !s.mod.readyAdmitted && s.mod.mode == .safe) then s
  else
    let (ok, s) := decideReq s (readyReservations s) accounts true
    if ok then
      { updMod s (fun m => { m with readyAdmitted := true }) with
        unit := s.unit.map fun u => { u with dueInit := true } }
    else send (updMod s fun m => { m with readyReq := false, readyAuto := false, admitDenied := true })
      0x41 0x407 0

/-! ## Mode requests (R42, R43) -/

/-- SAFE is taken: STOP is given to every channel. -/
def takeSafe (s : State) : State :=
  let s := updMod s fun m => { m with
    safeReq := false, safePend := true, cmdRej := m.cmdRej || m.holdReq || m.runReq
    holdReq := false, runReq := false, autoStart := false }
  forCh s stopCh

/-- While the transition to SAFE is pending a SAFED channel receives STOP in its turn (R43). -/
def stopSafed (s : State) : State :=
  if s.mod.safePend && s.mod.mode.operating then
    let frame := s.tb.last
    mapCh s fun _ h => if h.state = .safed then stopSafedCh frame h else h
  else s

/-- Evaluate the pending mode requests at boundary b (R42); in LOCKDOWN there are none (R289). -/
def modeRequests (s : State) (b : Nat) : State :=
  let m := s.mod
  if !m.mode.operating then s
  else if m.safeReq then takeSafe s
  else if m.holdReq then
    let s := updMod s fun m => { m with holdReq := false, runReq := false, cmdRej := m.cmdRej || m.runReq }
    if m.safePend then cmdRej s
    else if m.mode = .run then enterHold s b
    else if m.mode = .hold then s
    else cmdRej s
  else if m.runReq then
    let s := updMod s fun m => { m with runReq := false }
    if m.safePend then cmdRej s
    else if m.mode = .ready then setMode s .run
    else if m.mode = .hold then leaveHold s b
    else cmdRej s
  else decideReady s

/-- The automatic path gives START to the start set at the first boundary in RUN (R54). Where HOLD is taken at that
boundary, the STARTs wait for the return to RUN (A52). -/
def autoStart (s : State) : State :=
  if s.mod.autoStart && s.mod.mode == .run then
    (imageStartSet s).foldl startCh (updMod s fun m => { m with autoStart := false })
  else s

/-! ## Encoders (R157 to R160) -/

/-- SSI mode (R377). -/
def encSsi (e : Encoder) : Bool := bit e.cfg 0

/-- An encoder at boundary b: the count is latched, OFFSET and SCALE are taken, an encoder fault is
present for the frame, and an SSI transfer starts, whose word will be as old as its first clock edge (R159). -/
def encBoundary (b : Nat) (e : Encoder) : Encoder :=
  let starts := encSsi e && !e.transfer && e.pauseUntil ≤ b
  { e with
    offsetAct := e.offset, scaleAct := e.scale, latched := e.count
    cause := if e.illegal then 2 else if e.indexErr then 3 else 0
    illegal := false, indexErr := false
    age := if encSsi e then Nat.min (e.age + 1) 4294967295 else e.age
    transferAge := if starts then 0 else Nat.min (e.transferAge + 1) 4294967295
    transferAt := if starts then b else e.transferAt
    transfer := e.transfer || starts }

/-! ## One channel (R138) -/

/-- The set-point moves to boundary b: over a whole frame, or over a transition frame (R168, R232); that of a RAMP_ZERO
ramp too, which only stops (R98). -/
def moveProfile (s : State) (changed hold : Bool) (told dt : Nat) (h : Channel) : Channel :=
  if (h.state == .running && hasLoop h.cfg) || h.out == .ramp then
    if changed then
      let stops := h.out == .ramp || (hold && !h.stopping)
      { h with pg := transition h.cfg (told * tickSec) (dt * tickSec) (frameSec s) stops h.pg }
    else { h with pg := advance h.cfg (frameSec s) h.pg }
  else h

/-- A target that waits is taken (R169); in HOLD only that of a STOP (R57, R58). -/
def takeTarget (T : Rat) (hold : Bool) (h : Channel) : Channel :=
  if h.state = .running && hasLoop h.cfg && h.pg.fresh && (!hold || h.stopping) then
    let t := if h.stopping then b64ToRat h.cfg.pgInit else targetValue h.cfg h.pg
    { h with pg := { planTo h.cfg T h.pg t with fresh := false } }
  else h

/-- The live part of the boundary for one channel: list, target, bank, ranges. A range that a sweep step requests at its
start boundary is taken at that boundary (A51). -/
def channelBoundary (b : Nat) (s : State) (c : Fin 128) : State :=
  let s := if s.mod.mode = .run || s.ch[c].sw.disarmReq then listBoundary s c b else s
  let hold := s.mod.mode == .hold
  let T := frameSec s
  let s := updCh s c fun h => swapBank (takeTarget T hold h)
  rangeBoundary s c

/-- What the converters of a channel delivered (R117). -/
def readingOf (f : FrameInputs) (c : Fin 128) : Reading :=
  match f.readings.find? fun p => p.1 == c with
  | some p => p.2
  | none => ⟨0, 0, 0, 0, 0, 0, 0, false, false⟩

/-- One frame of a channel once every reading is in (R138). -/
def channelFrame (f : FrameInputs) (s : State) (c : Fin 128) : State :=
  let r := readingOf f c
  let T := frameLen s
  let rec_ := assignedRec s c
  let acts := clampActs r s.ch[c]
  let s := updCh s c (frontCounts r)
  let s := if s.ch[c].state = .running && hasLoop s.ch[c].cfg then
      updEng (engineFrame s c T s.pwr.factor[dieOf c]) c fun e => { e with frozen := false }
    else s
  let s := if s.ch[c].ms.clampCount = 0 then endUnit s c 0x03 else s
  let par := inParallel s c
  let n := s.freshCount
  let s := if s.ch[c].state = .safed && s.ch[c].out = .ramp then
      updCh { s with freshCount := n + 1 } c (rampFrame rec_ n (frameSec s) T)
    else s
  updCh s c fun h => superviseFrame rec_ par acts (autorangeFrame h)

/-! ## The budget (R34, R149) -/

/-- The dissipation of a channel's output stage: its internal driver's, with MEAS as corrected for the current
through FRCn (A38), or the given one of its booster's drive output. -/
def dissipation (rails : Vector Rat 7) (h : Channel) (frc drive : Rat) : Rat :=
  if !h.switchOn || h.cfg.func == .off || h.cfg.func == .mv then 0
  else if usesBooster h.cfg then drive
  else
    let i := h.ms.meas
    if 0 ≤ i then i * (rails[0] - frc) else -i * (frc - rails[1])

/-- P of a die. -/
def dieP (s : State) (f : FrameInputs) (d : Fin 2) : Rat :=
  (List.finRange 64).foldl (fun a i =>
    let c : Fin 128 := ⟨64 * d.val + i.val, by omega⟩
    a + dissipation f.rails s.ch[c] (readingOf f c).frc (Config.driveDissipation s.freshCount c.val)) 0

/-- The least budget factor. -/
def minFactor : Rat := 1 / 256

/-- The factor for the next frame (R149). -/
def nextFactor (f p budget : Rat) : Rat :=
  if budget < p then maxR (f * budget / p) minFactor
  else if p < 9 / 10 * budget then minR (f * (1 + 1 / 1024)) 1
  else f

/-- A THERMAL test of a die's source still holds (R272). -/
def dieHot (w : Power) (d : Fin 2) : Bool :=
  w.budgetHot[d] || (List.finRange 8).any fun i => w.hot[8 * d.val + i.val]

/-- The budget manager's frame of one die. -/
def budgetFrame (f : FrameInputs) (s : State) (d : Fin 2) : State :=
  let w := s.pwr
  let p := dieP s f d
  let budget := b64ToRat w.budgetAct[d]
  let f0 := w.factor[d]
  let frames := if budget < p && f0 == minFactor then Nat.min (w.overFrames[d] + 1) 1000 else 0
  let s := updPwr { s with freshCount := s.freshCount + 1 } fun w => { w with
    p := w.p.set d p, factor := w.factor.set d (nextFactor f0 p budget)
    overFrames := w.overFrames.set d frames
    budgetHot := if p ≤ budget then w.budgetHot.set d false else w.budgetHot }
  if w.budgetHot[d] && p ≤ budget && !dieHot s.pwr d then endState s 0x0E (0x300 + d.val) else s

/-! ## Combs (R94, R104) -/

/-- A unit of the comb has its switch closed or serves a channel in MV. -/
def cslWatched (s : State) (c : Fin 16) : Bool :=
  (combChans c).any fun n => s.ch[n].switchOn || s.ch[n].cfg.func == .mv

/-- The sense-low window of a comb; `live` says that the mode supervises it. -/
def cslFrame (f : FrameInputs) (live : Bool) (s : State) (c : Fin 16) : State :=
  let v := match f.csl.find? fun p => p.1 == c with
    | some p => p.2
    | none => 0
  let n := if live && cslWatched s c && decide (1 < absR v) then Nat.min (s.comb[c].cslCount + 1) 2 else 0
  let s := updComb s c fun k => { k with cslCount := n, cslDue := n == 2 }
  if n = 0 then endState s 0x02 (combSource c) else s

/-- The crossbar of a comb is verified (R104). -/
def crossbarFrame (f : FrameInputs) (s : State) (c : Fin 16) : State :=
  match f.crossbarBad.find? fun p => p.1 == c with
  | some p => raiseState s 0x0A (combSource c) p.2.val
  | none => endState s 0x0A (combSource c)

/-! ## The boundary -/

/-- Frames go on and all of BAR0 responds: from SAFE onwards, LOCKDOWN and OPEN with it (R48, R354). -/
def channelsLive (s : State) : Bool := s.mod.mode.operating || s.mod.mode == .lockdown || s.mod.mode == .opened

/-- What takes effect at boundary b before the frame's readings. The ledger decides STARTs, then ARMs, each in
ascending channel order, then streams (R225). A profile in motion moves to boundary b, and from there a HOLD entered at
b decelerates it (R57, R170). The STOP that the module gives a SAFED channel at b takes effect at b (R43; A60). -/
def boundaryStart (s : State) (b dt told : Nat) (changed : Bool) : State :=
  let auto := s.mod.autoStart && s.mod.mode == .run
  let held := s.mod.mode == .hold
  let s := modeRequests s b
  let s := if auto then autoStart s else s
  let s := updSeq s fun q => { q with enc := q.enc.map (encBoundary b) }
  let s := updPwr s fun w => { w with budgetAct := w.budget }
  let s := injectAll s
  let s := stopSafed s
  let s := forCh (forCh s takeSafedStop) takeStart
  let s := decideStreams (forCh s decideArm)
  let s := completeSafe s
  let hold := s.mod.mode == .hold
  let T := frameSec s
  let s := mapCh s fun _ h => moveProfile s changed held told dt h
  let s := if hold && !held then mapCh s fun _ h => holdProfile T h else s
  let s := updSeq (forCh s (channelBoundary b)) fun q => { q with missed := Vector.replicate 4 false }
  forComb s (fun s c => calBoundary s b c)

/-- The frame that begins at boundary b. -/
def boundaryFrame (s : State) (f : FrameInputs) (b : Nat) : State :=
  let s := updPwr s fun w => { w with rails := f.rails }
  let s := mapCh s fun c h => markRanging b (takeReading (assignedRec s c) (readingOf f c) h)
  let s := forCh s (channelFrame f)
  let s := (List.finRange 2).foldl (budgetFrame f) s
  let s := forComb s (fun s c => crossbarFrame f (cslFrame f true s c) c)
  captureFrame s f.raw b

/-- FRAME_BOUNDARY (R25). What still waits at the collector's inputs is taken first, within R234's bound. -/
def frameBoundary (s : State) (f : FrameInputs) : State :=
  if !s.tb.running then s
  else
    let s := collect s
    let b := nextBoundary s
    let dt := b - s.tb.last
    let told := s.tb.act
    let changed := s.tb.changeAt == some b
    let s := tryJoin (reachBoundary s b)
    let s := if changed then takePeriod s else s
    if channelsLive s then
      boundaryFrame (boundaryStart (decidePeriod s b) b dt told changed) f b
    else forComb s (cslFrame f false)

end Sys2Proof.Machine
end

