-- ==== Sys2Proof/Machine/ChanRegs.lean ====
section
/-!
DEFINITION. The registers of a unit block, of a spare's block and of a comb: CH_, LP_, the coefficient
banks, PG_, SW_, CH_CAL_ and CMB_ (R382 to R395), with the commands their writes carry.
-/

namespace Sys2Proof.Machine

/-- A bit field of a register value. -/
def fld (v lo : Nat) : Nat := v * 2 ^ lo
/-- A one-bit field. -/
def flag (b : Bool) (lo : Nat) : Nat := if b then 2 ^ lo else 0
/-- A register value from its number. -/
def wordOf (n : Nat) : Word := BitVec.ofNat 32 n

/-! ## Lists (R177, R392) -/

/-- A write of SW_CTRL. -/
def writeSwCtrl (s : State) (c : Fin 128) (v : Word) : State :=
  if bit v 0 && bit v 1 then updSw s c fun w => { w with armRej := true }
  else if bit v 0 then armList s c
  else if bit v 1 then updSw s c disarmList
  else s

/-! ## Coefficient banks (R151, R152, R389) -/

/-- The fields of a contender in the order of R389. -/
def Coef.get (k : Coef) : Nat → DWord
  | 0 => k.kp | 1 => k.ki | 2 => k.kd | 3 => k.tf | 4 => k.kvff | 5 => k.kaff | 6 => k.intLo
  | 7 => k.intHi | 8 => k.outLo | 9 => k.outHi | 10 => k.refConst | _ => 0

/-- Replace a field. -/
def Coef.put (k : Coef) (i : Nat) (v : DWord) : Coef :=
  match i with
  | 0 => { k with kp := v } | 1 => { k with ki := v } | 2 => { k with kd := v }
  | 3 => { k with tf := v } | 4 => { k with kvff := v } | 5 => { k with kaff := v }
  | 6 => { k with intLo := v } | 7 => { k with intHi := v } | 8 => { k with outLo := v }
  | 9 => { k with outHi := v } | 10 => { k with refConst := v } | _ => k

/-- An element of a vector by a number reduced to its size. -/
def vget {n : Nat} [NeZero n] (v : Vector DWord n) (i : Nat) : DWord :=
  v[i % n]'(Nat.mod_lt _ (Nat.pos_of_ne_zero (NeZero.ne n)))
/-- Replace that element. -/
def vput {n : Nat} [NeZero n] (v : Vector DWord n) (i : Nat) (x : DWord) : Vector DWord n :=
  v.set (i % n) x (Nat.mod_lt _ (Nat.pos_of_ne_zero (NeZero.ne n)))

/-- The value at an offset of a bank (R389). -/
def Bank.get (b : Bank) (o : Nat) : DWord :=
  if h : o / 0x100 < 4 then (b.ct[o / 0x100]).get (o % 0x100 / 8)
  else if o < 0x480 then vget b.ma ((o - 0x400) / 8)
  else if o < 0x4A0 then vget b.mb (o / 8)
  else if o < 0x4C0 then vget b.mc (o / 8)
  else if o < 0x4E0 then vget b.ml (o / 8)
  else if o < 0x500 then vget b.khold (o / 8)
  else match o with
    | 0x500 => b.dbias | 0x508 => b.resLim | 0x510 => b.resCnt | 0x518 => b.frzCnt
    | 0x520 => b.frzLsb | 0x528 => b.frzDrive | _ => 0

/-- Replace the value at an offset of a bank. -/
def Bank.put (b : Bank) (o : Nat) (v : DWord) : Bank :=
  if h : o / 0x100 < 4 then
    { b with ct := b.ct.set (o / 0x100) ((b.ct[o / 0x100]).put (o % 0x100 / 8) v) }
  else if o < 0x480 then { b with ma := vput b.ma ((o - 0x400) / 8) v }
  else if o < 0x4A0 then { b with mb := vput b.mb (o / 8) v }
  else if o < 0x4C0 then { b with mc := vput b.mc (o / 8) v }
  else if o < 0x4E0 then { b with ml := vput b.ml (o / 8) v }
  else if o < 0x500 then { b with khold := vput b.khold (o / 8) v }
  else match o with
    | 0x500 => { b with dbias := v } | 0x508 => { b with resLim := v }
    | 0x510 => { b with resCnt := v } | 0x518 => { b with frzCnt := v }
    | 0x520 => { b with frzLsb := v } | 0x528 => { b with frzDrive := v } | _ => b

/-- The per-field condition of R151 and R162 at an offset. -/
def fieldOk (cfg : ChCfg) (o : Nat) (v : DWord) : Bool :=
  if h : o / 0x100 < 4 then
    match o % 0x100 / 8 with
    | 3 => tfOk v
    | 4 | 5 => ffOk cfg ⟨o / 0x100, h⟩ v
    | 8 | 9 => outOk cfg v
    | _ => true
  else match o with
    | 0x508 => decide (0 < b64ToRat v)
    | 0x510 => countOk 1 1000 v
    | 0x518 => countOk 16 65535 v
    | 0x520 => countOk 0 255 v
    | 0x528 => countOk 1000 1000000 v
    | _ => true

/-- The values of a contender. -/
def Coef.map (k : Coef) (f : DWord → DWord) : Coef :=
  { kp := f k.kp, ki := f k.ki, kd := f k.kd, tf := f k.tf, kvff := f k.kvff, kaff := f k.kaff, intLo := f k.intLo
    intHi := f k.intHi, outLo := f k.outLo, outHi := f k.outHi, refConst := f k.refConst }

/-- Every value of a bank in its internal form (R152). -/
def roundBank (b : Bank) : Bank :=
  { ct := b.ct.map (·.map round48), ma := b.ma.map round48, mb := b.mb.map round48, mc := b.mc.map round48
    ml := b.ml.map round48, khold := b.khold.map round48, dbias := round48 b.dbias, resLim := round48 b.resLim
    resCnt := round48 b.resCnt, frzCnt := round48 b.frzCnt, frzLsb := round48 b.frzLsb
    frzDrive := round48 b.frzDrive }

/-- The channel may take a write of a bank: the inactive one always, the active one while STOPPED. -/
def bankWritable (h : Channel) (bankB : Bool) : Bool := bankB != h.eng.bankAct || h.state == .stopped

/-- A value a bank register may take (R152). -/
def coefOk (cfg : ChCfg) (o : Nat) (v : DWord) : Bool :=
  b64Valid v && fieldOk cfg o v && inBankSpan (round48 v)

/-- A write of a bank value (R152). -/
def writeCoef (h : Channel) (bankB : Bool) (o : Nat) (v : DWord) : Channel :=
  if !bankWritable h bankB then { h with eng := { h.eng with bankRej := true } }
  else if !coefOk h.cfg o v then { h with eng := { h.eng with coefRej := true } }
  else if bankB then { h with cfg := { h.cfg with bankB := h.cfg.bankB.put o (round48 v) } }
  else { h with cfg := { h.cfg with bankA := h.cfg.bankA.put o (round48 v) } }

/-- A write of LP_BANK.SEL (R153). -/
def writeSel (e : Engine) (sel : Bool) : Engine := { e with bankSel := sel }

/-! ## Structural writes (R69, R425) -/

/-- A structural write: only while STOPPED and with a value in range, else STRUCT_REJ. -/
def structWrite (ok : Bool) (f : ChCfg → ChCfg) (h : Channel) : Channel :=
  if h.state = .stopped && ok then { h with cfg := f h.cfg } else { h with structRej := true }

/-- A structural PG_ or LP_ write: an invalid value sets COEF_REJ (R167, R425). -/
def pgWrite (ok : Bool) (f : ChCfg → ChCfg) (h : Channel) : Channel :=
  if h.state != .stopped then { h with structRej := true }
  else if ok then { h with cfg := f h.cfg }
  else { h with eng := { h.eng with coefRej := true } }

/-- A list-idle write (R391). -/
def listIdleWrite (f : Sweep → Sweep) (h : Channel) : Channel :=
  if h.sw.state.isIdle then { h with sw := f h.sw } else { h with sw := { h.sw with setRej := true } }

/-- CH_FE fields are within their ranges. -/
def feOk (v : Word) : Bool :=
  1 ≤ field v 9 0 && field v 9 0 ≤ 1000 && 1 ≤ field v 22 16 && field v 22 16 ≤ 110 &&
    1 ≤ field v 29 24 && field v 29 24 ≤ 30
/-- CH_AR fields name codes of the range table (R87). -/
def arOk (cfg : ChCfg) (v : Word) : Bool :=
  cfg.iTable.contains (field v 11 8) && cfg.iTable.contains (field v 15 12)
/-- CH_SAFE fields are within their ranges. -/
def safeOk (v : Word) : Bool := 1 ≤ field v 23 8 && field v 23 8 ≤ 10000
/-- CH_SUPV fields are within their ranges (R135). -/
def supvOk (v : DWord) : Bool :=
  field64 v 1 0 ≤ 2 && 1 ≤ field64 v 15 6 && field64 v 15 6 ≤ 1000 && 1 ≤ field64 v 31 16 &&
    1000 ≤ field64 v 48 32 && field64 v 48 32 ≤ 100000
/-- LP_CTx_CFG fields are defined, the compliance references in their sets (R388). -/
def ctCfgOk (v : Word) : Bool :=
  field v 6 4 ≤ 4 && (field v 6 4 != 3 || !bit v 1) && (field v 6 4 != 4 || bit v 1)
/-- The module assigns the contender: A to C in FV, FI and MI (R142, R388). -/
def ctAssigned (cfg : ChCfg) (i : Nat) : Bool :=
  i < 3 && (cfg.func == .fv || cfg.func == .fi || cfg.func == .mi)
/-- PG_INIT is in range: as PG_TARGET, in FV within the initial voltage range (R167). -/
def pgInitOk (cfg : ChCfg) (v : DWord) : Bool :=
  targetOk cfg v && (cfg.func != .fv || decide (absR (b64ToRat v) ≤ vFull cfg.vInit))
/-- A profile limit is in range (R167). -/
def pgLimitOk (v : DWord) : Bool := b64Valid v && decide (0 < b64ToRat v)

/-- The function changes, and the module writes the contenders it assigns (R388); OFF opens the switch, and its
high-resolution values read 0, without a mark (R70, R116, R121). A connect-at-SAFE
channel keeps its initial state (A50). -/
def writeFunc (v : Nat) (h : Channel) : Channel :=
  match Func.ofCode? v with
  | some f =>
    let h' := structWrite true (fun k => assignCts { k with func := f }) h
    if h.state = .stopped && f == .off then
      hizCh { h' with ms := { h'.ms with hrSense := 0, hrMeas := 0, hrRanging := false, hrNext := false } }
    else h'
  | none => structWrite false id h

/-! ## 32-bit registers of a unit block -/

/-- CH_STATUS (R385). -/
def chStatus (h : Channel) : Nat :=
  h.state.code + flag h.stopping 2 + flag h.inComp 3 + flag h.range.seq.isSome 4 + flag h.dg.flag 5
    + fld h.range.vAct 8 + fld h.range.iAct 12 + flag h.startRej 16 + flag h.structRej 17
    + flag h.admitDenied 18 + flag h.compRej 19 + flag h.range.rangeRej 20

/-- CH_STATUS flags written as 1 clear. -/
def chStatusW1c (v : Word) (h : Channel) : Channel :=
  { h with
    startRej := h.startRej && !bit v 16, structRej := h.structRej && !bit v 17
    admitDenied := h.admitDenied && !bit v 18, compRej := h.compRej && !bit v 19
    range := { h.range with rangeRej := h.range.rangeRej && !bit v 20 } }

/-- CH_RANGE (R80). -/
def chRange (h : Channel) : Nat := h.range.vReq + fld h.range.iReq 4

/-- LP_STATUS (R387). -/
def lpStatus (e : Engine) : Nat :=
  shownWinner e.winner + flag e.demClip 3 + flag e.coefRej 8 + flag e.bankRej 9

/-- LP_CTx_STAT (R387). -/
def ctStat (k : Contender) : Nat := flag k.sat 0 + flag k.win 1 + flag k.track 2 + flag k.bump 3

/-- PG_STATUS (R390). -/
def pgStatus (p : Profile) : Nat := flag p.moving 0 + flag p.arrived 1 + flag p.tgtRej 2

/-- SW_STATUS (R392). -/
def swStatus (w : Sweep) : Nat :=
  w.state.code + fld w.cause.code 4 + flag w.armRej 8 + flag w.ownRej 9 + flag w.admitDenied 10
    + flag w.setRej 11

/-- CH_CAL_STAT (R214). -/
def calStat (p : Fin 144) (u : CalUnit) : Nat :=
  let r := activeRec p u
  flag u.running 0 + flag u.spareOn 1 + flag u.deferred 2 + flag u.reject 3 + flag u.precondFail 4
    + flag u.aborted 5 + flag u.cmdRej 6 + flag ((r.map (·.openOk)).getD false) 8
    + flag ((r.map (·.shortOk)).getD false) 9 + fld u.rejRun 12 + fld u.cause.code 16

/-- A contender number from a block offset. -/
def ctOf (o : Nat) : Fin 4 := ⟨(o - 0x1100) / 0x40 % 4, Nat.mod_lt _ (by decide)⟩

/-- A 32-bit register of a unit block; RC effects are the reader's. -/
def chRead (s : State) (c : Fin 128) (o : Nat) : Nat :=
  let h := s.ch[c]
  let u := s.unit[assignedUnit s c]
  if 0x1100 ≤ o && o < 0x1200 then
    match (o - 0x1100) % 0x40 with
    | 0 => (ctCfg h.cfg (ctOf o)).toNat
    | 4 => (ctFb h.cfg (ctOf o)).toNat
    | 8 => ctStat h.eng.ct[ctOf o]
    | _ => 0
  else match o with
    | 0x004 => chStatus h
    | 0x008 => h.cfg.func.code
    | 0x00C => chRange h
    | 0x020 => h.cfg.fe.toNat
    | 0x024 => h.cfg.ar.toNat
    | 0x028 => h.cfg.safe.toNat
    | 0x038 => h.cfg.dac.toNat
    | 0x03C => h.cfg.dec.toNat
    | 0x048 => flag h.ms.compSeen 0
    | 0x04C => h.ms.compFrames
    | 0x1000 => h.cfg.lpCfg.toNat
    | 0x1004 => flag h.eng.bankSel 0 + flag h.eng.bankAct 4
    | 0x1008 => lpStatus h.eng
    | 0x4038 => h.cfg.pgCfg.toNat
    | 0x403C => pgStatus h.pg
    | 0x5008 => h.cfg.swLen.toNat
    | 0x500C => h.sw.first.toNat
    | 0x5010 => h.sw.repeats.toNat
    | 0x5024 => swStatus h.sw
    | 0x5028 => h.sw.pos
    | 0x502C => h.sw.iter
    | 0x6004 => calStat (assignedUnit s c) u
    | 0x6008 => u.count
    | _ => 0

/-- What a read of a unit block's register clears (RC). -/
def chReadClear (o : Nat) (h : Channel) : Channel :=
  if o = 0x04C then { h with ms := { h.ms with compFrames := 0 } } else h

/-- The 64-bit registers of a unit block by LO offset (R384 to R393). -/
def ch64 (s : State) (c : Fin 128) (o : Nat) : Option DWord :=
  let h := s.ch[c]
  let u := s.unit[assignedUnit s c]
  if 0x1100 ≤ o && o < 0x1200 then
    match (o - 0x1100) % 0x40 with
    | 0x10 => some (readout h.eng.ct[ctOf o].u)
    | 0x18 => some (readout h.eng.ct[ctOf o].iterm)
    | _ => none
  else if 0x2000 ≤ o && o < 0x4000 then
    if bankOffsetOk (o % 0x1000) then some ((bankOf h.cfg (0x3000 ≤ o)).get (o % 0x1000)) else none
  else match o with
    | 0x010 => some h.compHi
    | 0x018 => some h.compLo
    | 0x030 => some h.cfg.holdComp
    | 0x040 => some h.cfg.supv
    | 0x080 => some (readout h.ms.sense)
    | 0x088 => some (readout h.ms.meas)
    | 0x090 => some (readout h.ms.mon)
    | 0x098 => some (readout h.ms.hrSense)
    | 0x0A0 => some (readout h.ms.hrMeas)
    | 0x0A8 => some (BitVec.ofNat 64 h.ms.hrTs)
    | 0x1010 => some (readout h.eng.demand)
    | 0x1018 => some (readout h.eng.yhat)
    | 0x4000 => some h.pg.target
    | 0x4008 => some h.cfg.pgInit
    | 0x4010 => some h.cfg.pgVmax
    | 0x4018 => some h.cfg.pgAmax
    | 0x4020 => some h.cfg.pgJmax
    | 0x4028 => some h.cfg.pgLimLo
    | 0x4030 => some h.cfg.pgLimHi
    | 0x4040 => some (readout h.pg.pos)
    | 0x4048 => some (readout h.pg.vel)
    | 0x4050 => some (readout h.pg.acc)
    | 0x5000 => some h.cfg.swBase
    | 0x5018 => some h.sw.startAt
    | 0x6010 => some (BitVec.ofNat 64 u.time)
    | 0x6018 => some u.temp
    | _ => none

/-- A commit of a 64-bit register of a unit block. -/
def ch64Write (s : State) (c : Fin 128) (o : Nat) (v : DWord) : State :=
  if 0x2000 ≤ o && o < 0x4000 then updCh s c fun h => writeCoef h (0x3000 ≤ o) (o % 0x1000) v
  else match o with
    | 0x010 => writeComp s c true v
    | 0x018 => writeComp s c false v
    | 0x030 => updCh s c (structWrite (b64Valid v) fun k => { k with holdComp := v })
    | 0x040 => updCh s c (structWrite (supvOk v) fun k => { k with supv := v &&& 0x1FFFFFFFFFFFF })
    | 0x4000 => writeTarget s c v
    | 0x4008 => updCh s c fun h => pgWrite (pgInitOk h.cfg v) (fun k => { k with pgInit := v }) h
    | 0x4010 => updCh s c (pgWrite (pgLimitOk v) fun k => { k with pgVmax := v })
    | 0x4018 => updCh s c (pgWrite (pgLimitOk v) fun k => { k with pgAmax := v })
    | 0x4020 => updCh s c (pgWrite (pgLimitOk v) fun k => { k with pgJmax := v })
    | 0x4028 => updCh s c fun h =>
        pgWrite (b64Valid v && decide (b64ToRat v < b64ToRat h.cfg.pgLimHi)) (fun k => { k with pgLimLo := v }) h
    | 0x4030 => updCh s c fun h =>
        pgWrite (b64Valid v && decide (b64ToRat h.cfg.pgLimLo < b64ToRat v)) (fun k => { k with pgLimHi := v }) h
    | 0x5000 => updCh s c (structWrite true fun k => { k with swBase := v })
    | 0x5018 => updCh s c (listIdleWrite fun w => { w with startAt := v })
    | _ => s

/-! ## CH_CAL_ commands (R189, R208, R210, R383, R393) -/

/-- INTERNAL: a run is requested unless one is pending or runs (R393). -/
def calInternal (u : CalUnit) : CalUnit := if u.running || runDue u then u else { u with dueReq := true }

/-- The conditions of a terminal command (R208, R393). -/
def termOk (s : State) (c : Fin 128) : Bool :=
  s.mod.mode.operating && termReady s.ch[c] && !s.unit[assignedUnit s c].running

/-- TERM_OPEN or TERM_SHORT: each accepted command starts a run of its own, in the order of arrival (R208, A31). -/
def calTerm (s : State) (c : Fin 128) (k : RunKind) : State :=
  let p := assignedUnit s c
  if termOk s c then updUnit s p fun u => { u with dueTerm := u.dueTerm ++ [k] }
  else updUnit s p fun u => { u with cmdRej := true }

/-- TERM_CLEAR: both FLAGS bits clear by a commit (R210). -/
def calTermClear (s : State) (c : Fin 128) : State :=
  let i := s.comb[combOf c].map[slotOf c]
  if termOk s c then
    beginCommit s (combOf c) i { latestRec s (combOf c) i with openOk := false, shortOk := false }
  else updUnit s (assignedUnit s c) fun u => { u with cmdRej := true }

/-- A write of CH_CAL_CMD in a unit block. -/
def writeCalCmd (s : State) (c : Fin 128) (v : Word) : State :=
  match field v 2 0 with
  | 1 => updUnit s (assignedUnit s c) calInternal
  | 2 => calTerm s c .termOpen
  | 3 => calTerm s c .termShort
  | 4 => calTermClear s c
  | _ => updUnit s (assignedUnit s c) fun u => { u with cmdRej := true }

/-- A write of CH_CAL_CMD in a spare's block (R383). -/
def writeSpareCmd (s : State) (c : Fin 16) (v : Word) : State :=
  updUnit s (unitAt c 8) fun u => if field v 2 0 = 1 then calInternal u else { u with cmdRej := true }

/-- CH_CAL_STAT flags written as 1 clear. -/
def calStatW1c (v : Word) (u : CalUnit) : CalUnit :=
  { u with
    reject := u.reject && !bit v 3, precondFail := u.precondFail && !bit v 4
    aborted := u.aborted && !bit v 5, cmdRej := u.cmdRej && !bit v 6 }

/-- A 32-bit register of the CH_CAL_ group of a unit. -/
def spareRead (p : Fin 144) (u : CalUnit) (o : Nat) : Nat :=
  match o with
  | 0x6004 => calStat p u
  | 0x6008 => u.count
  | _ => 0

/-- A 64-bit register of the CH_CAL_ group of a unit. -/
def spare64 (u : CalUnit) (o : Nat) : Option DWord :=
  match o with
  | 0x6010 => some (BitVec.ofNat 64 u.time)
  | 0x6018 => some u.temp
  | _ => none

/-- CH_CTRL (R384). -/
def writeChCtrl (s : State) (c : Fin 128) (v : Word) : State :=
  if bit v 1 then
    let s := stopCommand s c
    if bit v 0 then updCh s c fun h => { h with startRej := true } else s
  else if bit v 0 then startCh s c
  else s

/-- A write of a contender's register, by its offset in the contender's group: of one the module assigns STRUCT_REJ, of
an undefined REF COEF_REJ (R388, R425). -/
def ctWrite (s : State) (c : Fin 128) (i : Fin 4) (v : Word) : Nat → State
  | 0 => updCh s c fun h =>
      if ctAssigned h.cfg i.val then { h with structRej := true }
      else pgWrite (ctCfgOk v) (fun k => { k with ctCfg := k.ctCfg.set i (v &&& 0x73) }) h
  | 4 => updCh s c fun h =>
      structWrite (field v 2 0 ≤ 3 && !ctAssigned h.cfg i.val)
        (fun k => { k with ctFb := k.ctFb.set i (v &&& 0x11F7) }) h
  | 8 => updEng s c fun e => { e with ct := e.ct.set i { e.ct[i] with bump := e.ct[i].bump && !bit v 3 } }
  | _ => s

/-- What an image loads into a channel's registers: reserved bits read 0 (R10), bank values are rounded (R152), and the
module writes the contenders it assigns (R388). -/
def loadedCfg (k : ChCfg) : ChCfg :=
  assignCts { k with
    fe := k.fe &&& 0x3F7F13FF, ar := k.ar &&& 0xFF01, safe := k.safe &&& 0xFFFF03, dac := k.dac &&& 1
    dec := k.dec &&& 0x71, supv := k.supv &&& 0x1FFFFFFFFFFFF, lpCfg := k.lpCfg &&& 0x71
    ctCfg := k.ctCfg.map (· &&& 0x73), ctFb := k.ctFb.map (· &&& 0x11F7)
    bankA := roundBank k.bankA, bankB := roundBank k.bankB
    pgCfg := k.pgCfg &&& 1, swLen := k.swLen &&& 0x1FFFFF }

/-- A write of a 32-bit register of a unit block. -/
def chWrite (s : State) (c : Fin 128) (o : Nat) (v : Word) : State :=
  if 0x1100 ≤ o && o < 0x1200 then ctWrite s c (ctOf o) v ((o - 0x1100) % 0x40)
  else match o with
    | 0x000 => writeChCtrl s c v
    | 0x004 => updCh s c (chStatusW1c v)
    | 0x008 => updCh s c (writeFunc (field v 2 0))
    | 0x00C => writeRange s c v
    | 0x020 => updCh s c (structWrite (feOk v) fun k => { k with fe := v &&& 0x3F7F13FF })
    | 0x024 => updCh s c fun h => structWrite (arOk h.cfg v) (fun k => { k with ar := v &&& 0xFF01 }) h
    | 0x028 => updCh s c (structWrite (safeOk v) fun k => { k with safe := v &&& 0xFFFF03 })
    | 0x038 => updCh s c (structWrite true fun k => { k with dac := v &&& 1 })
    | 0x03C => updCh s c (structWrite true fun k => { k with dec := v &&& 0x71 })
    | 0x048 => updMs s c fun m => { m with compSeen := m.compSeen && !bit v 0 }
    | 0x1000 => updCh s c (pgWrite (field v 6 4 ≤ 4) fun k => { k with lpCfg := v &&& 0x71 })
    | 0x1004 => updEng s c fun e => writeSel e (bit v 0)
    | 0x1008 => updEng s c fun e => { e with
        coefRej := e.coefRej && !bit v 8, bankRej := e.bankRej && !bit v 9 }
    | 0x4038 => updCh s c (structWrite true fun k => { k with pgCfg := v &&& 1 })
    | 0x403C => updPg s c fun p => { p with
        arrived := p.arrived && !bit v 1, tgtRej := p.tgtRej && !bit v 2 }
    | 0x5008 => updCh s c fun h =>
        if h.state != .stopped || (1 ≤ field v 20 0 && field v 20 0 ≤ 1048576) then
          structWrite true (fun k => { k with swLen := v &&& 0x1FFFFF }) h
        else { h with sw := { h.sw with setRej := true } }
    | 0x500C => updCh s c (listIdleWrite fun w => { w with first := v &&& 0xFFFFF })
    | 0x5010 => updCh s c (listIdleWrite fun w => { w with repeats := v &&& 0xFFFF })
    | 0x5020 => writeSwCtrl s c v
    | 0x5024 => updSw s c fun w => { w with
        armRej := w.armRej && !bit v 8, ownRej := w.ownRej && !bit v 9
        admitDenied := w.admitDenied && !bit v 10, setRej := w.setRej && !bit v 11 }
    | 0x6000 => writeCalCmd s c v
    | 0x6004 => updUnit s (assignedUnit s c) (calStatW1c v)
    | _ => s

/-! ## Comb-common registers (R394, R395) -/

/-- CMB_MAP. -/
def cmbMap (k : Comb) : Nat :=
  (List.finRange 8).foldl (fun a i => a + fld (k.map[i]).val (4 * i.val)) 0

/-- A register of the comb-common block. -/
def cmbRead (s : State) (c : Fin 16) (o : Nat) : Nat :=
  let k := s.comb[c]
  match o with
  | 0x000 => cmbMap k
  | 0x004 => spareServes k + flag k.parallel 4
  | 0x008 => k.assigned + flag (noSpare s c) 4 + flag k.rej 5 + flag (spareOut s c) 6
      + flag k.run.isSome 7
  | _ => 0

/-- A rejected CMB_REPAIR write. -/
def cmbRej (s : State) (c : Fin 16) : State := updComb s c fun k => { k with rej := true }

/-- CMB_REPAIR.REPAIR (R212, R395). -/
def repairUnit (s : State) (c : Fin 16) (unit : Nat) : State :=
  if h : unit < 8 then
    let i : Fin 8 := ⟨unit, h⟩
    let n := s.ch[chanAt c i]
    let k := s.comb[c]
    if k.assigned != 15 || spareOut s c || repairing k || !(n.state == .safed || n.state == .stopped) then cmbRej s c
    else tryRepair (updComb s c fun k => { k with repairPend := some i }) c
  else cmbRej s c

/-- CMB_REPAIR.RELEASE (R213, R395). -/
def releaseUnit (s : State) (c : Fin 16) : State :=
  let k := s.comb[c]
  if h : k.assigned < 8 then
    if s.ch[chanAt c ⟨k.assigned, h⟩].state = .stopped then
      updComb s c fun k => { k with releasePend := true }
    else cmbRej s c
  else cmbRej s c

/-- A write of a register of the comb-common block. -/
def cmbWrite (s : State) (c : Fin 16) (o : Nat) (v : Word) : State :=
  match o with
  | 0x008 => updComb s c fun k => { k with rej := k.rej && !bit v 5 }
  | 0x00C =>
    if bit v 4 == bit v 5 then cmbRej s c
    else if bit v 4 then repairUnit s c (field v 3 0)
    else releaseUnit s c
  | _ => s

end Sys2Proof.Machine
end

