-- ==== Sys2Proof/Machine/ImageCheck.lean ====
section
/-!
DEFINITION. The checks of BOOT step 6 on a parsed image: its format, its field ranges and conditions
(R50, R53, R153 and the rules named at each check), and its static resource conflicts (R52).
-/

namespace Sys2Proof.Machine

/-- No two elements are equal. -/
def noRepeat : List Nat → Bool
  | [] => true
  | x :: l => !l.contains x && noRepeat l

/-! ## One channel -/

/-- A booster declaration: code 8 to 11, at most 4 A, a shunt drop of 50 mV to 200 mV (R89). -/
def boosterOk (b : Booster) : Bool :=
  8 ≤ b.code && b.code ≤ 11 &&
    decide (0 < b.fullScale ∧ b.fullScale ≤ 4 ∧ 1 / 20 ≤ b.fullScale * b.shunt ∧ b.fullScale * b.shunt ≤ 1 / 5)

/-- Every booster code of a channel names the same shunt (R89). -/
def oneShunt : List Booster → Bool
  | a :: b :: l => a.shunt == b.shunt && oneShunt (b :: l)
  | _ => true

/-- The range tables: defined codes, and initial codes that lie in them (R73 to R75, R89). -/
def tablesOk (k : ChCfg) : Bool :=
  k.boosters.all boosterOk && oneShunt k.boosters && noRepeat (k.boosters.map (·.code)) &&
    k.vTable.all (· ≤ 2) && k.vTable.contains k.vInit && k.iTable.contains k.iInit &&
    k.iTable.all fun c => c < 8 || k.boosters.any (·.code == c)

/-- The enabled contenders with a reference. -/
def countRef (k : ChCfg) (r : Nat) : Nat := (allCt.filter fun i => ctEn k i && ctRef k i == r).length

/-- Two contenders read one source with one DERIV: IDX counts where the source has one (R71, R155). -/
def sameFb (a b : Word) : Bool :=
  fbSrc a == fbSrc b && bit a 12 == bit b 12 && (fbSrc a < 2 || fbIdx a == fbIdx b)

/-- SERVO's contender set: one main contender in the upper set, one compliance contender of each set
that read one source with one DERIV (R71, R143, R388). -/
def servoOk (k : ChCfg) : Bool :=
  k.func != .servo ||
    (countRef k 0 == 1 && countRef k 3 == 1 && countRef k 4 == 1 &&
      (match mainCt k with | some i => !bit (ctCfg k i) 1 | none => false) &&
      (match ctWithRef k 3, ctWithRef k 4 with
       | some a, some b => sameFb (ctFb k a) (ctFb k b)
       | _, _ => false))

/-- Every contender register holds defined codes (R155, R388). -/
def ctsOk (k : ChCfg) : Bool :=
  allCt.all fun i => ctCfgOk k.ctCfg[i] && field k.ctFb[i] 2 0 ≤ 3

/-- The safe state is one the function and the front end have (R72, R98, R99, R167). -/
def safeStateOk (k : ChCfg) : Bool :=
  safeOk k.safe && (k.func != .mv || safeCode k == 0) && (!usesBooster k || safeCode k != 2) &&
    (safeCode k != 3 ||
      (modelN k != 0 && mcmb k k.bankA != 0 && mcmb k k.bankB != 0 && !stepMode k))

/-- The initial state fits the function (R45, R96). -/
def initOk (k : ChCfg) : Bool :=
  if k.connectAtSafe then
    !usesBooster k &&
      match k.func, k.init with
      | .fv, .fv v => decide (absR v ≤ vFull k.vInit)
      | .mi, .mi => true
      | .mv, .mv => true
      | _, _ => false
  else k.init == .hiz

/-- The profile generator's fields: OFF and MV may omit the limits of motion, and only SERVO needs its target window
(R167). -/
def pgOk (k : ChCfg) : Bool :=
  [k.pgVmax, k.pgAmax, k.pgJmax].all (fun d => pgLimitOk d || (!hasLoop k && d == 0)) && pgInitOk k k.pgInit &&
    ((b64Valid k.pgLimLo && b64Valid k.pgLimHi && decide (b64ToRat k.pgLimLo < b64ToRat k.pgLimHi)) ||
      (k.func != .servo && k.pgLimLo == 0 && k.pgLimHi == 0))

/-- The configuration an image gives a channel; a channel it does not name stays OFF with the defaults. -/
def imageCfg (m : Image) (c : Fin 128) : ChCfg :=
  match m.channels.find? fun p => p.1 == c with
  | some p => p.2
  | none => ChCfg.default

/-- The full scale that the initial ranges give the compliance pair: that of the channel whose quantity it limits
(R76, R77). -/
def initPairFs (m : Image) (c : Fin 128) : Rat :=
  let k := imageCfg m c
  match pairFb k with
  | some w =>
    if fbSrc w = 0 then vFull k.vInit
    else
      let d := imageCfg m (if fbSrc w = 1 then c else regionChan (regionOf c) (fbIdx w))
      iFull d d.iInit
  | none => 0

/-- A list an image gives: its fields stand at other values than the defaults of R391, or it is armed. -/
def givesList (m : Image) (c : Fin 128) (k : ChCfg) : Bool :=
  m.armed.contains c || k.swBase != 0 || field k.swLen 20 0 != 1

/-- Format, ranges and conditions of one channel entry. -/
def chCfgOk (m : Image) (c : Fin 128) (k : ChCfg) : Bool :=
  tablesOk k && servoOk k && ctsOk k && safeStateOk k && initOk k && pgOk k &&
    ((pairFb k).isNone || pairOk k (initPairFs m c) k.compHi k.compLo) &&
    feOk k.fe && arOk k k.ar && b64Valid k.holdComp && supvOk k.supv &&
    modelN k ≤ 4 && bankFinite k.bankA && bankFinite k.bankB &&
    bankOk k (roundBank k.bankA) && bankOk k (roundBank k.bankB) &&
    1 ≤ field k.swLen 20 0 && field k.swLen 20 0 ≤ 1048576

/-! ## The rest of the image -/

/-- A frame period (R231). -/
def frameOk (n : Nat) : Bool := n % 80 == 0 && 800 ≤ n && n ≤ 800000

/-- A span of the store lies in one partition of the image of one of some types. -/
def inPart (ps : List (Fin 31 × Part)) (types : List Nat) (a n : Nat) : Bool :=
  ps.any fun p => types.contains p.2.type && p.2.base * 2 ^ 20 ≤ a && a + n ≤ (p.2.base + p.2.size) * 2 ^ 20

/-- The type of a partition of the image, 0 where it declares none. -/
def imgPartType (m : Image) (k : Nat) : Nat :=
  match m.parts.find? fun p => p.1.val == k with
  | some p => p.2.type
  | none => 0

/-- A list of an image lies in one TABLE partition (R172). -/
def imgListOk (m : Image) (c : Fin 128) : Bool :=
  match m.channels.find? fun p => p.1 == c with
  | some (_, k) => k.swBase.toNat % 64 == 0 && inPart m.parts [2] k.swBase.toNat (64 * field k.swLen 20 0)
  | none => false

/-- A capture stream of an image (R243, R369). -/
def imgStreamOk (m : Image) (x : ImgStream) : Bool :=
  strSrc x.cfg ≤ 9 && strRing x.cfg ≤ 30 && 1 ≤ field x.age 13 0 && field x.age 13 0 ≤ 10000 &&
    (!x.opens || (imgPartType m (strRing x.cfg) == 1 && (strSrc x.cfg != 5 || 1 ≤ field x.age 31 16)))

/-- The queues of an image that name the stream port (R255, R420). -/
def portQueues (m : Image) : List ImgQueue :=
  m.queues.filter fun q => qProd q.cfg == 8 || qCons q.cfg == 8

/-- The queues of an image (R255, R367, R420). -/
def imgQueuesOk (m : Image) : Bool :=
  m.queues.all (fun q => queueCfgOk q.cfg && !(qProd q.cfg == 8 && qCons q.cfg == 8)) &&
    (portQueues m).length ≤ 1 && (portQueues m).all (fun q => qRate q.cfg ≤ 250) &&
    noRepeat (m.queues.map fun q => q.queue.val)

/-- A TRIG pin's fields (R182). -/
def trigOk (w : Word) : Bool := trigRole w != 2 || 8 ≤ field w 31 16

/-- A timer's CFG (R183, R377). -/
def tmrCfgOk (w : Word) : Bool := tmrMode w ≤ 2 && tmrDest w ≤ 3 && (tmrDest w != 1 || tmrIdx w < 16)

/-- A timer's PERIOD (R183). -/
def tmrPeriodOk (d : DWord) : Bool := 800 ≤ d.toNat && d.toNat < 2 ^ 48

/-- SEQ_ENCn_CFG fields within their ranges (R158, R159, R377). -/
def encCfgOk (w : Word) : Bool :=
  8 ≤ field w 13 8 && field w 13 8 ≤ 48 && 5 ≤ field w 22 16 && field w 22 16 ≤ 100

/-- The ring fields (R297, R321). -/
def imgRingOk (m : Image) : Bool :=
  field m.jxCfg 17 8 ≤ 1022 && 1 ≤ field m.jxCfg 31 24 && field m.jxTxShare 13 0 ≤ 10000 &&
    1000 ≤ field m.jxLossTmo 20 0 && field m.jxLossTmo 20 0 ≤ 2000000 &&
    (let on := m.rxRings.filter fun r => bit r.2 31
     on.all (fun r => field r.2 4 0 ≤ 30 &&
        (imgPartType m (field r.2 4 0) == 1 || imgPartType m (field r.2 4 0) == 4)) &&
      noRepeat (on.map fun r => field r.2 4 0))

/-- The image has no format error (R50, R53 code 0x07). -/
def imageFormatOk (m : Image) : Bool :=
  m.formatOk && frameOk m.frame && m.channels.all (fun p => chCfgOk m p.1 p.2) &&
    noRepeat (m.channels.map fun p => p.1.val) && 
    (List.finRange 128).all (fun c => !givesList m c (imageCfg m c) || imgListOk m c) &&
    m.parts.all (fun p => p.2.type ≤ 4 && 1 ≤ p.2.size) && noRepeat (m.parts.map fun p => p.1.val) &&
    m.tables.all (fun t => inPart m.parts [2, 3] t.1 t.2.length) &&
    m.streams.all (imgStreamOk m) && m.ringCfgs.all (fun r => ringReader r.2 ≤ 9) && imgQueuesOk m &&
    m.trigs.all (fun t => trigOk t.2) && m.timers.all (fun t => tmrCfgOk t.cfg && tmrPeriodOk t.period) &&
    m.encoders.all (fun e => encCfgOk e.cfg && b64Valid e.scale) && imgRingOk m

/-! ## Static conflicts (R52) -/

/-- A booster range on a channel without a port, or declared beside the internal driver (R52, R89, R90). -/
def boosterConflict (p : Fin 128 × ChCfg) : Bool :=
  (p.2.boosters.length != 0 || p.2.iTable.any (8 ≤ ·)) && (p.1.val % 4 != 0 || p.2.iTable.any (· < 8))

/-- Partitions in MiB overlap. -/
def partsOverlap : List (Fin 31 × Part) → Bool
  | [] => false
  | p :: l => l.any (fun q => p.2.base < q.2.base + q.2.size && q.2.base < p.2.base + p.2.size) || partsOverlap l

/-- The staging area begins here, in MiB (R239). -/
def stagingBase : Nat := 131008

/-- The image has a static resource conflict (R20, R52). -/
def imageConflict (m : Image) : Bool :=
  !noRepeat (m.trigs.map fun t => t.1.val) || m.channels.any boosterConflict ||
    partsOverlap m.parts || m.parts.any (fun p => stagingBase < p.2.base + p.2.size) ||
    !noRepeat (m.timers.map fun t => 16 * t.region.val + t.timer.val) ||
    !noRepeat (m.wmMaps.map fun w => w.1.val) || 46 * 2 ^ 20 < m.sram

end Sys2Proof.Machine
end

