-- ==== Sys2Proof/Machine/ModeOps.lean ====
section
/-!
DEFINITION. Modes: what PORST_N, a supply and a power cycle leave (R39, R40, R356), the resets of R339, the
steps of BOOT (R49 to R54), the entry to SAFE (R45, R47), RECOVER (R61 to R63), the supplies (R406),
ESTOP_N (R101, R102) and the collector's stall (R294, R295).
-/

namespace Sys2Proof.Machine

/-! ## Resets of masters (R13, R14, R339) -/

/-- Drop a master's entries of a list of latches or stages. -/
def dropMaster {α : Type} (id : Nat) (l : List (Nat × α)) : List (Nat × α) := l.filter fun e => e.1 != id

/-- Clear a master's latches and stages (R13, R14). -/
def clearMaster (s : State) (id : Nat) : State :=
  updBus s fun b => { b with
    latches := dropMaster id b.latches, stages := dropMaster id b.stages
    histLatches := dropMaster id b.histLatches, sqLatches := dropMaster id b.sqLatches }

/-- A direction loses its message. -/
def clearMsg (m : Mbx) : Mbx := { m with data := 0, full := false, fullSender := false, fullReceiver := false }
/-- Its message is lost because the receiver was reset. -/
def abortMsg (m : Mbx) : Mbx := { clearMsg m with aborted := true }
/-- Its sender was reset. -/
def toggleEpoch (m : Mbx) : Mbx := { m with epoch := !m.epoch }

/-- Update mailbox channels by number: NS below 16, SC from 16. -/
def mapMbx (s : State) (f : Nat → MbxChan → MbxChan) : State :=
  { s with mbx := Vector.ofFn fun i : Fin 20 => f i.val s.mbx[i] }

/-- End of a session: the secure messages go and BAR2 stops decoding (R339, R348). -/
def endSession (s : State) : State :=
  if s.sec.auth then
    mapMbx (updSec s fun x => { x with auth := false, session := none }) fun i m =>
      if i < 16 then m else ⟨clearMsg m.h2c, clearMsg m.c2h⟩
  else s

/-- A DMA engine after a link reset (R339). -/
def dmaReset (d : Dma) : Dma := { d with en := false, head := 0, tail := 0, moved := 0, cur := none, queue := none, aborting := false }

/-- FLR, or a conventional reset of the link (R339). -/
def linkReset (s : State) : State :=
  let s := mapMbx s fun _ m => ⟨toggleEpoch m.h2c, abortMsg m.c2h⟩
  let s := clearMaster (freeLocks s 1) 1
  endSession { s with dma := s.dma.map dmaReset }

/-- A reset of the application core with its RESET_CAUSE (R339, R340). -/
def appReset (s : State) (cause : Nat) : State :=
  let s := mapMbx s fun i m => if i < 16 then ⟨abortMsg m.h2c, toggleEpoch m.c2h⟩ else m
  updMod (clearMaster (freeLocks s 2) 2) fun m => { m with resetCause := cause }

/-- A reset of the secure core (R339). -/
def secureReset (s : State) : State :=
  let s := endSession s
  let s := mapMbx s fun i m => if i < 16 then m else ⟨abortMsg m.h2c, toggleEpoch (clearMsg m.c2h)⟩
  updSec (clearMaster (freeLocks s 3) 3) fun x => { x with busy := false, nonceAt := none }

/-! ## The provisioning record (R202, R345) -/

/-- Slot B is in force: both slots pass and B's SEQ is ahead, or it alone passes (R202, R203). -/
def provIsB (x : Sec) : Bool :=
  match x.recA, x.recB with
  | some a, some b => let d := (b.seq + 4294967296 - a.seq) % 4294967296; 1 ≤ d && d ≤ 2147483647
  | none, some _ => true
  | _, none => false

/-- The provisioning record in force. -/
def provActive (x : Sec) : Option ProvRecord := if provIsB x then x.recB else x.recA

/-- A commit of the provisioning record goes to the slot that is not in force, with SEQ + 1 (R202). -/
def commitProv (f : ProvRecord → ProvRecord) (x : Sec) : Sec :=
  let old := (provActive x).getD ⟨0, none, none, 2⟩
  let new := some { f old with seq := (old.seq + 1) % 4294967296 }
  if provIsB x || x.recA.isNone then { x with recA := new } else { x with recB := new }

/-- The secure core checks its provisioning record at a start: what the record in force holds, or, with no slot that
passes, no keys, NEVER and no first binding (R345). -/
def checkRecord (c : SecureCheck) (x : Sec) : Sec :=
  let x := { x with recA := if c.slotAOk then x.recA else none, recB := if c.slotBOk then x.recB else none }
  match provActive x with
  | some r => { x with imgKey := r.imgKey, hostKey := r.hostKey, policy := r.policy, recordOk := true }
  | none => { x with imgKey := none, hostKey := none, policy := 2, recordOk := false }

/-- SECURE_VIOLATION of a code of R347; during BOOT the loader reports it with BOOT_ERR (R273). -/
def secViolation (s : State) (code : Nat) : Msg :=
  if s.mod.mode = .boot then ⟨0x1A, 0x407, s.boot.err⟩ else ⟨0x1A, 0x406, code⟩

/-- Present a message at the collector's inputs. -/
def sendMsg3 (s : State) (m : Msg) : State := send s m.kind m.source m.detail

/-- The secure core starts again outside BOOT, on the way to OPEN or in it: the key store reads all zeros there, and a
record that fails its check raises 0x22 (R40, R345, R347, R353). -/
def secureRestart (s : State) (c : SecureCheck) : State :=
  let s := updSec s (checkRecord c)
  if s.sec.recordOk then s else sendMsg3 s (secViolation s 0x22)

/-! ## Entering BYPASS (R39, R356) -/

/-- Ticks that count towards the lifetime besides the stored seconds: a step of the count adds none (R314, R358). -/
def lifeTicks (s : State) : Nat := s.mod.lifeAcc + (s.tb.now - s.mod.lifeFrom)
/-- Lifetime seconds so far (R358). -/
def lifeSeconds (s : State) : Nat := s.mod.lifeTime + lifeTicks s / 800000000
/-- The ticks of a second not yet full. -/
def lifeRest (s : State) : Nat := lifeTicks s % 800000000

/-- A pin's TRIG register and pulses are gone; the level at the land stays. -/
def clearPin (t : TrigPin) : TrigPin := { t with cfg := 0, pulses := [], edgeAt := 0 }

/-- A unit after PORST_N: its slots lie in the calibration store (R201, R356). -/
def unitPorst (p : Fin 144) (u : CalUnit) : CalUnit :=
  showRec p { CalUnit.reset p with slotA := u.slotA, slotB := u.slotB, factory := u.factory, trims := u.factory }

/-- Operations of the by-pass with this closing counted (R325). -/
def bypassCount (s : State) : Nat := if s.jx.bypassed then s.jx.bypCount else s.jx.bypCount + 1

/-- Every register at its Reset column; what lies in the calibration store, in the capture store and on
the pins stays (R21, R356, R358, R345). -/
def porstReset (s : State) : State :=
  let n := bypassCount s
  { State.reset with
    pending := s.pending, freshCount := s.freshCount, out := s.out
    mod := { Mod.reset with
      lifePon := s.mod.lifePon, lifeTime := lifeSeconds s, lifeAcc := lifeRest s, lifeLock := s.mod.lifeLock
      lifeOpen := s.mod.lifeOpen, serial := s.mod.serial, fw := s.mod.fw, refclk10M := s.mod.refclk10M }
    pins := { Pins.reset with estopLow := s.pins.estopLow, perstN := s.pins.perstN }
    unit := Vector.ofFn fun p => unitPorst p s.unit[p]
    seq := { SeqBlock.reset with trig := s.seq.trig.map clearPin }
    sto := { Store.reset with mem := s.sto.mem }
    jx := { Jx.reset with
      bypCount := n, wear := 190000000 ≤ n
      closedAt := if s.jx.bypassed && s.jx.closedAt.isNone then none else some 0 }
    hst := { Hst.reset with vendor := s.hst.vendor }
    sec := { Sec.reset with
      attFactory := s.sec.attFactory, decKey := s.sec.decKey, imgKey := s.sec.imgKey
      hostKey := s.sec.hostKey, recA := s.sec.recA, recB := s.sec.recB, policy := s.sec.policy, ksGen := s.sec.ksGen
      attGen := s.sec.attGen, erased := s.sec.erased, recordOk := s.sec.recordOk
      certLen := s.sec.certLen, cert := s.sec.cert } }

/-- VDDIO is lost: up to 60 s of the lifetime goes (R358). -/
def roundLife (s : State) : State := updMod s fun m => { m with lifeTime := m.lifeTime / 60 * 60 }

/-- The capture store has lost its supplies (A5). -/
def clearStore (s : State) : State := updSto s fun t => { t with mem := [] }

/-- PORST_N goes low (R39, R40). -/
def porstAssert (s : State) : State :=
  let s := updPins s fun p => { p with porstN := false }
  if s.mod.mode = .opened then secureReset (appReset s 2) else porstReset s

/-- The collector at a restart of the timebase: its state stays (R282), no tick is in process. -/
def restartCollector (f : Collector) : Collector :=
  { f with tick := 0, snap := f.outLvl, tickKinds := [], tickAcks := [], ackRejBase := f.ackRej, entries := [], base := f.hist }

/-- The run of a comb ends, its trigger with it. -/
def dropCombRun (s : State) (c : Fin 16) : State :=
  match s.comb[c].run with
  | some r => dropRun s c r
  | none => s

/-- The channels, runs and work in flight of a module that loses a rail. -/
def dropAll (s : State) : State :=
  let s := collect (discardModule s (fun _ => 0) .lockdown)
  closeBypass (forComb (mapCh s fun _ _ => Channel.reset) dropCombRun)

/-- BYPASS after a lost rail: WAGGLE is held low, and the timebase stands at 0 (R39, R405). -/
def fallToBypass (s : State) : State :=
  let s := if s.flt.stopCause = 3 then s else stopWaggle s 4
  let t := lifeSeconds s
  let a := lifeRest s
  let s := updMod (setMode s .bypass) fun m => { m with
    refSettled := false, auto := false, fromBoot := false, lifeTime := t, lifeAcc := a, lifeFrom := 0, holdFrom := 0 }
  updTb s fun b => { b with
    now := 0, running := false, reqPend := false, changeAt := none, last := 0, len := b.act }

/-- What a lost rail clears besides (R39, R216, R282). -/
def clearLost (s : State) : State :=
  { s with
    ldg := { Ledger.reset with vmin := s.ldg.vmin }
    flt := restartCollector s.flt
    unit := s.unit.map fun u => forgetGone { u with quietUntil := 0, dueInit := false }
    seq := { s.seq with events := [] }
    boot := Boot.reset
    jx := { s.jx with localOk := false, joinReq := false, closedAt := s.jx.closedAt.map fun _ => 0 }
    sec := { s.sec with nonceAt := none } }

/-- Image registers read 0 until step 7 loads them again (R356), a queue's SCOPE 3 (R367); nothing of the image is in
force, and no queue is enabled and no pin has the role OUTPUT until the image and the host say so (R411, R419). -/
def unloadImage (s : State) : State :=
  { mapCh s fun _ _ => Channel.reset with
    mod := { s.mod with auto := false }
    ldg := { s.ldg with fixed := false }
    cal := { s.cal with autoEn := false }
    seq := { s.seq with
      trig := s.seq.trig.map clearPin
      enc := Vector.replicate 32 Encoder.reset
      timer := Vector.replicate 64 ⟨0, 0, 0, 0, 0, 0⟩ }
    sq := s.sq.map fun q => { q with cfg := 0x300, dest := 0, en := false, aligned := false }
    sto := { s.sto with
      parts := Vector.replicate 32 ⟨0, 0, 0⟩
      ring := s.sto.ring.map fun r => { r with cfg := 0 }
      stream := s.sto.stream.map fun x => { x with cfg := 0, age := 10 } }
    jx := { s.jx with
      cfg := Jx.reset.cfg, txShare := 0, lossTmo := Jx.reset.lossTmo, rx := Vector.replicate 8 0, state := 0 }
    pins := { s.pins with wmMap := Vector.replicate 4 0, sqWm := Vector.replicate 4 false } }

/-- A rail leaves its operating limits while PORST_N stays high: every channel is high-impedance and gone,
the work in flight is dropped, and the registers that PORST_N alone clears stay (R39, R282, R405). -/
def supplyLost (s : State) : State := unloadImage (clearLost (fallToBypass (dropAll s)))

/-- SUPPLY_OUT_OF_LIMITS (R39, R405). OPEN has no such transition. -/
def supplyOut (s : State) (rail : Nat) : State :=
  if s.mod.mode = .opened || s.mod.mode = .bypass then s
  else
    let s := supplyLost s
    let s := if rail = 3 then roundLife s else s
    if 3 ≤ rail && rail ≤ 5 then clearStore s else s

/-- VDDIO falls below 0.3 V for 10 ms and returns: a power cycle (R39, R354). -/
def powerCycle (s : State) : State :=
  let porst := s.pins.porstN
  updPins (clearStore (roundLife (porstReset s))) fun p => { p with porstN := porst }

/-! ## BOOT (R48 to R54) -/

/-- ESTOP_N low when BOOT starts is present at its input (R273). -/
def estopAtStart (s : State) : State := if s.pins.estopLow then raiseState s 0x18 0x409 0 else s

/-- BOOT starts (R50, R53, R63). -/
def bootStart (s : State) : State :=
  let s := closeBypass s
  let s := setMode (unloadImage { s with boot := Boot.reset }) .boot
  let s := if s.flt.stopCause = 3 then s else stopWaggle s 4
  estopAtStart (updMod s fun m => { m with fromBoot := false })

/-- BOOT starts from BYPASS: the cores run, and the lifetime counts the seconds in BYPASS, whose number no command
brings (R39, R340, R358; A44). -/
def bootFromBypass (s : State) (rise : Bool) : State :=
  let n := s.freshCount
  bootStart (updMod { s with freshCount := n + 1 } fun m => { m with
    resetCause := if rise then 0 else m.resetCause
    lifeTime := m.lifeTime + Config.bypassSeconds n
    lifePon := Nat.min (m.lifePon + 1) 4294967295 })

/-- POWER_GOOD (R39, R40, R229, R358): REFCLK_SEL is sampled where PORST_N rises. In OPEN the cores start again. A stalled
collector lets no BOOT start before PORST_N (R294, R295). -/
def powerGood (s : State) (x : PowerUp) : State :=
  let rise := !s.pins.porstN
  let s := updPins s fun p => { p with porstN := true }
  let s := if rise then updMod s fun m => { m with refclk10M := !x.refclkSel } else s
  match s.mod.mode with
  | .bypass => if s.mod.collStall then s else bootFromBypass s rise
  | .opened => if rise then secureRestart s x.check else s
  | _ => s

/-- A failed step: BOOT_ERR, BOOT_TIME and one fault; nothing of the image stays (R51, R53). -/
def stepFail (s : State) (r : BootReport) (err kind detail : Nat) : State :=
  bootFail (updBoot s fun b => { b with time := r.micros % 2 ^ 32, image := none, hash := 0 }) err kind detail

/-- CONFIG_CHECK, RESOURCE_CONFLICT and SECURE_VIOLATION carry BOOT_ERR (R273). -/
def stepFailErr (s : State) (r : BootReport) (err kind : Nat) : State := stepFail s r err kind err

/-- A step is completed. -/
def stepDone (s : State) (k : Nat) : State := updBoot s fun b => { b with step := k }

/-- The secure core checks its two regions at the start of BOOT (R345, R346): the Bool says that SECURE_VIOLATION is due
for the key store. That of a bad provisioning record is the one of its image, which fails with SIGNATURE_BAD (A33). -/
def secureStart (x : Sec) (c : SecureCheck) : Sec × Bool :=
  let bad := !x.erased && !c.keyStoreOk
  let x := if x.erased || bad then
      { x with attGen := x.attGen + 1, attFactory := false, decKey := none
               ksGen := (x.ksGen + 1) % 65536, erased := false }
    else x
  (checkRecord c x, bad)

/-- Step 1: secure core, PLL, timebase, VCORE and causeways (R50, R217, R230). A violation found there is reported by
the loader with BOOT_ERR, which still reads 0 (R273, R347). -/
def bootStep1 (s : State) (r : BootReport) : State :=
  let (x, bad) := secureStart s.sec r.secure
  let s := { s with sec := x }
  let restarted := s.tb.running
  if bad then
    present (updBoot s fun b => { b with time := r.micros % 2 ^ 32 }) [secViolation s 0x22]
  else if !(r.pllLocked || restarted) then stepFailErr s r 0x0A 0x11
  else
    let s := if restarted then s
      else updTb s fun t => { t with now := 0, last := 0, running := true }
    let s := requestVcore s 800
    if r.causewaysTrained then stepDone s 1 else stepFailErr s r 0x0A 0x11

/-- Step 2: store training and flash probe. -/
def bootStep2 (s : State) (r : BootReport) : State :=
  if !r.storeTrained then
    let n := s.freshCount
    stepFail { s with freshCount := n + 1 } r 0x09 0x12 (Config.storeInitDetail n)
  else if r.flash = .absent then stepFailErr s r 0x01 0x16
  else stepDone (updBoot s fun b => { b with octal := r.flash == .octal }) 2

/-- Step 3: the header. -/
def bootStep3 (s : State) (r : BootReport) : State :=
  if !r.headerOk then stepFailErr s r 0x02 0x16
  else if 64 * 2 ^ 20 < r.length || r.flashSize < r.length then stepFailErr s r 0x03 0x16
  else stepDone (updBoot s fun b => { b with len := r.length, encrypted := r.encrypted }) 3

/-- Step 4: the body is read into the staging area and hashed (R50, R239). -/
def bootStep4 (s : State) (r : BootReport) : State :=
  if s.boot.encrypted && s.sec.decKey.isNone then stepFailErr s r 0x05 0x1A
  else
    let s := storeWrite s (stagingBase * 2 ^ 20) (r.body.take (64 * 2 ^ 20))
    stepDone (updBoot s fun b => { b with hash := r.hash, image := some r.image }) 4

/-- Step 5: signature and tag. -/
def bootStep5 (s : State) (r : BootReport) : State :=
  if s.sec.imgKey.isNone || !s.sec.recordOk || !r.signatureOk then stepFailErr s r 0x04 0x1A
  else if s.boot.encrypted && !r.tagOk then stepFailErr s r 0x06 0x1A
  else stepDone s 5

/-- Step 6: format, then conflicts. -/
def bootStep6 (s : State) (r : BootReport) : State :=
  match s.boot.image with
  | none => stepFailErr s r 0x07 0x16
  | some m =>
    if !imageFormatOk m then stepFailErr s r 0x07 0x16
    else if imageConflict m then stepFailErr s r 0x08 0x17
    else stepDone s 6

/-! ### Step 7 -/

/-- A channel as the image loads it (R50, R64, R80, R167). -/
def loadCh (m : Image) (c : Fin 128) : Channel :=
  let k := loadedCfg (imageCfg m c)
  { Channel.reset with
    cfg := k, compHi := k.compHi, compLo := k.compLo
    range := { ChRange.reset with
      vReq := k.vInit, iReq := k.iInit, vTaken := k.vInit, iTaken := k.iInit, vAct := k.vInit, iAct := k.iInit }
    pg := { Profile.reset with target := k.pgInit } }

/-- The partitions of the image (R238). -/
def loadParts (m : Image) : Vector Part 32 :=
  Vector.ofFn fun k : Fin 32 =>
    match m.parts.find? fun p => p.1.val == k.val with
    | some p => p.2
    | none => ⟨0, 0, 0⟩

/-- Store partitions, tables, streams and rings of the image. -/
def loadStore (m : Image) (t : Store) : Store :=
  { t with
    parts := loadParts m
    mem := m.tables.foldl (fun x p => memWriteN x p.1 p.2) t.mem
    stream := m.streams.foldl (fun v x =>
      v.set x.stream { v[x.stream] with cfg := x.cfg &&& 0xFFFF, age := x.age &&& 0xFFFF3FFF }) t.stream
    ring := m.ringCfgs.foldl (fun v x => v.set x.1 { v[x.1] with cfg := x.2 &&& 0x0073FF1F }) t.ring }

/-- The queues of the image; others take the default (R255, R366, R367). -/
def loadQueues (m : Image) (v : Vector Queue 32) : Vector Queue 32 :=
  Vector.ofFn fun n : Fin 32 =>
    match m.queues.find? fun x => x.queue == n with
    | some x => { v[n] with cfg := x.cfg &&& 0xFFF1FFFF, dest := x.dest &&& 0x001F03FF }
    | none => { v[n] with cfg := 0x300, dest := 0 }

/-- The sequencer block of the image; a timer whose MODE is not 0 is enabled now (R183, R377). An encoder that the image
does not name takes FILT 2 and TP 20 µs (R158, R159). -/
def loadSeq (m : Image) (now : Nat) (q : SeqBlock) : SeqBlock :=
  { q with
    trig := m.trigs.foldl (fun v x => v.set x.1 { v[x.1] with cfg := x.2 &&& 0xFFFFFF07 }) q.trig
    timer := m.timers.foldl (fun v x =>
      v.set (timerAt x.region x.timer)
        ⟨x.cfg &&& 0x1FF03, x.start, x.period, x.count, 0, now⟩) q.timer
    enc := m.encoders.foldl (fun v x =>
      v.set x.enc { v[x.enc] with cfg := x.cfg &&& 0x1FFFFF1F, errRun := x.errRun &&& 0xF, cpr := x.cpr
                                  offset := x.offset, scale := x.scale, zFirst := none })
      (q.enc.map fun e => { e with cfg := 0x09800002 }) }

/-- The ring fields of the image (R297, R321). -/
def loadJx (m : Image) (j : Jx) : Jx :=
  { j with
    cfg := m.jxCfg &&& 0xFF03FF1F, txShare := m.jxTxShare &&& 0x3FFF, lossTmo := m.jxLossTmo &&& 0x1FFFFF
    rx := m.rxRings.foldl (fun v x => v.set x.1 (x.2 &&& 0x8000001F)) j.rx
    state := if bit m.jxCfg 0 then 1 else 0 }

/-- Step 7: the image is loaded. -/
def loadImage (s : State) (m : Image) : State :=
  let s := mapCh s fun c _ => loadCh m c
  { s with
    mod := { s.mod with auto := m.auto }
    tb := { s.tb with frame := m.frame, act := m.frame, len := m.frame }
    ldg := { s.ldg with fixed := true }
    cal := { s.cal with autoEn := m.calAuto }
    seq := loadSeq m s.tb.now s.seq
    sq := loadQueues m s.sq
    sto := loadStore m s.sto
    jx := loadJx m s.jx
    pins := { s.pins with wmMap := m.wmMaps.foldl (fun v x => v.set x.1 (x.2 &&& 0x8000001F)) s.pins.wmMap } }

/-- Step 7. -/
def bootStep7 (s : State) (r : BootReport) : State :=
  match s.boot.image with
  | none => stepFailErr s r 0x07 0x16
  | some m => stepDone (loadImage s m) 7

/-- Step 8: calibration records are applied; a unit without one leaves a notice (R203). -/
def bootStep8 (s : State) : State :=
  let s := (List.finRange 144).foldl (fun s p =>
    if (activeRec p s.unit[p]).isNone then unitNotice s p 0x45 0 else s) s
  stepDone { s with unit := Vector.ofFn fun p => applyRec p s.unit[p] } 8

/-! ### Step 9 -/

/-- Enter SAFE: connect-at-SAFE channels are connected and ring training starts (R45, R47). -/
def enterSafe (s : State) : State := ringAtSafe (connectAtEntry (setMode s .safe))

/-- Step 9: the staging area becomes partition 31, the module enters SAFE, and the automatic path asks for
READY (R50, R54, R239). -/
def bootStep9 (s : State) (r : BootReport) : State :=
  let s := updSto s fun t => { t with parts := t.parts.set 31 ⟨stagingBase, 64, 4⟩ }
  let s := updBoot s fun b => { b with step := 9, time := r.micros % 2 ^ 32 }
  let s := updWm (enterSafe s)
  if s.mod.auto then updMod s fun m => { m with readyReq := true, readyAuto := true } else s

/-- BOOT_STEP_COMPLETE: the step after the last completed one finishes (R50). -/
def bootStep (s : State) (r : BootReport) : State :=
  if s.mod.mode != .boot then s
  else match s.boot.step with
    | 0 => bootStep1 s r
    | 1 => bootStep2 s r
    | 2 => bootStep3 s r
    | 3 => bootStep4 s r
    | 4 => bootStep5 s r
    | 5 => bootStep6 s r
    | 6 => bootStep7 s r
    | 7 => bootStep8 s
    | 8 => bootStep9 s r
    | _ => s

/-- A failure that no step reports (R49, R53, R217): BOOT_TIME is a free value. -/
def bootFailFree (s : State) (err kind detail : Nat) : State :=
  let n := s.freshCount
  bootFail (updBoot { s with freshCount := n + 1 } fun b => { b with
    time := Config.bootTime n % 2 ^ 32, image := none, hash := 0 }) err kind detail

/-! ## Supplies (R53, R217, R406) -/

/-- The SOURCEs a rail reports from (R273). -/
def railSources (rail : Nat) : List Nat :=
  if rail ≤ 2 then [0x300, 0x301] else if rail = 6 then [0x302] else [0x40A]

/-- A rail of a source stands on a side of its window: 1 below, 2 above. -/
def railsOff (s : State) (source : Nat) (side : Nat) : Bool :=
  (List.finRange 7).any fun j => (railSources j.val).contains source && (s.pwr.railOut[j]).val == side

/-- A rail has left its window on one side (R217, R406); during BOOT it ends BOOT (R53), and with BOOT the loader's test
of it (R272). -/
def railViolation (s : State) (rail : Fin 7) (above : Bool) : State :=
  let kind := if above then 0x10 else 0x0F
  if s.mod.mode = .bypass then s
  else
    let s := updPwr s fun p => { p with railOut := p.railOut.set rail (if above then 2 else 1) }
    if s.mod.mode = .boot then endState (bootFailFree s 0x0B kind rail.val) kind 0x407
    else (railSources rail.val).foldl (fun s x => raiseState s kind x rail.val) s

/-- A rail is back in its window: kinds that no rail of a source holds any longer end. -/
def railRestored (s : State) (rail : Fin 7) : State :=
  let s := updPwr s fun p => { p with railOut := p.railOut.set rail 0 }
  (railSources rail.val).foldl (fun s x =>
    let s := if railsOff s x 1 then s else endState s 0x0F x
    if railsOff s x 2 then s else endState s 0x10 x) s

/-! ## ESTOP_N (R101, R102) -/

/-- The dedicated path opens one channel's output. -/
def estopCh (s : State) (c : Fin 128) : State :=
  match s.ch[c].state with
  | .running | .starting => reactCh s c 0 .estop
  | _ => updCh s c hizCh

/-- ESTOP_N goes low. -/
def estopFall (s : State) : State :=
  if s.pins.estopLow then s
  else
    let s := updPins s fun p => { p with estopLow := true }
    if s.mod.mode = .bypass then s
    else
      let s := abortRuns s (fun _ => true) .estop true
      raiseState (forCh s estopCh) 0x18 0x409 0

/-- ESTOP_N returns high: no output changes and the condition ends. -/
def estopRise (s : State) : State :=
  endState (updPins s fun p => { p with estopLow := false }) 0x18 0x409

/-! ## The collector's stall (R294, R295) and the watchdog (R293) -/

/-- Every output opens and every channel is SAFED. -/
def hizAll (s : State) : State := mapCh s fun _ h => { hizCh h with state := .safed }

/-- COLL_STALL. -/
def stallCollector (s : State) : State :=
  if s.mod.mode = .bypass then s
  else
    let m := s.mod.mode
    let s := discardModule (updMod s fun x => { x with collStall := true }) (fun _ => 0) .lockdown
    let s := stopWaggle (hizAll s) 3
    if m = .lockdown || m = .opened then s
    else setMode (updMod s fun x => { x with
      lifeLock := (x.lifeLock + 1) % 2 ^ 32, fromBoot := m == .boot }) .lockdown

/-- CORE_WATCHDOG (R293). -/
def watchdogExpires (s : State) : State :=
  if s.mod.mode = .bypass then s
  else
    let s := appReset (present s [⟨0x1B, 0x405, 0⟩]) 1
    if s.flt.stopCause = 3 then s else stopWaggle s 2

/-! ## Mode commands (R41) -/

/-- A channel is SAFED. -/
def anySafed (s : State) : Bool := s.ch.toList.any fun h => h.state == .safed

/-- MOD_CTRL.READY (R41, R55). -/
def cmdReady (s : State) : State :=
  if s.mod.mode = .safe && !anySafed s then updMod s fun m => { m with readyReq := true } else cmdRej s

/-- MOD_CTRL.RUN (R41). -/
def cmdRun (s : State) : State :=
  if s.mod.mode = .ready || s.mod.mode = .hold then updMod s fun m => { m with runReq := true } else cmdRej s

/-- MOD_CTRL.HOLD (R41). -/
def cmdHold (s : State) : State :=
  if s.mod.mode = .run then updMod s fun m => { m with holdReq := true } else cmdRej s

/-- MOD_CTRL.SAFE (R41, R43). -/
def cmdSafe (s : State) : State :=
  if s.mod.mode = .ready || s.mod.mode = .run || s.mod.mode = .hold then
    if s.mod.safePend then s else updMod s fun m => { m with safeReq := true }
  else cmdRej s

/-- RECOVER is allowed (R61, R295). -/
def mayRecover (s : State) : Bool :=
  s.mod.mode == .lockdown && !s.mod.collStall && s.flt.outLvl.toList.all (· == 0)

/-- MOD_CTRL.RECOVER: BOOT again, or SAFE with every channel SAFED and the start set's reservations released
(R56, R61 to R63, R224). -/
def cmdRecover (s : State) : State :=
  if !mayRecover s then cmdRej s
  else if s.mod.fromBoot then bootStart s
  else enterSafe (releaseAll (updMod s fun m => { m with fromBoot := false }))

/-- A write of MOD_CTRL: one command bit, or CMD_REJ (R41). -/
def writeModCtrl (s : State) (v : Word) : State :=
  match field v 4 0 with
  | 0 => s
  | 1 => cmdReady s
  | 2 => cmdRun s
  | 4 => cmdHold s
  | 8 => cmdSafe s
  | 16 => cmdRecover s
  | _ => cmdRej s

/-- The conditions of READY hold (R55). -/
def readyHolds (s : State) : Bool :=
  s.mod.mode == .safe && s.mod.readyReq && s.mod.readyAdmitted && s.mod.refSettled && allStopped s &&
    s.unit.toList.all fun u => !u.dueInit

/-- READY_COMPLETE: READY, the image's streams open and its lists are ARMED; on the automatic path RUN is
requested (R54, R55). -/
def readyComplete (s : State) : State :=
  if !readyHolds s then s
  else
    let auto := s.mod.readyAuto
    let s := setMode (updMod s fun m => { m with readyReq := false, readyAuto := false }) .ready
    let s := (imageOpens s).foldl (fun s n => updStream s n (startStream s.tb.now)) s
    let s := (imageArmed s).foldl (fun s c => updSw s c fun w => { w with
      state := .armed, cause := .none, iter := 0, passes := 0, disarmReq := false }) s
    if auto then updMod s fun m => { m with runReq := true, autoStart := true } else s

/-! ## WAGGLE (R46, R290, R292) -/

/-- Every kind's OUTLVL is below FLT_WAGGLE.LEVEL (R292). -/
def wagAllowed (s : State) : Bool := s.flt.outLvl.toList.all (· < s.flt.wagLevel)

/-- WAGGLE_START: a level that has outlasted a lost rail holds it back (R46, R282, R292). -/
def waggleStart (s : State) : State :=
  if s.mod.mode.operating && s.flt.stopCause = 4 && !s.mod.collStall && wagAllowed s then startWaggle s else s

/-- WAGGLE_RESUME. -/
def waggleResume (s : State) : State :=
  if s.mod.mode.operating && (s.flt.stopCause = 1 || s.flt.stopCause = 2) && !s.mod.collStall && wagAllowed s then startWaggle s
  else s

/-- WAGGLE_TOGGLE: the pin inverts every 40,000 ticks. -/
def waggleToggle (s : State) : State :=
  if s.pins.toggling then updPins s fun p => { p with waggle := !p.waggle } else s

end Sys2Proof.Machine
end

