-- ==== Sys2Proof/Machine/HostOps.lean ====
section
/-!
DEFINITION. The host link: mailboxes and firmware requests (R335 to R340), locks (R341 to R343), and the DMA
engines with their descriptors (R330 to R334, R172, R238, R240, R264).
-/

namespace Sys2Proof.Machine

/-- The host's requests reach the function: D0, and no conventional reset (R326, R414). -/
def hostReach (s : State) : Bool := s.pins.perstN && !s.hst.d3hot

/-- A master issues accesses: the host in D0 without a link reset, a core while it is not held in reset (R40, R326,
R414). -/
def masterUp (s : State) (m : Master) : Bool :=
  match m with
  | .host => hostReach s
  | .appCore | .secCore => coresRun s
  | _ => true

/-! ## Mailboxes (R336 to R338) -/

/-- A sender's write to DATA. -/
def sendMsg (v : Word) (m : Mbx) : Mbx :=
  if m.full then { m with overwriteRej := true } else { m with data := v, full := true, fullSender := true }

/-- A receiver's read of DATA: the word, and the mailbox after it. -/
def takeMsg (m : Mbx) : Word × Mbx :=
  if m.full then (m.data, { m with full := false, fullReceiver := false }) else (0, m)

/-- A change of FULL reaches the other end. -/
def showFull (m : Mbx) : Mbx := { m with fullSender := m.full, fullReceiver := m.full }

/-- STAT as one end sees it (R336). -/
def mbxStat (m : Mbx) (sender : Bool) : Nat :=
  flag (if sender then m.fullSender else m.fullReceiver) 0 + flag m.overwriteRej 1 + flag m.aborted 2
    + flag m.epoch 3

/-- A write of STAT by the sender: W1C bits. -/
def statW1c (v : Word) (m : Mbx) : Mbx :=
  { m with overwriteRej := m.overwriteRej && !bit v 1, aborted := m.aborted && !bit v 2 }

/-- A mailbox number 0 to 19 from a channel number. -/
def mbxNo (n : Nat) : Fin 20 := ⟨n % 20, Nat.mod_lt _ (by decide)⟩
/-- SC channel n. -/
def scNo (n : Fin 4) : Fin 20 := ⟨16 + n.val, by omega⟩
/-- NS channel n. -/
def nsNo (n : Fin 16) : Fin 20 := ⟨n.val, by omega⟩

/-- A mailbox responds: an NS channel where BAR0 does, an SC channel while a session is open (R48, R349). -/
def mbxUp (s : State) (n : Fin 20) : Bool :=
  if n.val < 16 then regsUp s else s.sec.auth && s.mod.mode != .bypass

/-- The host end of a mailbox is reachable: BAR0 for NS, BAR2 for SC (R349, R365). -/
def mbxHost (s : State) (n : Fin 20) : Bool := hostReach s && mbxUp s n

/-- The core's end of a mailbox: a core that PORST_N holds in reset takes and sends nothing (R40, R339). -/
def mbxCore (s : State) (n : Fin 20) : Bool := coresRun s && mbxUp s n

/-- An access of the host to an SC channel without a session sets BAR2_DENY (R349). -/
def denyHost (s : State) (n : Fin 20) : State :=
  if 16 ≤ n.val && hostReach s && s.mod.mode != .bypass && !s.sec.auth then
    updSec s fun x => { x with bar2Deny := true }
  else s

/-- MBX_DATA_WRITE: the host sends H2C, a core C2H. -/
def mbxWrite (s : State) (n : Fin 20) (h2c : Bool) (v : Word) : State :=
  if (if h2c then mbxHost s n else mbxCore s n) then updMbx s n h2c (sendMsg v)
  else if h2c then denyHost s n else s

/-- MBX_DATA_READ: a core reads H2C, the host C2H; the word goes to the reader. -/
def mbxRead (s : State) (n : Fin 20) (h2c : Bool) : State :=
  if (if h2c then mbxCore s n else mbxHost s n) then
    let (w, m) := takeMsg (getMbx s n h2c)
    updBus (updMbx s n h2c fun _ => m) fun b => { b with read := w }
  else updBus (if h2c then s else denyHost s n) fun b => { b with read := 0 }

/-- A request waits on a channel, and its core runs. -/
def hasRequest (s : State) (n : Fin 20) (request : Word) : Bool :=
  mbxCore s n && (getMbx s n true).full && (getMbx s n true).data == request

/-- OP, TAG and ARG of a request (R340). -/
def reqOp (w : Word) : Nat := field w 31 24
/-- See R340. -/
def reqTag (w : Word) : Nat := field w 23 16
/-- See R340. -/
def reqArg (w : Word) : Nat := field w 15 0

/-- A reply word (R340). -/
def replyWord (op tag result : Nat) : Word := wordOf (result % 65536 + fld (tag % 256) 16 + fld (op % 256) 24)

/-- A core takes a request and answers on the same channel's C2H (R340, R350). -/
def answer (s : State) (n : Fin 20) (op tag result : Nat) : State :=
  updMbx (updMbx s n true fun m => (takeMsg m).2) n false (sendMsg (replyWord op tag result))

/-- The firmware serves a request of one OP on an NS channel. -/
def serveNs (s : State) (n : Fin 16) (request : Word) (op result : Nat) : State :=
  if hasRequest s (nsNo n) request && reqOp request == op then
    answer s (nsNo n) op (reqTag request) result
  else s

/-- The result of FW_VERSION. -/
def fwResult (s : State) (arg : Nat) : Nat :=
  match arg with
  | 0 => field s.mod.fw 31 16
  | 1 => field s.mod.fw 15 0
  | a => (Config.fwVersionOther a).toNat

/-- An unknown OP on an NS channel (R340). -/
def serveUnknown (s : State) (n : Fin 16) (request : Word) : State :=
  if hasRequest s (nsNo n) request && !(1 ≤ reqOp request && reqOp request ≤ 3) then
    answer s (nsNo n) 0xFF (reqTag request) 0
  else s

/-! ## Locks (R341 to R343) -/

/-- A test-and-set read by owner id: the word it returns. -/
def lockWord (owner id : Nat) : Word := if owner = 0 then wordOf (2 ^ 31 + id) else wordOf owner

/-- A read takes a free lock. -/
def takeLock (s : State) (id : Nat) (l : Fin 64) : State :=
  if s.lock[l] = 0 then { s with lock := s.lock.set l id } else s

/-- The owner frees its lock by writing 0. -/
def writeLock (s : State) (id : Nat) (l : Fin 64) (v : Word) : State :=
  if v = 0 && s.lock[l] == id then { s with lock := s.lock.set l 0 } else s

/-! ## DMA (R330 to R334) -/

/-- Status codes of R331. -/
inductive DmaCode where
  | ok | perm | poison | hostErr | badDesc | aborted
  deriving DecidableEq, Repr

/-- Bits [3:1] of STATUS. -/
def DmaCode.code : DmaCode → Nat
  | .ok => 0 | .perm => 1 | .poison => 2 | .hostErr => 3 | .badDesc => 4 | .aborted => 5

/-- The engine takes the descriptor at HEAD (R330). -/
def dmaTakes (d : Dma) : Bool := d.en && !d.stopped && d.head != d.tail

/-- The engine has a descriptor to work on: one in progress, or one to take. -/
def dmaRuns (s : State) (e : Fin 8) : Bool :=
  regsUp s && hostReach s && (s.dma[e].cur.isSome || s.dma[e].aborting || dmaTakes s.dma[e])

/-- The place in the ring of the descriptor that the engine works on. -/
def dmaPlace (d : Dma) : Nat :=
  match d.cur with
  | some (i, _) => i
  | none => d.head

/-- The descriptor is no longer in progress; HEAD moves past it unless a discard has moved HEAD (R333). -/
def dmaPast (d : Dma) : Dma :=
  { d with
    head := if d.head = dmaPlace d then (d.head + 1) % Nat.max d.len.toNat 1 else d.head
    moved := 0, cur := none, aborting := false }

/-- STATUS and DONE_LEN go to the host, HEAD advances, and the IRQ flag is served (R329, R333). -/
def dmaFinish (s : State) (e : Fin 8) (flags : Nat) (code : DmaCode) (done : Nat) : State :=
  let d := s.dma[e]
  let s := sendHost s (d.base.toNat + 32 * dmaPlace d + 24) (toBytes 4 (1 + 2 * code.code) ++ toBytes 4 done)
  let s := updDma s e dmaPast
  let s := if code = .hostErr then updDma s e fun d => { d with halted := true, stopped := true, en := false }
    else s
  if flags % 2 = 1 then sendMsix s e.val else s

/-- A descriptor is well formed (R331, R332). -/
def descOk (d : Desc) : Bool :=
  d.op ≤ 4 && d.haddr % 8 == 0 && 8 ≤ d.len && d.len ≤ 2 ^ 24 &&
    match d.op with
    | 0 | 1 => d.len % 8 == 0 && d.maddr % 8 == 0
    | 2 | 3 => d.len % 16 == 0
    | _ => d.len % 4112 == 0

/-- The partition that holds a byte. -/
def partAt (s : State) (a : Nat) : Option Part :=
  s.sto.parts.toList.find? fun p => p.base * 2 ^ 20 ≤ a && a < (p.base + p.size) * 2 ^ 20

/-- Every byte of a span lies in a partition whose type allows the access, over at most as many adjacent partitions as
the first argument says (R240, R332). -/
def spanAllowed (ok : Nat → Bool) (s : State) : Nat → Nat → Nat → Bool
  | 0, _, _ => false
  | fuel + 1, a, n =>
    match partAt s a with
    | none => false
    | some p =>
      let e := (p.base + p.size) * 2 ^ 20
      ok p.type && (a + n ≤ e || spanAllowed ok s fuel e (a + n - e))

/-- Host DMA may write a span of this type (R238). -/
def dmaMayWrite (s : State) (t : Nat) : Bool := t == 2 || t == 4 || (t == 3 && s.mod.mode == .safe)
/-- Host DMA may read a span of this type (R238). -/
def dmaMayRead (t : Nat) : Bool := t == 2 || t == 3 || t == 4

/-- HOST_TO_STORE: nothing moves where any part of the span is refused (R332, R172). -/
def dmaToStore (s : State) (e : Fin 8) (d : Desc) (bytes : List Byte) (hostErr : Bool) : State :=
  if !spanAllowed (dmaMayWrite s) s 32 d.maddr d.len then dmaFinish (storePerm s d.maddr) e d.flags .perm 0
  else if spanProtected s d.maddr d.len then
    dmaFinish (updSto s fun x => { x with wprot := true }) e d.flags .perm 0
  else
    let bs := bytes.take d.len
    if hostErr then dmaFinish (storeWrite s d.maddr bs) e d.flags .hostErr bs.length
    else dmaFinish (storeWrite s d.maddr (bs ++ List.replicate (d.len - bs.length) 0)) e d.flags .ok d.len

/-- STORE_TO_HOST: nothing moves where any part of the span is refused (R332). -/
def dmaFromStore (s : State) (e : Fin 8) (d : Desc) : State :=
  if spanAllowed dmaMayRead s 32 d.maddr d.len then
    dmaFinish (sendHost s d.haddr (memReadN s.sto.mem d.maddr d.len)) e d.flags .ok d.len
  else dmaFinish (storePerm s d.maddr) e d.flags .perm 0

/-- The queue a descriptor names. -/
def descQueue (d : Desc) : Fin 32 := ⟨d.maddr % 32, Nat.mod_lt _ (by decide)⟩

/-- The items that 16-byte groups spell. -/
def itemsOf : Nat → List Byte → List QItem
  | 0, _ => []
  | n + 1, bs => ⟨BitVec.ofNat 64 (ofBytes (bs.take 8)), (bs.drop 8).headD 0⟩ :: itemsOf n (bs.drop 16)

/-- Write items while the engine holds credits, so that no write raises QUEUE_CREDIT; how many were written (R332). -/
def pushItems (s : State) (q : Fin 32) : List QItem → Nat × State
  | [] => (0, s)
  | i :: l =>
    if s.sq[q].credit = 0 then (0, s)
    else
      let (n, t) := pushItems (queueWrite s q i) q l
      (n + 1, t)

/-- The descriptor in progress waits, with the bytes it has moved. -/
def dmaWait (s : State) (e : Fin 8) (d : Desc) (moved : Nat) : State :=
  updDma s e fun x => { x with cur := some (dmaPlace x, d), moved := moved }

/-- HOST_TO_QUEUE: it waits, with what it has moved, where the credits run out. -/
def dmaToQueue (s : State) (e : Fin 8) (d : Desc) (bytes : List Byte) (hostErr : Bool) : State :=
  let q := descQueue d
  if qProd s.sq[q].cfg != 1 then dmaFinish s e d.flags .badDesc 0
  else if !s.sq[q].en then dmaWait s e d s.dma[e].moved
  else
    let have_ := Nat.min bytes.length d.len / 16 * 16
    let upTo := if hostErr then have_ else d.len
    let from_ := s.dma[e].moved
    let (n, t) := pushItems s q (itemsOf ((upTo - from_) / 16) (bytes.drop from_))
    let moved := from_ + 16 * n
    if moved < upTo then dmaWait t e d moved
    else dmaFinish t e d.flags (if hostErr then .hostErr else .ok) moved

/-- The 16 bytes of an item in host memory. -/
def itemHost (i : QItem) : List Byte := toBytes 8 i.data.toNat ++ i.tag :: List.replicate 7 0

/-- Take up to n items. -/
def pullItems (q : Fin 32) : Nat → State → List Byte × State
  | 0, s => ([], s)
  | n + 1, s =>
    match takeItem s q with
    | (some i, s) =>
      let (bs, s) := pullItems q n s
      (itemHost i ++ bs, s)
    | (none, s) => ([], s)

/-- QUEUE_TO_HOST. -/
def dmaFromQueue (s : State) (e : Fin 8) (d : Desc) : State :=
  let q := descQueue d
  if qCons s.sq[q].cfg != 1 then dmaFinish s e d.flags .badDesc 0
  else
    let (bs, t) := pullItems q (d.len / 16) s
    dmaFinish (if bs.isEmpty then t else sendHost t d.haddr bs) e d.flags .ok bs.length

/-- Block RP of a ring as its reader reads it: data, descriptor, and whether its CRC passes. -/
def readBlock (s : State) (n : Fin 31) : List Byte × List Byte × Bool :=
  let (a, b) := blockAddr s n s.sto.ring[n].rp
  let data := memReadN s.sto.mem a 4096
  let desc := memReadN s.sto.mem b 16
  (data, desc, crc32c (data ++ desc.take 12) == BitVec.ofNat 32 (ofBytes (desc.drop 12)))

/-- The verdict of block RP is known: RP advances (R250). -/
def advanceRp (s : State) (n : Fin 31) : State := updRing s n fun r => { r with rp := r.rp + 1 }

/-- A descriptor copy with POISON set: bit 25 of bytes 8 to 11 (R247, R264). -/
def poisonDesc (desc : List Byte) : List Byte :=
  desc.take 11 ++ ((desc.drop 11).headD 0 ||| 2) :: desc.drop 12

/-- A block whose CRC failed is reported (R264). -/
def blockBad (s : State) (n : Fin 31) : State := send s 0x13 0x400 (blockAddr s n s.sto.ring[n].rp).1

/-- The ring whose reader is an engine. -/
def engineRing (s : State) (e : Fin 8) : Option (Fin 31) :=
  (List.finRange 31).find? fun n => ringActive s n && ringReader s.sto.ring[n].cfg == e.val + 1

/-- RING_TO_HOST: blocks read, whether one was poisoned. -/
def pullBlocks (r : Fin 31) : Nat → Nat → Bool → State → Nat × Bool × State
  | 0, _, p, s => (0, p, s)
  | n + 1, a, p, s =>
    if s.sto.ring[r].wp ≤ s.sto.ring[r].rp then (0, p, s)
    else
      let (data, desc, ok) := readBlock s r
      let s := if ok then s else blockBad s r
      let s := advanceRp (sendHost s a (data ++ if ok then desc else poisonDesc desc)) r
      let (k, q, s) := pullBlocks r n (a + 4112) (p || !ok) s
      (k + 1, q, s)

/-- RING_TO_HOST. -/
def dmaFromRing (s : State) (e : Fin 8) (d : Desc) : State :=
  match engineRing s e with
  | none => dmaFinish s e d.flags .badDesc 0
  | some r =>
    let (k, bad, t) := pullBlocks r (d.len / 4112) d.haddr false s
    dmaFinish t e d.flags (if bad then .poison else .ok) (4112 * k)

/-- The queue that a descriptor serves. -/
def servedQueue (d : Desc) : Option (Fin 32) := if d.op = 2 || d.op = 3 then some (descQueue d) else none

/-- Another engine's descriptor on the same queue is in progress (R332). -/
def queueTaken (s : State) (e : Fin 8) (d : Desc) : Bool :=
  (servedQueue d).isSome && (List.finRange 8).any fun k =>
    k != e && match s.dma[k].cur with
      | some (_, x) => servedQueue x == servedQueue d
      | none => false

/-- A well-formed descriptor does its operation (R332). -/
def dmaOperate (s : State) (e : Fin 8) (d : Desc) (bytes : List Byte) (hostErr : Bool) : State :=
  let s := updDma s e fun x => { x with queue := servedQueue d }
  match d.op with
  | 0 => dmaToStore s e d bytes hostErr
  | 1 => dmaFromStore s e d
  | 2 => dmaToQueue s e d bytes hostErr
  | 3 => dmaFromQueue s e d
  | _ => dmaFromRing s e d

/-- The bytes that an aborted descriptor has moved: those a HOST_TO_STORE has read, up to an 8-byte boundary, where its
span is open; what another operation has moved by then is not known, and nothing of it is taken to have moved (A20). -/
def abortedBytes (s : State) (d : Desc) (bytes : List Byte) : List Byte :=
  if descOk d && d.op == 0 && spanAllowed (dmaMayWrite s) s 32 d.maddr d.len && !spanProtected s d.maddr d.len then
    bytes.take (Nat.min bytes.length d.len / 8 * 8)
  else []

/-- The descriptor whose transfer ABORT has stopped completes (R333). -/
def dmaAborted (s : State) (e : Fin 8) (d : Desc) (bytes : List Byte) : State :=
  let bs := abortedBytes s d bytes
  dmaFinish (if bs.isEmpty then s else storeWrite s d.maddr bs) e d.flags .aborted bs.length

/-- The descriptor at HEAD could not be read: HOST_ERR, and its IRQ flag is a free value (R333; A20). -/
def dmaUnread (s : State) (e : Fin 8) : State :=
  let n := s.freshCount
  dmaFinish { s with freshCount := n + 1 } e (if Config.lostIrq n then 1 else 0) .hostErr 0

/-- A descriptor that the engine has got. -/
def dmaGot (s : State) (e : Fin 8) (d : Desc) (bytes : List Byte) (hostErr : Bool) : State :=
  if !descOk d then dmaFinish s e d.flags .badDesc 0
  else if queueTaken s e d then s
  else dmaOperate s e d bytes hostErr

/-- DMA_DESCRIPTOR_DONE: the descriptor in progress, or with none the one at HEAD, which the operand spells. -/
def dmaDescriptor (s : State) (e : Fin 8) (d : Desc) (bytes : List Byte) (reads : DmaRead) : State :=
  if !dmaRuns s e then s
  else match s.dma[e].cur with
    | some (_, x) => dmaGot s e x bytes (reads == .dataError)
    | none =>
      if reads = .descError then dmaUnread s e
      else if s.dma[e].aborting then dmaAborted s e d bytes
      else dmaGot s e d bytes (reads == .dataError)

/-- A write of DMA_CTRL.EN (R334, R373). -/
def dmaEnable (s : State) (e : Fin 8) (en : Bool) : State :=
  if !en then updDma s e fun d => { d with en := false }
  else
    let s := updDma s e fun d => { d with stopped := false }
    if s.dma[e].en then s
    else
      let (ok, s) := admitDma s e
      if ok then s else updDma s e fun d => { d with admitDenied := true }

/-- DMA_CTRL.ABORT: the descriptor in progress completes as ABORTED, one that waits in the engine at once and the one at
HEAD with its DMA_DESCRIPTOR_DONE, which brings its FLAGS; EN clears (R333; A20). -/
def dmaAbort (s : State) (e : Fin 8) : State :=
  let s := if dmaRuns s e then
      match s.dma[e].cur with
      | some (_, d) => dmaFinish s e d.flags .aborted s.dma[e].moved
      | none => updDma s e fun d => { d with aborting := true }
    else s
  updDma s e fun d => { d with en := false }

/-- A write of DMA_TAIL (R373). -/
def dmaTail (s : State) (e : Fin 8) (v : Word) : State :=
  updDma s e fun d =>
    if field v 15 0 < d.len.toNat then { d with tail := field v 15 0 } else { d with cfgRej := true }

end Sys2Proof.Machine
end

