-- ==== Sys2Proof/Machine/SecOps.lean ====
section
/-!
DEFINITION. The secure core: authentication (R348), the requests of the SC channels (R350), and debug
opening (R351 to R353).
-/

namespace Sys2Proof.Machine

/-- Big-endian bytes of a 384-bit value. -/
def bytes384 (v : BitVec 384) : List Byte := toBytesBE 48 v.toNat
/-- Big-endian bytes of a 768-bit value: X then Y, or r then s. -/
def bytes768 (v : BitVec 768) : List Byte := toBytesBE 96 v.toNat
/-- SEC_SERIAL as 16 bytes, least significant first (R358). -/
def serialBytes (s : State) : List Byte := toBytes 16 s.mod.serial.toNat

/-- The secure core serves authentication: its registers respond, outside OPEN (R354). -/
def secUp (s : State) : Bool := regsUp s && s.mod.mode != .opened

/-! ## HMAC (RFC 2104) and HKDF (RFC 5869) over SHA-384 (R348) -/

/-- A key at the length of SHA-384's 128-byte block, every byte combined with a pad. -/
def hmacPad (key : List Byte) (pad : Byte) : List Byte :=
  let k := if 128 < key.length then bytes384 (Config.sha384 key) else key
  (k ++ List.replicate (128 - k.length) 0).map (· ^^^ pad)

/-- HMAC-SHA-384. -/
def hmac384 (key msg : List Byte) : List Byte :=
  bytes384 (Config.sha384 (hmacPad key 0x5C ++ bytes384 (Config.sha384 (hmacPad key 0x36 ++ msg))))

/-- The info string "EC9128 SC" in ASCII. -/
def sessionInfo : List Byte := [0x45, 0x43, 0x39, 0x31, 0x32, 0x38, 0x20, 0x53, 0x43]

/-- The session key: HKDF-SHA-384 from the ECDH secret with the nonce as salt, 32 bytes long, which one block of the
expansion covers. -/
def sessionKey (secret : List Byte) (nonce : BitVec 384) : BitVec 256 :=
  let prk := hmac384 (bytes384 nonce) secret
  BitVec.ofNat 256 (ofBytesBE ((hmac384 prk (sessionInfo ++ [1])).take 32))

/-! ## Authentication (R348) -/

/-- SEC_AUTH_CTRL.START: the session ends and a nonce is drawn, unless START is refused or a VERIFY is in
progress. -/
def authStart (s : State) : State :=
  if !secUp s || s.sec.lockout || s.sec.lockedOut || s.sec.busy then s
  else
    let s := endSession s
    let n := s.freshCount
    updSec { s with freshCount := n + 1 } fun x => { x with nonce := Config.nonce n, nonceAt := some s.tb.now }

/-- The nonce is still valid: 10 s. -/
def nonceFresh (s : State) : Bool :=
  match s.sec.nonceAt with
  | some t => s.tb.now < t + 8000000000
  | none => false

/-- SEC_AUTH_CTRL.VERIFY. -/
def authVerify (s : State) : State :=
  if !secUp s || s.sec.busy then s
  else
    let ok := nonceFresh s
    updSec s fun x => { x with busy := true, nonceAt := if ok then x.nonceAt else none }

/-- Bytes of the authentication buffer. -/
def authBytes (x : Sec) (off n : Nat) : List Byte := (x.buf.toList.drop off).take n

/-- Replace bytes of the authentication buffer from an offset. -/
def putAuth (x : Sec) (off : Nat) (bs : List Byte) : Sec :=
  { x with buf := Vector.ofFn fun i : Fin 384 =>
      if off ≤ i.val && i.val < off + bs.length then (bs[i.val - off]?).getD 0 else x.buf[i] }

/-- The digest a host signs. -/
def authDigest (s : State) (eph : List Byte) : BitVec 384 :=
  Config.sha384 (bytes384 s.sec.nonce ++ eph ++ serialBytes s)

/-- The key that must verify: the bound one, or, with none bound and a sound record, the key a first
binding installs. -/
def authKey (s : State) (digest : BitVec 384) (sig : BitVec 768) : Option (BitVec 768) :=
  match s.sec.hostKey with
  | some k => some k
  | none => if s.sec.recordOk then some (Config.boundKey digest sig) else none

/-- A failed authentication: every fourth in a row locks START out for 1 s, the sixteenth until PORST_N. -/
def authFail (s : State) : State :=
  let n := s.sec.fails + 1
  let s := updSec s fun x => { x with
    busy := false, nonceAt := none, fails := Nat.min n 16
    lockout := x.lockout || n % 4 == 0 || 16 ≤ n, lockedOut := x.lockedOut || 16 ≤ n }
  if n = 16 then sendMsg3 s (secViolation s 0x21) else s

/-- A successful authentication: the session opens and the module's half is left in the buffer. -/
def authOpen (s : State) (key : BitVec 768) (eph : List Byte) : State :=
  let n := s.freshCount
  let own := Config.ephemeralKey n
  let both := Config.sha384 (bytes384 s.sec.nonce ++ eph ++ bytes768 own)
  let proof := Config.attestSign s.sec.attGen both
  updSec { s with freshCount := n + 1 } fun x =>
    let x := putAuth (putAuth x 192 (bytes768 own)) 288 (bytes768 proof)
    let x := if x.hostKey.isSome then x else commitProv (fun r => { r with hostKey := some key }) x
    { x with
      auth := true, busy := false, nonceAt := none, fails := 0, hostKey := some key
      session := some (sessionKey (Config.ecdhSecret n (BitVec.ofNat 768 (ofBytesBE eph))) x.nonce) }

/-- SEC_VERIFY_DONE. -/
def authDone (s : State) : State :=
  if !s.sec.busy then s
  else
    let eph := authBytes s.sec 0 96
    let sig : BitVec 768 := BitVec.ofNat 768 (ofBytesBE (authBytes s.sec 96 96))
    let digest := authDigest s eph
    match authKey s digest sig with
    | some k =>
      if s.sec.nonceAt.isSome && Config.ecdsaVerify k digest sig then authOpen s k eph else authFail s
    | none => authFail s

/-- The 1 s lockout ends. -/
def lockoutEnd (x : Sec) : Sec := if x.lockedOut then x else { x with lockout := false }

/-! ## SC requests (R350) -/

/-- Status codes of R350. -/
inductive ScStatus where
  | ok | badOp | tagFail | notAllowed | length
  deriving DecidableEq, Repr

/-- The code in the reply's bits [15:0]. -/
def ScStatus.code : ScStatus → Nat
  | .ok => 0 | .badOp => 1 | .tagFail => 2 | .notAllowed => 3 | .length => 4

/-- A request of one OP waits on an SC channel of an open session. -/
def scRequest (s : State) (ch : Fin 4) (request : Word) (op : Nat) : Bool :=
  hasRequest s (scNo ch) request && s.mod.mode != .opened && reqOp request == op

/-- Reply with a status. -/
def scAnswer (s : State) (ch : Fin 4) (request : Word) (st : ScStatus) : State :=
  answer s (scNo ch) (reqOp request) (reqTag request) st.code

/-- Bytes of the secure buffer. -/
def windowBytes (x : Sec) (off n : Nat) : List Byte := (x.window.toList.drop off).take n

/-- Replace bytes of the secure buffer from offset 0. -/
def putWindow (x : Sec) (bs : List Byte) : Sec :=
  { x with window := Vector.ofFn fun i : Fin 2048 => (bs[i.val]?).getD x.window[i] }

/-- Open a sealed payload of n bytes: IV, ciphertext, tag, the request word as additional data. -/
def openSealed (s : State) (request : Word) (n : Nat) : Except ScStatus (List Byte) :=
  if reqArg request != n + 28 then .error .length
  else match s.sec.session with
    | none => .error .tagFail
    | some k =>
      match Config.gcmOpen k (windowBytes s.sec 0 12) (toBytes 4 request.toNat)
          (windowBytes s.sec 12 n) (windowBytes s.sec (12 + n) 16) with
      | some bs => .ok bs
      | none => .error .tagFail

/-- Serve a sealed provisioning request. -/
def provision (s : State) (ch : Fin 4) (request : Word) (op n : Nat) (f : List Byte → Sec → Sec) : State :=
  if !scRequest s ch request op then s
  else match openSealed s request n with
    | .ok bs => scAnswer (updSec s (f bs)) ch request .ok
    | .error e => scAnswer s ch request e

/-- PROV_IMG_KEY: a commit of the provisioning record; the key is first used by the next BOOT. -/
def putImgKey (bs : List Byte) (x : Sec) : Sec :=
  let k : BitVec 768 := BitVec.ofNat 768 (ofBytesBE bs)
  { commitProv (fun r => { r with imgKey := some k }) x with imgKey := some k }
/-- PROV_DEC_KEY: a commit of the key store. -/
def putDecKey (bs : List Byte) (x : Sec) : Sec :=
  { x with decKey := some (BitVec.ofNat 256 (ofBytesBE bs)), ksGen := (x.ksGen + 1) % 65536 }
/-- PROV_HOST_KEY: a commit of the provisioning record, whose key is in force from the next BOOT. -/
def putHostKey (bs : List Byte) (x : Sec) : Sec :=
  commitProv (fun r => { r with hostKey := some (BitVec.ofNat 768 (ofBytesBE bs)) }) x

/-- SET_DBG_POLICY: a commit of the provisioning record. -/
def putPolicy (p : Nat) (x : Sec) : Sec := { commitProv (fun r => { r with policy := p }) x with policy := p }

/-- Bytes 0 to 127 of an attestation report. -/
def reportBody (s : State) (nonce : List Byte) : List Byte :=
  nonce ++ serialBytes s ++ bytes384 s.boot.hash ++ toBytes 8 (Config.attestVersions s.mod.fw).toNat
    ++ toBytes 4 (flag s.sec.attFactory 0 + flag s.sec.decKey.isSome 1) ++ toBytes 4 s.sec.ksGen

/-- ATTEST. -/
def serveAttest (s : State) (ch : Fin 4) (request : Word) : State :=
  if !scRequest s ch request 4 then s
  else if reqArg request != 48 then scAnswer s ch request .length
  else
    let body := reportBody s (windowBytes s.sec 0 48)
    let sig := Config.attestSign s.sec.attGen (Config.sha384 body)
    scAnswer (updSec s fun x => putWindow x (body ++ bytes768 sig)) ch request .ok

/-- SET_DBG_POLICY: never below the present policy. -/
def servePolicy (s : State) (ch : Fin 4) (request : Word) : State :=
  if !scRequest s ch request 5 then s
  else
    let p := reqArg request
    if s.sec.policy ≤ p && p ≤ 2 then scAnswer (updSec s (putPolicy p)) ch request .ok
    else scAnswer s ch request .notAllowed

/-- An unknown OP on an SC channel of an open session: BAD_OP. -/
def serveBadOp (s : State) (ch : Fin 4) (request : Word) : State :=
  if hasRequest s (scNo ch) request && s.mod.mode != .opened && !(1 ≤ reqOp request && reqOp request ≤ 7) then
    scAnswer s ch request .badOp
  else s

/-- SESSION_CLOSE: the session ends, its messages with it. -/
def serveClose (s : State) (ch : Fin 4) (request : Word) : State :=
  if scRequest s ch request 7 then endSession s else s

/-! ## Debug opening (R352, R353) -/

/-- Steps 1 and 2: the key store is overwritten and the session ends. -/
def eraseKeys (s : State) (ok : Bool) : State :=
  updSec (endSession s) fun x => { x with
    decKey := none, session := none, erased := ok, ksGen := (x.ksGen + 1) % 65536 }

/-- Steps 3 to 5: the secure core is reset and starts again, the key store erased (R345). -/
def enterOpen (s : State) (x : SecureCheck) : State :=
  let s := secureRestart (secureReset s) x
  let s := hizAll (discardModule s (fun _ => 0) .lockdown)
  let s := closeBypass s
  let s := if s.flt.stopCause = 3 then s else stopWaggle s 4
  setMode (updMod s fun m => { m with lifeOpen := m.lifeOpen + 1 }) .opened

/-- An accepted request: three failed erasures raise SECURE_VIOLATION 0x24 and end in LOCKDOWN. -/
def openDebug (s : State) (x : OpenReport) : State :=
  let s := eraseKeys s x.eraseOk
  if x.eraseOk then enterOpen s x.check else present s [secViolation s 0x24]

/-- DBG_OPEN from the TAP or from an SC channel. -/
def debugOpen (s : State) (from? : Option (Fin 4 × Word)) (x : OpenReport) : State :=
  if s.mod.mode = .opened then s
  else match from? with
    | none => if s.sec.policy = 0 then openDebug s x else sendMsg3 s (secViolation s 0x23)
    | some (ch, request) =>
      if !scRequest s ch request 6 then s
      else if s.sec.policy ≤ 1 then openDebug s x
      else scAnswer s ch request .notAllowed

end Sys2Proof.Machine
end

