-- ==== Sys2Proof/Machine/PowerOps.lean ====
section
/-!
DEFINITION. The power and thermal manager's sensors (R35), the speed sentinels and VCORE (R216 to R218), and
missed deadlines (R139, R228).
-/

namespace Sys2Proof.Machine

/-! ## Temperatures (R35, R273) -/

/-- The SOURCE of a sensor. -/
def sensorSource (i : Nat) : Nat := if i < 8 then 0x300 else if i < 16 then 0x301 else 0x40A

/-- A THERMAL test of a source holds, the budget's included (R272). -/
def sourceHot (w : Power) (source : Nat) : Bool :=
  (List.finRange 22).any (fun i => w.hot[i] && sensorSource i.val == source) ||
    (List.finRange 2).any fun d => w.budgetHot[d] && source == 0x300 + d.val

/-- The test of a sensor: above its limit, until 5 °C below it. -/
def hotNow (limit t : Rat) (was : Bool) : Bool := decide (limit < t) || (was && decide (limit - 5 < t))

/-- One sensor is read. -/
def takeTemp (temps : Vector Rat 22) (s : State) (i : Fin 22) : State :=
  let limit := b64ToRat s.pwr.tlim[i]
  let was := s.pwr.hot[i]
  let now := hotNow limit temps[i] was
  let s := updPwr s fun w => { w with temps := w.temps.set i temps[i], hot := w.hot.set i now }
  let source := sensorSource i.val
  if now then raiseState s 0x0E source i.val
  else if was && !sourceHot s.pwr source then endState s 0x0E source
  else s

/-- TEMP_SAMPLE. -/
def takeTemps (s : State) (temps : Vector Rat 22) : State := (List.finRange 22).foldl (takeTemp temps) s

/-! ## Sentinels and VCORE (R216 to R218, R227) -/

/-- The largest of the sixteen reports. -/
def largestReport (r : Vector Rat 16) : Rat := r.toList.foldl maxR 0

/-- SENTINEL_REPORT: t_s from the largest report of 100 µs, then margins and steering. -/
def takeReports (s : State) (r : Vector Rat 16) : State :=
  let l := (largestReport r :: s.ldg.reports).take 10
  let s := updLdg s fun x => { x with reports := l, ts := 11 / 10 * l.foldl maxR 0 }
  steer (trackMargin (if s.ldg.fixed then speedMargins s else s))

/-- VCORE_STEP_DOWN. -/
def stepDown (s : State) : State :=
  if mayStepDown s then
    requestVcore (updLdg s fun l => { l with aboveSince := none, downSense := true }) (s.ldg.vcore - 10)
  else s

/-- VCORE_SENSE_CONFIRM. -/
def confirmVcore (s : State) : State :=
  if s.ldg.waitSense then
    let s := updLdg s fun l => { l with waitSense := false, downSense := false }
    trackMargin (steer s)
  else s

/-- A write of TB_LDG_VMIN (R218, R360). -/
def writeVmin (s : State) (v : Word) : State :=
  let n := field v 9 0
  if n % 10 = 0 && 550 ≤ n && n ≤ 900 then steer (updLdg s fun l => { l with vmin := n })
  else updTb s fun t => { t with setRej := true }

/-- A write of TB_FRAME (R231, R232, R361). -/
def writeFrame (s : State) (v : Word) : State :=
  if frameOk v.toNat && s.tb.changeAt.isNone then
    updTb s fun t => { t with frame := v.toNat, reqPend := true }
  else updTb s fun t => { t with setRej := true }

/-- A write of TB_FRAME_AT (R232, R361). -/
def writeFrameAt (s : State) (v : DWord) : State :=
  if s.tb.changeAt.isNone then updTb s fun t => { t with at_ := v }
  else updTb s fun t => { t with setRej := true }

/-! ## Missed deadlines (R139, R228) -/

/-- The channels whose demand is repeated: those that the late engine serves (R139, R426). -/
def missChans (s : State) (a : Account) : List (Fin 128) :=
  match a with
  | .engine p => (chanOfUnit s p).toList.filter fun c => servingUnit s c == p
  | .spare k => (combChans k).filter fun c => (slotOf c).val == spareServes s.comb[k]
  | .causeway d => (List.finRange 128).filter fun c => dieOf c == d
  | _ => []

/-- The running channels of a region with a contender that reads the crossbar. -/
def crossReaders (s : State) (r : Fin 4) : List (Fin 128) :=
  (regionChans r).filter fun c =>
    s.ch[c].state == .running && hasLoop s.ch[c].cfg && (sourcesOf s.ch[c].cfg).any fun p => p.1 == 2

/-- DEADLINE_MISS. The step starts and ends of a late region sequencer wait for the boundary after the next (R228). -/
def deadlineMiss (s : State) (a : Account) : State :=
  let s := (missChans s a).foldl (fun s c => updCh s c (repeatDemand (assignedRec s c))) s
  let s := match a with
    | .crossbar r => (crossReaders s r).foldl (fun s c =>
        raiseUnit (updCh s c (lateFeedback (assignedRec s c))) c 0x06 7) s
    | .sequencer r => updSeq s fun q => { q with missed := q.missed.set r true }
    | .store => updSto s fun t => { t with late := t.late + 1 }
    | _ => s
  send s 0x0C (a.source s) a.detail

end Sys2Proof.Machine
end

