-- ==== Sys2Proof/Machine/SeqOps.lean ====
section
/-!
DEFINITION. The region sequencers' inputs: TRIG pins (R182), timers (R183), ring events (R184), region
events (R185), encoders (R157 to R160); and the lists' events outside boundaries (R175 to R181).
-/

namespace Sys2Proof.Machine

/-- A HOLD request from a pin or the ring counts in RUN; in HOLD it wins over a RUN of the same frame (R39, R42). In
another mode it is dropped (A52). -/
def requestHold (s : State) : State :=
  if s.mod.mode = .run || s.mod.mode = .hold then updMod s fun m => { m with holdReq := true } else s

/-! ## TRIG pins (R182) -/

/-- TRIG_INPUT_EDGE. -/
def trigEdge (s : State) (pin : Fin 16) (rising : Bool) : State :=
  let s := updTrig s pin fun p => { p with level := rising }
  if !channelsLive s then s
  else match trigRole s.seq.trig[pin].cfg with
    | 1 =>
      let t := s.tb.now
      deliver (updTrig s pin fun p => { p with edgeAt := t }) none 1 pin.val (if rising then 0 else 1) t
    | 3 => if rising then requestHold s else s
    | _ => s

/-- The pulse of a pin that ends first. -/
def earliestPulse (p : TrigPin) : Option Nat :=
  p.pulses.foldl (fun b t => match b with | some x => some (Nat.min x t) | none => some t) none

/-- TRIG_PULSE_END: PW ticks after its start; no pulse ends in HOLD (R57, R182). -/
def pulseEnd (s : State) (pin : Fin 16) : State :=
  match earliestPulse s.seq.trig[pin] with
  | some t =>
    if s.mod.mode = .hold || !dueBy s t then s
    else updTrig (reachTick s t) pin fun p => { p with pulses := p.pulses.erase t }
  | none => s

/-- The level of an output pin: idle, or the pulse level while a pulse is active. -/
def trigLevel (p : TrigPin) : Bool := if p.pulses.isEmpty then trigPol p.cfg else !trigPol p.cfg

/-- What the module drives a TRIG pin to: it is high-impedance until the image gives it the role OUTPUT (R411). -/
def trigDrive (p : TrigPin) : Option Bool := if trigRole p.cfg = 2 then some (trigLevel p) else none

/-! ## Timers (R183) -/

/-- The tick of a timer's next firing, none once it has stopped. -/
def nextFiring (t : Timer) : Option Nat :=
  let start := t.start.toNat
  let period := Nat.max t.period.toNat 1
  let m0 := if t.enabledAt ≤ start then 0 else (t.enabledAt - start + period - 1) / period
  match tmrMode t.cfg with
  | 1 => if t.fired = 0 then some (start + m0 * period) else none
  | 2 => if t.count = 0 || t.fired < t.count.toNat then some (start + (m0 + t.fired) * period) else none
  | _ => none

/-- TIMER_FIRE. -/
def fireTimer (s : State) (r : Fin 4) (n : Fin 16) : State :=
  let tm := s.seq.timer[timerAt r n]
  match nextFiring tm with
  | some t =>
    if !channelsLive s || !dueBy s t then s
    else
      let s := updTimer (reachTick s t) (timerAt r n) fun x => { x with fired := x.fired + 1 }
      emitTo (deliver s (some r) 3 n.val 0 t) r (tmrDest tm.cfg) (tmrIdx tm.cfg) t
  | none => s

/-! ## Ring events (R184, R319) -/

/-- The kept ring event of a number that counts first. -/
def earliestEvent (s : State) (n : Nat) : Option (RingEvent × Nat) :=
  (s.seq.events.filter fun e => e.1.event == n).foldl (fun b e =>
    match b with
    | some x => if e.2 < x.2 then some e else b
    | none => some e) none

/-- RING_EVENT_EXECUTE: the event is remembered, since a later copy merges with it (R184, R319). -/
def executeEvent (s : State) (n : Fin 32) : State :=
  match earliestEvent s n.val with
  | some e =>
    if !dueBy s e.2 then s
    else
      let s := updSeq (reachTick s e.2) fun q => { q with
        events := q.events.erase e, executed := q.executed ++ [e.1] }
      if e.1.hold then requestHold s else deliver s none 2 n.val 0 e.2
  | none => s

/-- SEQ_REGION_EVENT_WRITE (R185). -/
def regionEvent (s : State) (r : Fin 4) (v : Word) : State :=
  if regsUp s then deliver s (some r) 4 (field v 4 0) 0 s.tb.now else s

/-! ## Encoders (R158 to R160) -/

/-- A 64-bit signed count that wraps. -/
def wrap64 (n : Int) : Int := (BitVec.ofInt 64 n).toInt

/-- A quadrature transition. -/
def quadEdge (d : QuadEdge) (e : Encoder) : Encoder :=
  if encSsi e then e
  else match d with
    | .up => { e with count := wrap64 (e.count + 1) }
    | .down => { e with count := wrap64 (e.count - 1) }
    | .illegal => { e with illegal := true }

/-- A count stands within ±2 of a multiple of CPR from the first latched one. -/
def indexOk (cpr : Nat) (d : Int) : Bool :=
  let a := d.natAbs
  if cpr = 0 then a ≤ 2 else a % cpr ≤ 2 || cpr ≤ a % cpr + 2

/-- A Z edge. -/
def zEdge (e : Encoder) : Encoder :=
  if encSsi e then e
  else
    let bad := bit e.cfg 4 &&
      match e.zFirst with
      | some z => !indexOk e.cpr.toNat (e.count - z)
      | none => false
    { e with zlatch := e.count, zFirst := some (e.zFirst.getD e.count), indexErr := e.indexErr || bad }

/-- SSI position bits (R377). -/
def ssiBits (e : Encoder) : Nat := field e.cfg 13 8

/-- One bit of the CRC with polynomial x^6 + x + 1 (R159). -/
def crc6Bit (c : Nat) (b : Bool) : Nat :=
  let top := (c / 32 % 2 == 1) != b
  (c * 2 % 64) ^^^ (if top then 3 else 0)

/-- The CRC over n position bits, MSB first. -/
def crc6 (v n : Nat) : Nat := (List.range n).reverse.foldl (fun c i => crc6Bit c (v.testBit i)) 0

/-- Binary from Gray code of n bits. -/
def fromGray (v n : Nat) : Nat := (List.range n).foldl (fun a i => a ^^^ (v >>> i)) 0

/-- A word passes: it started in time, and its check, where present, matches. -/
def ssiPasses (e : Encoder) (started : Bool) (v check : Nat) : Bool :=
  started && (!bit e.cfg 15 || check == crc6 v (ssiBits e))

/-- An SSI transfer ends: its word's age and timestamp count from the first clock edge (R159). -/
def ssiWord (now : Nat) (started : Bool) (bits check : Nat) (e : Encoder) : Encoder :=
  if !(encSsi e && e.transfer) then e
  else
    let v := bits % 2 ^ ssiBits e
    let e' := { e with transfer := false, pauseUntil := now + 800 * (field e.cfg 28 23 + 1) }
    if ssiPasses e started v check then
      { e' with count := ((if bit e.cfg 14 then fromGray v (ssiBits e) else v : Nat) : Int)
                age := e.transferAge, stamp := e.transferAt, errSeq := 0, ssiFault := false }
    else { e' with errCnt := satInc e.errCnt, errSeq := Nat.min (e.errSeq + 1) 16 }

/-- A channel reads an encoder. -/
def readsEnc (cfg : ChCfg) (n : Fin 32) : Bool :=
  hasLoop cfg && allCt.any fun i => ctEn cfg i && fbSrc (ctFb cfg i) == 3 && fbIdx (ctFb cfg i) == n.val

/-- SSI_ERROR_RUN: FEEDBACK_LOST on every running channel that reads the encoder (R160). -/
def ssiErrors (s : State) (n : Fin 32) : State :=
  let e := s.seq.enc[n]
  if encSsi e && !e.ssiFault && field e.errRun 3 0 + 1 ≤ e.errSeq then
    forCh (updEnc s n fun x => { x with ssiFault := true }) fun s c =>
      if s.ch[c].state == .running && readsEnc s.ch[c].cfg n then raiseUnit s c 0x06 4 else s
  else s

/-! ## Lists outside boundaries (R175 to R181) -/

/-- A list advances in RUN. -/
def listRuns (s : State) (c : Fin 128) : Bool := s.mod.mode == .run && s.ch[c].sw.state == .playing

/-- SWEEP_STEP_END: the hold time has expired (R175, R179); what a late sequencer misses waits for the boundary after
the next (R228). -/
def stepEnds (s : State) (c : Fin 128) : State :=
  let w := s.ch[c].sw
  match w.step, w.base with
  | some p, some b =>
    if listRuns s c && !w.endLate && dueBy s (b + p.hold) then
      if b + p.hold ≤ s.tb.last then endStep s c p s.tb.last
      else if s.seq.missed[regionOf c] then updSw s c fun w => { w with endLate := true }
      else endStep s c p (nextBoundary s)
    else s
  | _, _ => s

/-- MEASURE_WINDOW_OPEN (R175). -/
def windowOpens (s : State) (c : Fin 128) : State :=
  let w := s.ch[c].sw
  match w.step, w.base with
  | some p, some b =>
    if listRuns s c && p.maper != 0 && !w.windowOpen && !w.windowDone && dueBy s (b + p.mdelay) then
      let ranging := s.ch[c].range.seq.isSome
      let closed := s.ch[c].switchOn
      updSw (reachTick s (b + p.mdelay)) c fun w => { w with
        windowOpen := true, windowRanging := ranging, windowClosed := closed }
    else s
  | _, _ => s

/-- An average with its corrections, 0 and unmarked where the switch was open throughout its interval (R116), and with
RANGING where CH_STATUS.RANGING stood in it (R120, R121, R211). -/
def averaged (rec_ : Option Record) (h : Channel) (closed ranging : Bool) (a : Aperture) : Aperture :=
  let (v, i) := measured rec_ h closed a.sense a.meas
  { sense := v, meas := i, ovr := closed && a.ovr, ranging := ranging }

/-- MEASURE_WINDOW_CLOSE with what the integrator averaged (R120). -/
def windowCloses (s : State) (c : Fin 128) (a : Aperture) : State :=
  let w := s.ch[c].sw
  match w.step, w.base with
  | some p, some b =>
    let t := (b + p.mdelay + 10 * p.maper) / 10 * 10
    if w.windowOpen && dueBy s t then
      let r := averaged (assignedRec s c) s.ch[c] w.windowClosed w.windowRanging a
      updSw (reachTick s t) c fun w => { w with
        windowOpen := false, windowRanging := false, windowDone := true
        results := w.results ++ [(r, p.capture, b + p.mdelay)] }
    else s
  | _, _ => s

/-- APERTURE_RESULT_READY: the oldest result goes to the channel's result streams (R125, R175), on the range in force
then (A60). -/
def resultReady (s : State) (c : Fin 128) : State :=
  match s.ch[c].sw.results with
  | [] => s
  | (a, cap, t) :: l =>
    let s := updSw s c fun w => { w with results := l }
    if cap && s.ch[c].cfg.func != .off then
      (streamsOf s c (· == 5)).foldl (fun s n =>
        addSample s n t (pairSample s.ch[c] a (resultIsCurrent s.ch[c].cfg))) s
    else s

/-- TRIG_TIMEOUT (R181): the list aborts and a notice is recorded. -/
def waitTimeout (s : State) (c : Fin 128) : State :=
  let w := s.ch[c].sw
  match w.step with
  | some p =>
    if s.mod.mode == .run && w.state == .waiting && p.triggered && p.tmo != 0 && w.trigAt.isNone &&
        dueBy s (w.waitFrom + 800 * p.tmo + 400) then
      send (updSw s c fun w => abortList w .timeout) 0x48 (seqSource c) (stepDetail s c)
    else s
  | none => s

/-- The scheduled TRIG_OUT event of a list with the earliest tick. -/
def earliestOut (w : Sweep) : Option (Nat × Nat) :=
  w.outs.foldl (fun b o =>
    match b with
    | some x => if o.1 < x.1 then some o else b
    | none => some o) none

/-- TRIG_OUT_EVENT: nothing is emitted while the list is paused (R57, R180). -/
def outEvent (s : State) (c : Fin 128) : State :=
  match earliestOut s.ch[c].sw with
  | some o =>
    if s.ch[c].sw.state == .paused || !dueBy s o.1 then s
    else emitOut (updSw (reachTick s o.1) c fun w => { w with outs := w.outs.erase o }) c o.1 o.2
  | none => s

end Sys2Proof.Machine
end

