-- ==== Sys2Proof/Machine/RingPort.lean ====
section
/-!
DEFINITION. The ring port: joining and leaving (R309, R323), RING_LOSS (R311), forwarding and the frame CRC
(R304, R305), enumeration (R310), time (R312 to R315), events and system faults (R319, R320), blocks and
queue items (R321, R322).
-/

namespace Sys2Proof.Machine

/-! ## Fields -/

/-- JX_CFG.ID_MODE (R297). -/
def jxIdMode (s : State) : Bool := bit s.jx.cfg 3
/-- JX_CFG.JOIN: only on JX_CTRL.JOIN (R297). -/
def jxJoinCmd (s : State) : Bool := bit s.jx.cfg 4
/-- JX_CFG.ID (R297). -/
def jxFixedId (s : State) : Nat := field s.jx.cfg 17 8
/-- JX_CFG.LINK_WT (R297). -/
def jxLinkWt (s : State) : Nat := field s.jx.cfg 31 24
/-- Bytes of a frame's payload as a number. -/
def payNat (f : Frame) (at_ n : Nat) : Nat := ofBytes ((f.payload.drop at_).take n)

/-- The member receives frames: the port is enabled and the by-pass open (R323). -/
def receives (s : State) : Bool := jxEn s && !s.jx.bypassed
/-- The member has been FORMED and is not off the ring (R298). -/
def wasFormed (s : State) : Bool := s.jx.state == 3 || s.jx.state == 4

/-! ## RING_LOSS (R311) -/

/-- DETAIL of RING_LOSS. -/
def lossDetail (s : State) (cause : Nat) : Nat := cause + s.jx.upstream * 16

/-- RING_LOSS, or RING_LOSS_AUTO in the autonomous configuration. -/
def raiseLoss (s : State) (detail : Nat) : State :=
  if jxAutonomous s then send s 0x4F 0x404 detail else raiseState s 0x15 0x404 detail

/-- Causes 2, 3 and 7: the by-pass stays open. -/
def lossOpen (s : State) (cause : Nat) : State := raiseLoss s (lossDetail s cause)

/-- Causes 1, 4, 5 and 6: the by-pass is closed and the condition ends with that. -/
def lossClosed (s : State) (cause : Nat) : State :=
  let d := lossDetail s cause
  endState (raiseLoss (closeBypass s) d) 0x15 0x404

/-- FORMED: the condition ends. -/
def becomeFormed (s : State) : State := endState (updJx s fun j => { j with state := 3 }) 0x15 0x404

/-! ## Joining (R309, R323) -/

/-- JX_CTRL.JOIN. -/
def ringJoin (s : State) : State :=
  if s.mod.mode.operating && jxEn s && s.jx.bypassed then
    tryJoin (updJx s fun j => { j with joinReq := true })
  else s

/-- JX_CTRL.LEAVE. -/
def ringLeave (s : State) : State := updJx (closeBypass s) fun j => { j with joinReq := false }

/-- JX_CTRL.HOLD_ALL. -/
def ringHoldAll (s : State) : State := sendRingEvent s 0 (s.tb.now + s.seq.ringLead.toNat) true

/-- Step 1 of R309 ends. -/
def localTrained (s : State) (ok : Bool) : State :=
  if jxEn s && s.jx.bypassed && !s.jx.localOk && s.mod.mode.operating then
    if ok then tryJoin (updJx s fun j => { j with localOk := true, joinReq := j.joinReq || !bit j.cfg 4 })
    else lossClosed s 1
  else s

/-- Step 3 of R309 ends; a member whose links have trained before, a neighbour of a by-pass that has opened or closed
among them, records the retraining (R274, R309). -/
def linkTrained (s : State) : State :=
  if receives s then
    let s := if s.jx.linked then send s 0x4E 0x404 0 else s
    updJx s fun j => { j with linkOk := true, linked := true }
  else s

/-! ## Breaks (R298, R311, R315) -/

/-- FORMED ends in BROKEN; the master owes an enumeration. -/
def breakRing (s : State) : State :=
  updJx (leaveFormed s) fun j => { j with state := if j.state = 3 then 4 else j.state, enumPass := 0 }

/-- JX_LOSS_TMO has passed. -/
def lossTimeout (s : State) (noLock : Bool) : State :=
  if receives s && (wasFormed s || (s.jx.state == 2 && s.jx.id == 1023)) then
    breakRing (lossOpen s (if noLock then 2 else 3))
  else s

/-- JX_IN loses lock. -/
def lockLost (s : State) : State :=
  if receives s then updJx (breakRing s) fun j => { j with linkOk := false } else s

/-- 100 µs without a TIME frame. -/
def alignedLost (s : State) : State := updJx s fun j => { j with aligned := false, goodTimes := 0, enumPass := 0 }

/-! ## Forwarding (R302, R304, R305) -/

/-- LEN that a frame's type allows; other types are not consumed. -/
def frameKnown (f : Frame) : Bool :=
  match f.type with
  | 0x01 | 0x02 => f.len == 8
  | 0x03 | 0x10 | 0x11 => f.len == 16
  | 0x04 => f.len == 0
  | 0x12 => f.len == 32
  | 0x13 => f.len == 136
  | 0x20 => f.len == 4112
  | 0x21 =>
    let n := fieldN f.arg 24 16
    1 ≤ n && n ≤ 448 && f.len == (9 * n + 7) / 8 * 8
  | _ => false

/-- The frame has come all the way round. -/
def isOwn (s : State) (f : Frame) : Bool := s.jx.id < 1023 && f.src == s.jx.id
/-- The frame is for this member alone. -/
def isMine (s : State) (f : Frame) : Bool := s.jx.id < 1023 && f.dst == s.jx.id
/-- A member consumes its own frames and broadcasts; without an id only ENUM and TIME. -/
def consumes (s : State) (f : Frame) : Bool :=
  frameKnown f && (isMine s f || (f.dst == 1023 && (s.jx.id < 1023 || f.type == 0x12 || f.type == 0x13)))

/-- The member that sent a frame with HOPS 0 stands upstream. -/
def noteUpstream (s : State) (f : Frame) : State :=
  if f.hops = 0 then updJx s fun j => { j with upstream := f.src } else s

/-- DETAIL of RING_CRC. -/
def badDetail (f : Frame) : Nat := f.type % 256 + f.src % 1024 * 2 ^ 8 + f.dst % 1024 * 2 ^ 18

/-- The CRC check of a received frame fails: a stomped frame counts apart. -/
def noteBadCrc (s : State) (f : Frame) : State :=
  let now := s.tb.now
  if stomped f then updJx s fun j => { j with stompCnt := satInc j.stompCnt }
  else updJx s fun j => { j with
    crcCnt := satInc j.crcCnt, lastBad := badDetail f
    crcTimes := now :: j.crcTimes.filter fun t => now ≤ t + 800000 }

/-- Send a frame on: HOPS grows, and the trailer carries a right CRC or a stomped one. -/
def forward (s : State) (f : Frame) (ok : Bool) : State :=
  if 1023 ≤ f.hops + 1 then updJx s fun j => { j with orphanCnt := satInc j.orphanCnt }
  else
    let g := sealFrame { f with hops := f.hops + 1 }
    sendFrame s (if ok then g else { g with crc := g.crc ^^^ 0xFFFFFFFF })

/-- Receive a frame: its own frames come back to `back`, frames for this member reach `use`, and `through` is what it
forwards. -/
def receive (s : State) (f : Frame) (back use : State → Frame → State) (through : State → Frame → Frame) : State :=
  if !receives s then s
  else
    let ok := crcOk f
    let s := noteUpstream s f
    let s := if ok then s else noteBadCrc s f
    if isOwn s f then (if ok && frameKnown f then back s f else s)
    else if !consumes s f then forward s f ok
    else
      let t := if isMine s f then s else forward s (if ok then through s f else f) ok
      if ok then use t f else t

/-- A frame passes on as it came. -/
def unchanged (_ : State) (f : Frame) : Frame := f
/-- An own frame is removed and does nothing. -/
def dropOwn (s : State) (_ : Frame) : State := s

/-- A frame of a type that no member consumes (R302). -/
def transit (s : State) (f : Frame) : State := receive s f dropOwn dropOwn unchanged

/-- RING_CRC (R305). -/
def ringCrcDue (s : State) : State :=
  let n := (s.jx.crcTimes.filter fun t => s.tb.now ≤ t + 800000).length
  if s.jx.crcLim.toNat ≤ n then
    updJx (send s 0x14 0x404 s.jx.lastBad) fun j => { j with crcTimes := [] }
  else s

/-! ## Enumeration (R310) -/

/-- The payload of an ENUM frame. -/
def enumPayload (map sum : Nat) : List Byte := toBytes 128 map ++ toBytes 8 (sum % 2 ^ 32)

/-- Send a TIME or an ENUM frame, which the master expects back (R311). -/
def sendRound (s : State) (type arg : Nat) (payload : List Byte) : State :=
  sendNew (updJx s fun j => { j with roundTrip := (type, j.seqNo) :: j.roundTrip }) type 1023 arg payload

/-- A TIME or ENUM frame with this member's id is one that the master has sent and not yet seen again (A55). -/
def ownRound (s : State) (f : Frame) : Bool := s.jx.roundTrip.contains (f.type, f.seq)

/-- The frame has returned. -/
def endRound (s : State) (f : Frame) : State :=
  updJx s fun j => { j with roundTrip := j.roundTrip.erase (f.type, f.seq) }

/-- Send an ENUM frame; ARG[0] is the low bit of the pass. -/
def sendEnum (s : State) (pass map sum : Nat) : State := sendRound s 0x13 (pass % 2) (enumPayload map sum)

/-- The master starts an enumeration: bit 0 and its own share. -/
def startEnum (s : State) : State :=
  updJx (sendEnum s 1 1 s.jx.txShare.toNat) fun j => { j with enumPass := 1 }

/-- The id a member claims in pass 1. -/
def claimedId (s : State) : Option Nat :=
  if s.jx.id < 1023 then some s.jx.id else if jxIdMode s then some (jxFixedId s) else none

/-- The lowest clear bit among ids 0 to 1,022. -/
def lowestClear (map : Nat) : Option Nat := (List.range 1023).find? fun i => !map.testBit i

/-- The pass an ENUM frame belongs to is pass 1. -/
def isPass1 (f : Frame) : Bool := f.arg % 2 == 1

/-- The map and the share sum a member sends on. -/
def enumThrough (s : State) (f : Frame) : Frame :=
  let map := payNat f 0 128
  let sum := payNat f 128 4
  if jxMaster s then f
  else if isPass1 f then
    match claimedId s with
    | some i => if map.testBit i then f
      else { f with payload := enumPayload (map + 2 ^ i) (sum + s.jx.txShare.toNat) }
    | none => f
  else if s.jx.id < 1023 then f
  else match lowestClear map with
    | some i => { f with payload := enumPayload (map + 2 ^ i) sum }
    | none => f

/-- A member takes an ENUM frame. -/
def enumUse (s : State) (f : Frame) : State :=
  let map := payNat f 0 128
  if jxMaster s then lossClosed s 4
  else if isPass1 f then
    match claimedId s with
    | some i => if map.testBit i then lossClosed s 6 else updJx s fun j => { j with id := i }
    | none => s
  else if s.jx.id < 1023 then becomeFormed s
  else match lowestClear map with
    | some i => becomeFormed (updJx s fun j => { j with id := i })
    | none => lossClosed s 5

/-- Set bits of a map. -/
def countBits (map : Nat) : Nat := ((List.range 1024).filter fun i => map.testBit i).length

/-- The master's ENUM frame has returned; one of id 0 that it has not sent comes from another master (R311). -/
def enumBack (s : State) (f : Frame) : State :=
  let map := payNat f 0 128
  let sum := payNat f 128 4
  let own := ownRound s f
  let s := endRound s f
  if !jxMaster s then s
  else if !own then lossClosed s 4
  else if isPass1 f && s.jx.enumPass == 1 then
    if 10000 < sum then updJx (lossOpen s 7) fun j => { j with overbooked := true, enumPass := 0 }
    else updJx (sendEnum s 2 map sum) fun j => { j with enumPass := 2 }
  else if !isPass1 f && s.jx.enumPass == 2 then
    becomeFormed (updJx s fun j => { j with members := countBits map, enumPass := 3 })
  else s

/-- ENUM. -/
def takeEnum (s : State) (f : Frame) : State := receive s f enumBack enumUse enumThrough

/-! ## Time (R312 to R315) -/

/-- The payload of a TIME frame: T_M, CORR, LTOT, WACC, WTOT. -/
def timePayload (tm corr ltot wacc wtot : Nat) : List Byte :=
  toBytes 8 tm ++ toBytes 8 corr ++ toBytes 8 ltot ++ toBytes 4 wacc ++ toBytes 4 wtot

/-- The tick at which the next TIME frame is due: JX_TIME_PER after the last one (R312). -/
def timeDue (s : State) : Nat :=
  match s.jx.timeSent with
  | some t => t + s.jx.timePer.toNat
  | none => s.tb.now

/-- JX_TIME_SEND: T_M is the tick at which the frame begins on JX_OUT (R303, R306, R312). -/
def sendTime (s : State) : State :=
  if receives s && jxMaster s && !s.jx.overbooked && dueBy s (timeDue s) then
    let s := reachTick s (timeDue s)
    let t := s.tb.now
    let tm := urgentStart (lineNow s) (lineTo (lineNow s) s.jx.line) / 125
    sendRound (updJx s fun j => { j with timeSent := some t }) 0x12 0 (timePayload tm 0 s.jx.ltot 0 s.jx.wtot)
  else s

/-- The frame with this member's residence and weight. -/
def timeThrough (residence : Nat) (s : State) (f : Frame) : Frame :=
  if jxMaster s then f
  else
    let p := timePayload (payNat f 0 8) (payNat f 8 8 + residence) (payNat f 16 8)
      (payNat f 24 4 + jxLinkWt s) (payNat f 28 4)
    { f with payload := p }

/-- One TIME frame counts towards ALIGNED: the offset in ticks, 2.5 ns being 2 ticks. -/
def countTime (offset : Rat) (j : Jx) : Jx :=
  if absR offset ≤ 2 then
    { j with goodTimes := Nat.min (j.goodTimes + 1) 16, aligned := 16 ≤ j.goodTimes + 1 }
  else { j with goodTimes := 0, aligned := false }

/-- A list is ARMED or in a later state (R176, R314). -/
def anyListActive (s : State) : Bool := s.ch.toList.any fun h => h.sw.state != .idle
/-- A channel is RUNNING. -/
def anyRunning (s : State) : Bool := s.ch.toList.any fun h => h.state == .running

/-- JX_OUT's times after the count has stepped from one tick to another. -/
def shiftLine (a b : Nat) (l : JxLine) : JxLine :=
  let f (t : Nat) : Nat := t + 125 * b - 125 * a
  { l with clock := f l.clock, transit := l.transit.map fun x => (x.1, f x.2)
           reserved := l.reserved.map fun x => (x.1, f x.2) }

/-- The one step of the count to an estimate. -/
def stepTime (s : State) (est : Rat) : State :=
  let n := (roundEven est).toNat
  let s := updMod s fun m => { m with lifeAcc := lifeTicks s, lifeFrom := n }
  updTb (updJx s fun j => { j with line := shiftLine s.tb.now n j.line }) fun t =>
    { t with now := n, last := n / Nat.max t.act 1 * t.act, stepped := true }

/-- The estimate of R313 in ticks. -/
def timeEstimate (s : State) (f : Frame) : Rat :=
  let wtot := payNat f 28 4
  if wtot = 0 then Config.blindEstimate s.freshCount
  else (payNat f 0 8 : Rat) + (payNat f 8 8 : Rat) / 1024
    + (payNat f 16 8 : Rat) / 1024 * ((payNat f 24 4 + jxLinkWt s : Nat) : Rat) / (wtot : Rat)

/-- A member takes a TIME frame; in the autonomous configuration it measures its offset and keeps its own timebase
(R297). -/
def timeUse (s : State) (f : Frame) : State :=
  if jxMaster s then lossClosed s 4
  else
    let est := timeEstimate s f
    let off := est - (s.tb.now : Rat)
    let first := !s.jx.timed
    let s := if payNat f 28 4 = 0 then { s with freshCount := s.freshCount + 1 } else s
    let s := updJx s fun j => countTime off { j with timeErr := off / 800000000, timed := true }
    if first && !jxAutonomous s && !anyRunning s && !anyListActive s then stepTime s est else s

/-- The master's TIME frame has returned: LTOT and WTOT, and the enumeration a whole ring is owed. One of id 0 that it
has not sent comes from another master (R311). -/
def timeBack (s : State) (f : Frame) : State :=
  let own := ownRound s f
  let s := endRound s f
  if !jxMaster s then s
  else if !own then lossClosed s 4
  else
    let now := s.tb.now
    let s := updJx s fun j => countTime 0 { j with
      ltot := (now - payNat f 0 8) * 1024 - payNat f 8 8
      wtot := (payNat f 24 4 + field j.cfg 31 24) % 2 ^ 32, timeErr := 0, timed := true }
    if s.jx.enumPass = 0 && !s.jx.overbooked then startEnum s else s

/-- TIME. -/
def takeTime (s : State) (f : Frame) (residence : Nat) : State :=
  receive s f timeBack timeUse (timeThrough residence)

/-! ## Events and system faults (R278, R319, R320) -/

/-- A ring event arrives. -/
def eventUse (s : State) (f : Frame) : State :=
  takeRingEvent s ⟨payNat f 8 1 % 32, payNat f 0 8, payNat f 9 1 % 2 == 1⟩

/-- EVENT. -/
def takeEvent (s : State) (f : Frame) : State := receive s f dropOwn eventUse unchanged

/-- A system fault of another member; the same SRC and SEQ counts once. -/
def fault6Use (s : State) (f : Frame) : State :=
  if s.jx.seen6.contains (f.src, f.seq) then s
  else
    let w := payNat f 0 8
    send (updJx s fun j => { j with seen6 := (f.src, f.seq) :: j.seen6 })
      (fieldN w 63 56) (0x800 + f.src) (fieldN w 55 44)

/-- A copy of the own FAULT6 frame has returned. -/
def fault6Back (s : State) (f : Frame) : State :=
  updJx s fun j => { j with sent6 := j.sent6.filter fun g => g.seq != f.seq }

/-- FAULT6. -/
def takeFault6 (s : State) (f : Frame) : State := receive s f fault6Back fault6Use unchanged

/-- FAULT6_RESEND: every broadcast that has not returned is sent again. -/
def resendFault6 (s : State) : State := if onRing s then s.jx.sent6.foldl sendFrame s else s

/-! ## Blocks and queue items (R264, R265, R321, R322) -/

/-- The capture ring of a receive ring. -/
def rxRing (s : State) (r : Nat) : Option (Fin 31) :=
  let w := s.jx.rx[(⟨r % 8, Nat.mod_lt _ (by decide)⟩ : Fin 8)]
  if h : bit w 31 ∧ field w 4 0 < 31 then some ⟨field w 4 0, h.2⟩ else none

/-- A block arrives: a new block CRC is made over its data and its descriptor. -/
def blockUse (s : State) (f : Frame) : State :=
  if f.poison then send s 0x4B 0x404 0
  else match rxRing s (f.arg % 8) with
    | none => s
    | some n =>
      let head := f.payload.take 12
      let data := padBlock (f.payload.drop 16)
      writeBlock s n data (descBytes data head)

/-- BLOCK. -/
def takeBlock (s : State) (f : Frame) : State := receive s f dropOwn blockUse unchanged

/-- The items of a QITEMS frame; `bad` marks them CRC_BAD. -/
def frameItems (f : Frame) (bad : Bool) : List QItem :=
  let n := fieldN f.arg 24 16
  (List.range n).map fun i =>
    let tag : Byte := (f.payload.drop (8 * n + i)).headD 0
    ⟨BitVec.ofNat 64 (payNat f (8 * i) 8), if bad then tag ||| 8 else tag⟩

/-- The ring agent pushes the items of a frame, or drops the frame where its credits do not suffice. -/
def pushFrame (s : State) (f : Frame) (bad : Bool) : State :=
  let q : Fin 32 := ⟨f.arg % 32, Nat.mod_lt _ (by decide)⟩
  let items := frameItems f bad
  if qProd s.sq[q].cfg != 7 || !s.sq[q].en then s
  else if s.sq[q].credit < items.length then updJx s fun j => { j with qdropCnt := satInc j.qdropCnt }
  else items.foldl (fun s i => queueWrite s q i) s

/-- QITEMS: the items of a frame whose check failed are marked, so this row looks at the CRC itself. -/
def takeQitems (s : State) (f : Frame) : State :=
  if receives s && isMine s f && !isOwn s f && frameKnown f then
    let s := noteUpstream s f
    let s := if crcOk f then s else noteBadCrc s f
    pushFrame s f (!crcOk f || f.poison)
  else receive s f dropOwn dropOwn unchanged

/-- The ring egress has read block RP (R250, R264): it leaves in a BLOCK frame, poisoned where its block
CRC failed. -/
def egressBlock (s : State) (n : Fin 31) : State :=
  let r := s.sto.ring[n]
  if onRing s && ringActive s n && ringReader r.cfg == 9 && r.rp < r.wp then
    let (data, desc, ok) := readBlock s n
    let f := newFrame s 0x20 (field r.cfg 17 8) (field r.cfg 22 20)
      (desc.take 12 ++ List.replicate 4 0 ++ data)
    let s := sendFrame (updJx s fun j => { j with seqNo := (j.seqNo + 1) % 2 ^ 32 })
      (if ok then f else sealFrame { f with poison := true })
    advanceRp (if ok then s else blockBad s n) n
  else s

/-! ## Remote accesses that get no answer (R318) -/

/-- JX_RA_TIMEOUT. -/
def raTimeout (s : State) (m : Fin 2) : State :=
  updRa s m fun r => if r.busy then { r with busy := false, status := 4 } else r

end Sys2Proof.Machine
end

