-- ==== Sys2Proof/Machine/RegRead.lean ====
section
/-!
DEFINITION. Reading registers: the 64-bit registers by the address of their LO half (R12), the 32-bit registers
of the global blocks (R355 to R377), of the unit blocks (R382 to R395) and of the legacy window (R380), and
what a read changes: RC counters, locks, mailboxes, the history latches and the queue port (R11, R285, R259).
-/

namespace Sys2Proof.Machine

/-! ## Addresses -/

/-- The unit block space: comb, slot and offset of an address (R382). -/
def unitAddr (a : Nat) : Option (Fin 16 × Nat × Nat) :=
  if 0x01000000 ≤ a && a < 0x02000000 then
    some (⟨(a - 0x01000000) / 0x100000 % 16, Nat.mod_lt _ (by decide)⟩, a / 0x10000 % 16, a % 0x10000)
  else none

/-- The unit block of a slot 0 to 7. -/
def slotChan (c : Fin 16) (slot : Nat) : Fin 128 := chanAt c ⟨slot % 8, Nat.mod_lt _ (by decide)⟩

/-- The legacy window: channel and offset within its 32 bytes (R380). -/
def legacyAddr (a : Nat) : Option (Fin 128 × Nat) :=
  if 0x02000000 ≤ a && a < 0x02004000 && a % 0x1000 < 0x400 then
    some (chanOfNat (32 * (a / 0x1000 % 4) + 8 * (a % 0x1000 / 0x100) + a % 0x100 / 0x20), a % 0x20)
  else none

/-- The board of a legacy summary register. -/
def legacyBoard (a : Nat) : Option (Fin 4) :=
  if 0x02000000 ≤ a && a < 0x02004000 && a % 0x1000 == 0x800 then
    some ⟨a / 0x1000 % 4, Nat.mod_lt _ (by decide)⟩
  else none

/-- Instance i of a repeated register group: the offset lies in group `base + stride × i`, i < count. -/
def instOf (o base stride count : Nat) : Option (Nat × Nat) :=
  if base ≤ o && o < base + stride * count then some ((o - base) / stride, (o - base) % stride) else none

/-- A number reduced to an index. -/
def ix (n k : Nat) [NeZero n] : Fin n := ⟨k % n, Nat.mod_lt _ (Nat.pos_of_ne_zero (NeZero.ne n))⟩

/-- A 64-bit register of a number. -/
def num64 (n : Nat) : DWord := BitVec.ofNat 64 n

/-- The word at a byte offset of a byte sequence, little-endian. -/
def wordAt (bs : List Byte) (o : Nat) : Nat := ofBytes ((bs.drop o).take 4)

/-! ## 64-bit registers of the global blocks -/

/-- Identity and mode (R358). -/
def mod64 (s : State) (o : Nat) : Option DWord := if o = 0x038 then some (num64 (lifeSeconds s)) else none

/-- Timebase (R360). -/
def tb64 (s : State) (o : Nat) : Option DWord :=
  match o with
  | 0x000 => some (num64 s.tb.now)
  | 0x010 => some s.tb.at_
  | 0x020 => some (readout s.ldg.ts)
  | 0x028 => some (readout s.ldg.need)
  | _ => none

/-- Power and thermal (R362). -/
def pwr64 (s : State) (o : Nat) : Option DWord :=
  if o < 0x080 then
    let d : Fin 2 := ix 2 (o / 0x40)
    match o % 0x40 with
    | 0x00 => some s.pwr.budget[d]
    | 0x08 => some (readout s.pwr.factor[d])
    | 0x10 => some (readout s.pwr.p[d])
    | _ => none
  else if o % 8 != 0 then none
  else match instOf o 0x100 8 22, instOf o 0x200 8 22, instOf o 0x300 8 7 with
    | some (i, _), _, _ => some (readout s.pwr.temps[ix 22 i])
    | _, some (i, _), _ => some s.pwr.tlim[ix 22 i]
    | _, _, some (j, _) => some (readout s.pwr.rails[ix 7 j])
    | _, _, _ => none

/-- Capture and store (R369); an inactive ring reads 0. -/
def cap64 (s : State) (o : Nat) : Option DWord :=
  if o = 0x008 then some (num64 s.sto.permAddr)
  else match instOf o 0x1000 0x80 31 with
    | some (n, r) =>
      let n : Fin 31 := ix 31 n
      let on (v : Nat) : Option DWord := some (if ringActive s n then num64 v else 0)
      match r with
      | 0x10 => on s.sto.ring[n].wp
      | 0x18 => on s.sto.ring[n].rp
      | 0x20 => on s.sto.ring[n].mark
      | _ => none
    | none => none

/-- Calibration (R376). -/
def cal64 (s : State) (o : Nat) : Option DWord :=
  match o with
  | 0x10 => some s.cal.dt
  | 0x18 => some s.cal.tmax
  | 0x20 => some s.cal.tol
  | 0x28 => some s.cal.wait
  | _ => none

/-- A timer's place and offset (R377). -/
def timerOff? (o : Nat) : Option (Fin 64 × Nat) :=
  (instOf o 0x4000 0x40 64).map fun p => (ix 64 p.1, p.2)
/-- An encoder and offset (R377). -/
def encOff? (o : Nat) : Option (Fin 32 × Nat) :=
  (instOf o 0x1000 0x80 32).map fun p => (ix 32 p.1, p.2)

/-- Region sequencers (R377). -/
def seq64 (s : State) (o : Nat) : Option DWord :=
  if o = 0x0008 then some s.seq.ringLead
  else match encOff? o, timerOff? o with
    | some (n, r), _ =>
      let e := s.seq.enc[n]
      match r with
      | 0x10 => some e.offset
      | 0x18 => some e.scale
      | 0x20 => some (BitVec.ofInt 64 e.count)
      | 0x28 => some (BitVec.ofInt 64 e.zlatch)
      | _ => none
    | _, some (t, r) =>
      match r with
      | 0x08 => some s.seq.timer[t].start
      | 0x10 => some s.seq.timer[t].period
      | _ => none
    | _, _ => none

/-- LG_MEAS (R380). -/
def legacyMeas (h : Channel) : DWord :=
  match h.cfg.func with
  | .fv | .mi => readout h.ms.meas
  | .fi | .mv => readout h.ms.sense
  | _ => 0

/-- The value of the 64-bit register whose LO half lies at an address (R12). -/
def lo64 (s : State) (a : Nat) : Option DWord :=
  match unitAddr a, legacyAddr a with
  | some (c, slot, o), _ =>
    if slot < 8 then ch64 s (slotChan c slot) o
    else if slot = 8 then spare64 s.unit[unitAt c 8] o
    else none
  | _, some (c, r) =>
    match r with
    | 0x08 => some s.ch[c].pg.target
    | 0x10 => some (legacyMeas s.ch[c])
    | _ => none
  | _, _ =>
    let o := a % 0x10000
    match a / 0x10000 with
    | 0x0 => mod64 s o
    | 0x1 => tb64 s o
    | 0x2 => pwr64 s o
    | 0x6 => cap64 s o
    | 0x7 => if o = 0x030 then some (readout s.jx.timeErr) else none
    | 0x8 => (instOf o 0x1000 0x100 8).bind fun p => if p.2 = 0 then some s.dma[ix 8 p.1].base else none
    | 0xA => cal64 s o
    | 0xB => seq64 s o
    | _ => none

/-! ## 32-bit registers of the global blocks -/

/-- MOD_STATUS (R359). -/
def modStatus (s : State) : Nat :=
  let m := s.mod
  m.mode.code + flag m.cmdRej 4 + flag m.admitDenied 5 + flag s.pins.estopLow 6 + flag m.refclk10M 7
    + flag m.auto 8 + flag m.refSettled 9 + flag m.collStall 10

/-- Word i of the serial number. -/
def serialWord (s : State) (i : Nat) : Nat := fieldN s.mod.serial.toNat (32 * i + 31) (32 * i)

/-- Identity and mode (R358). -/
def modRead (s : State) (o : Nat) : Nat :=
  match o with
  | 0x000 => 0x91280001
  | 0x004 => s.mod.fw.toNat
  | 0x010 => serialWord s 0
  | 0x014 => serialWord s 1
  | 0x018 => serialWord s 2
  | 0x01C => serialWord s 3
  | 0x024 => modStatus s
  | 0x030 => s.mod.lifePon
  | 0x040 => s.mod.lifeLock
  | 0x044 => s.mod.lifeOpen
  | 0x050 => s.mod.scratch.toNat
  | _ => 0

/-- TB_LDG_WORST[15:0]: the smallest margin in units of 0.01%. -/
def marginBits (q : Rat) : Nat :=
  let v := q * 10000
  if v.den = 1 && -32768 ≤ v.num && v.num ≤ 32767 then (BitVec.ofInt 16 v.num).toNat
  else (Config.marginWord q).toNat

/-- TB_LDG_WORST; no account has a charge before the image is loaded. -/
def ldgWorst (s : State) : Nat :=
  if s.ldg.fixed then
    let (q, a) := worst s
    marginBits q + fld a.code 16 + fld a.inst 24
  else 0

/-- Timebase (R360). -/
def tbRead (s : State) (o : Nat) : Nat :=
  let t := s.tb
  match o with
  | 0x008 => t.frame
  | 0x00C => t.act
  | 0x018 => flag t.setRej 0 + flag t.admitDenied 1 + flag t.stepped 2 + flag (t.reqPend || t.changeAt.isSome) 3
  | 0x030 => ldgWorst s
  | 0x034 => s.ldg.vcore
  | 0x038 => s.ldg.vmin
  | _ => 0

/-- The bits of the kinds that satisfy a condition. -/
def kindBits (p : Nat → Bool) : Nat := (List.range 29).foldl (fun a k => if p k then a + 2 ^ k else a) 0

/-- FLT_OUTLVLi (R281). -/
def outLevels (f : Collector) (i : Nat) : Nat :=
  (List.range 8).foldl (fun a j => a + fld (outLevel f (8 * i + j)) (4 * j)) 0

/-- Fault collector (R363); the history slots are read apart. -/
def fltRead (s : State) (o : Nat) : Nat :=
  let f := s.flt
  match o with
  | 0x000 => kindBits (curOf f)
  | 0x004 => f.latch.toNat
  | 0x008 => kindBits fun k => outLevel f k != 0
  | 0x010 => outLevels f 0
  | 0x014 => outLevels f 1
  | 0x018 => outLevels f 2
  | 0x01C => outLevels f 3
  | 0x024 => flag f.ackRej 0 + flag f.hist.firstValid 1 + flag f.setRej 2
  | 0x02C => f.wagLevel + fld f.stopCause 8
  | 0x030 => f.hist.cnt
  | _ => 0

/-- The mailbox register at an offset of the MBX_ block: channel and H2C, and whether it is STAT (R365). -/
def mbxOff (o : Nat) : Option (Fin 20 × Bool × Bool) :=
  if o < 0x100 then some (nsNo (ix 16 (o / 16)), o % 16 < 8, o % 8 == 4) else none

/-- The master sends in a direction of an NS channel (R335). -/
def mbxSender (m : Master) (h2c : Bool) : Bool := if h2c then m == .host else m == .appCore
/-- The master receives in a direction of an NS channel. -/
def mbxReceiver (m : Master) (h2c : Bool) : Bool := if h2c then m == .appCore else m == .host

/-- The locks' owner mirrors (R343). -/
def lockMirror (s : State) (o : Nat) : Nat :=
  match instOf o 0x8100 4 64 with
  | some (i, _) => s.lock[ix 64 i]
  | none => 0

/-- SQn_STAT (R366). -/
def sqStat (q : Queue) : Nat :=
  flag q.cfgRej 0 + flag q.frameErr 1 + flag q.flushPend 2 + flag q.flushDone 3 + flag q.discarded 4
    + flag q.spErr 5 + flag q.admitDenied 6

/-- Stream queues (R366); the consumer port is read apart. -/
def sqRead (s : State) (o : Nat) : Nat :=
  match instOf o 0 0x100 32, instOf o 0x2000 4 4 with
  | some (n, r), _ =>
    let q := s.sq[ix 32 n]
    match r with
    | 0x00 => q.cfg.toNat
    | 0x04 => q.dest.toNat
    | 0x08 => flag q.en 0
    | 0x0C => sqStat q
    | 0x10 => q.credit
    | 0x14 => q.items.length
    | 0x18 => q.wm.toNat
    | 0x1C => q.spSeq.toNat
    | _ => 0
  | _, some (p, _) => s.pins.wmMap[ix 4 p].toNat
  | _, _ => 0

/-- A capture ring (R369). -/
def ringRead (s : State) (n : Fin 31) (r : Nat) : Nat :=
  let x := s.sto.ring[n]
  if !ringActive s n then 0
  else match r with
    | 0x00 => x.cfg.toNat
    | 0x08 => flag x.markValid 0 + flag x.markLost 1 + flag x.rewindErr 2 + flag x.overrun 3 + flag x.cfgRej 4
    | 0x28 => ringBlocks s n
    | 0x2C => x.drop
    | 0x30 => x.ovwr
    | _ => 0

/-- A capture stream (R369). -/
def strRead (s : State) (n : Fin 2048) (r : Nat) : Nat :=
  let x := s.sto.stream[n]
  match r with
  | 0x0 => x.cfg.toNat
  | 0x4 => x.age.toNat
  | 0xC => flag x.opened 0 + flag x.admitDenied 1 + flag x.cfgRej 2
  | _ => 0

/-- Capture and store (R369). -/
def capRead (s : State) (o : Nat) : Nat :=
  if o = 0 then flag s.sto.perm 0 + flag s.sto.wprot 1
  else match instOf o 0x100 0x10 32, instOf o 0x1000 0x80 31, instOf o 0x8000 0x10 2048 with
    | some (k, r), _, _ =>
      let p := s.sto.parts[ix 32 k]
      match r with
      | 0x0 => p.base
      | 0x4 => p.size
      | 0x8 => p.type
      | _ => 0
    | _, some (n, r), _ => ringRead s (ix 31 n) r
    | _, _, some (n, r) => strRead s (ix 2048 n) r
    | _, _, _ => 0

/-- JX_STATUS (R371). -/
def jxStatus (j : Jx) : Nat :=
  j.state + flag j.aligned 3 + flag j.wear 4 + fld (j.id % 1024) 8 + fld (j.members % 1024) 20

/-- The remote-access set that answers a master (R357, R371). -/
def raMaster (m : Master) : Option (Fin 2) :=
  match m with
  | .host => some 0
  | .appCore => some 1
  | _ => none

/-- A remote-access set's register at an offset, for its own master. -/
def raOff (m : Master) (o : Nat) : Option (Fin 2 × Nat) :=
  (instOf o 0x100 0x40 2).bind fun p => if raMaster m == some (ix 2 p.1) then some (ix 2 p.1, p.2) else none

/-- A register of a remote-access set (R371). -/
def raRead (r : RaSet) (o : Nat) : Nat :=
  match o with
  | 0x00 => r.addr.toNat
  | 0x04 => r.id.toNat
  | 0x08 => r.data0.toNat
  | 0x0C => r.data1.toNat
  | 0x14 => flag r.busy 0 + fld r.status 4 + flag r.rej 8
  | _ => 0

/-- Ring (R371). -/
def jxRead (s : State) (m : Master) (o : Nat) : Nat :=
  let j := s.jx
  match raOff m o with
  | some (k, r) => raRead j.ra[k] r
  | none =>
    match o with
    | 0x000 => j.cfg.toNat
    | 0x004 => j.txShare.toNat
    | 0x008 => j.lossTmo.toNat
    | 0x010 => jxStatus j
    | 0x018 => j.crcLim.toNat
    | 0x01C => j.timePer.toNat
    | 0x020 => j.crcCnt
    | 0x024 => j.stompCnt
    | 0x028 => j.orphanCnt
    | 0x02C => j.qdropCnt
    | 0x038 => j.bypCount
    | 0x040 => j.raTmo.toNat
    | _ => match instOf o 0x080 4 8 with
      | some (r, _) => j.rx[ix 8 r].toNat
      | none => 0

/-- A DMA engine (R373). -/
def dmaRead (d : Dma) (r : Nat) : Nat :=
  match r with
  | 0x08 => d.len.toNat
  | 0x0C => d.head
  | 0x10 => d.tail
  | 0x14 => flag d.en 0
  | 0x18 => d.cfg.toNat
  | 0x1C => flag d.cfgRej 0 + flag d.halted 1 + flag d.admitDenied 2 + flag d.discarded 3
  | _ => 0

/-- Host and DMA, with the MSI-X table and its pending bits (R327, R373). -/
def hstRead (s : State) (o : Nat) : Nat :=
  let h := s.hst
  match o with
  | 0x000 => h.vendor % 2 ^ 16 + h.pci.deviceId * 2 ^ 16
  | 0x004 => h.rate + fld h.width 4 + flag h.up 8 + flag h.d3hot 9
  | 0xF800 => (List.finRange 10).foldl (fun a i => a + flag h.msixPend[i] i.val) 0
  | _ =>
    match instOf o 0x1000 0x100 8, instOf o 0xF000 4 40 with
    | some (e, r), _ => dmaRead s.dma[ix 8 e] r
    | _, some (i, _) => h.msixTable[ix 40 i].toNat
    | _, _ => 0

/-- SEC_STATUS (R375). -/
def secStatus (x : Sec) : Nat :=
  flag x.auth 0 + flag x.busy 1 + flag x.bar2Deny 2 + flag x.attFactory 3 + flag x.decKey.isSome 4
    + flag x.imgKey.isSome 5 + flag x.hostKey.isSome 6 + flag x.lockout 7 + fld x.policy 8 + fld x.ksGen 16

/-- The bytes of a public key register, zeros where none is held. -/
def keyBytes (k : Option (BitVec 768)) : List Byte :=
  match k with
  | some v => bytes768 v
  | none => []

/-- Boot and security (R374). -/
def bootRead (s : State) (o : Nat) : Nat :=
  let x := s.sec
  match o with
  | 0x000 => s.boot.err + fld s.boot.step 8 + flag s.boot.octal 12 + flag s.boot.encrypted 13
  | 0x004 => s.boot.len
  | 0x008 => s.boot.time
  | 0x1000 => secStatus x
  | 0x1010 => serialWord s 0
  | 0x1014 => serialWord s 1
  | 0x1018 => serialWord s 2
  | 0x101C => serialWord s 3
  | 0x1400 => x.certLen
  | _ =>
    if 0x040 ≤ o && o < 0x070 then wordAt (bytes384 s.boot.hash) (o - 0x040)
    else if 0x1040 ≤ o && o < 0x1070 then wordAt (bytes384 x.nonce) (o - 0x1040)
    else if 0x1100 ≤ o && o < 0x1280 then wordAt x.buf.toList (o - 0x1100)
    else if 0x1300 ≤ o && o < 0x1360 then wordAt (keyBytes x.imgKey) (o - 0x1300)
    else if 0x1380 ≤ o && o < 0x13E0 then wordAt (keyBytes x.hostKey) (o - 0x1380)
    else if 0x1800 ≤ o && o < 0x2000 then wordAt x.cert (o - 0x1800)
    else 0

/-- Calibration (R376). -/
def calRead (s : State) (o : Nat) : Nat :=
  match o with
  | 0x000 => flag s.cal.autoEn 0
  | 0x004 => flag s.cal.setRej 0 +
      (List.finRange 16).foldl (fun a c => a + flag s.comb[c].run.isSome (16 + c.val)) 0
  | _ => 0

/-- Region sequencers (R377). -/
def seqRead (s : State) (o : Nat) : Nat :=
  let q := s.seq
  if o = 0 then flag q.lateEvt 0 + flag q.tmrRej 1 + flag q.setRej 2
  else match instOf o 0x100 4 16, encOff? o, timerOff? o with
    | some (n, _), _, _ => q.trig[ix 16 n].cfg.toNat
    | _, some (n, r), _ =>
      let e := q.enc[n]
      match r with
      | 0x00 => e.cfg.toNat
      | 0x04 => e.errRun.toNat
      | 0x08 => e.cpr.toNat
      | 0x30 => e.age
      | 0x34 => e.errCnt
      | _ => 0
    | _, _, some (t, r) =>
      let x := q.timer[t]
      match r with
      | 0x00 => x.cfg.toNat
      | 0x18 => x.count.toNat
      | 0x1C => x.fired % 2 ^ 32
      | _ => 0
    | _, _, _ => 0

/-- A legacy register (R380). -/
def legacyRead (s : State) (c : Fin 128) (r : Nat) : Nat :=
  let h := s.ch[c]
  match r with
  | 0x00 => if h.cfg.func = .servo then 7 else h.cfg.func.code
  | 0x04 => h.range.vReq + fld (if 8 ≤ h.range.iReq then 15 else h.range.iReq) 4
  | 0x18 => flag (h.state == .safed) 0 + flag h.inComp 1 + flag h.range.seq.isSome 2
      + flag (s.mod.mode == .lockdown) 3
  | _ => 0

/-- LG_BOARD_FAULT (R380). -/
def boardFault (s : State) (b : Fin 4) : Nat :=
  (List.finRange 4).foldl (fun a g => a +
    flag ((regionChans b).any fun c => c.val / 8 % 4 == g.val && s.ch[c].state == .safed) g.val) 0
    + flag (s.mod.mode == .lockdown) 8 + flag s.pins.estopLow 9

/-- A 32-bit register as a read shows it, where the read changes nothing but an RC counter. -/
def read32 (s : State) (m : Master) (a : Nat) : Nat :=
  match unitAddr a, legacyAddr a, legacyBoard a with
  | some (c, slot, o), _, _ =>
    if slot < 8 then chRead s (slotChan c slot) o
    else if slot = 8 then spareRead (unitAt c 8) s.unit[unitAt c 8] o
    else if slot = 15 then cmbRead s c o
    else 0
  | _, some (c, r), _ => legacyRead s c r
  | _, _, some b => boardFault s b
  | _, _, _ =>
    let o := a % 0x10000
    match a / 0x10000 with
    | 0x0 => modRead s o
    | 0x1 => tbRead s o
    | 0x2 => if o = 0x400 then flag s.pwr.setRej 0 else 0
    | 0x3 => fltRead s o
    | 0x4 => lockMirror s o
    | 0x5 => sqRead s o
    | 0x6 => capRead s o
    | 0x7 => jxRead s m o
    | 0x8 => hstRead s o
    | 0x9 => bootRead s o
    | 0xA => calRead s o
    | 0xB => seqRead s o
    | _ => 0

/-- What a read of an RC register clears (R11). -/
def readClear (s : State) (a : Nat) : State :=
  match unitAddr a with
  | some (c, slot, o) => if slot < 8 then updCh s (slotChan c slot) (chReadClear o) else s
  | none =>
    let o := a % 0x10000
    match a / 0x10000 with
    | 0x6 => match instOf o 0x1000 0x80 31 with
      | some (n, r) =>
        if !ringActive s (ix 31 n) then s
        else if r = 0x2C then updRing s (ix 31 n) fun x => { x with drop := 0 }
        else if r = 0x30 then updRing s (ix 31 n) fun x => { x with ovwr := 0 }
        else s
      | none => s
    | 0x7 => match o with
      | 0x020 => updJx s fun j => { j with crcCnt := 0 }
      | 0x024 => updJx s fun j => { j with stompCnt := 0 }
      | 0x028 => updJx s fun j => { j with orphanCnt := 0 }
      | 0x02C => updJx s fun j => { j with qdropCnt := 0 }
      | _ => s
    | 0xB => match encOff? o with
      | some (n, 0x34) => updEnc s n fun e => { e with errCnt := 0 }
      | _ => s
    | _ => s

/-! ## Reads that latch or take (R13, R285, R259, R337, R341) -/

/-- The entry a master holds under a key. -/
def heldOf {α : Type} (l : List (Nat × Nat × α)) (id a : Nat) : Option α :=
  (l.find? fun e => e.1 == id && e.2.1 == a).map fun e => e.2.2
/-- Replace it. -/
def holdNew {α : Type} (l : List (Nat × Nat × α)) (id a : Nat) (v : α) : List (Nat × Nat × α) :=
  (id, a, v) :: l.filter fun e => !(e.1 == id && e.2.1 == a)

/-- The entry of a history slot, or FLT_FIRST at 32. -/
def histEntry (f : Collector) (slot : Fin 33) : BitVec 128 :=
  if h : slot.val < 32 then f.hist.slots[slot.val] else f.hist.first

/-- The history word at an offset: slot and word 0 to 3 (R363). -/
def histOff (o : Nat) : Option (Fin 33 × Nat) :=
  if 0x040 ≤ o && o < 0x050 then some (32, (o - 0x040) / 4)
  else (instOf o 0x100 0x10 32).map fun p => (ix 33 p.1, p.2 / 4)

/-- A read of a history word: W0_LO latches the whole entry. -/
def histRead (s : State) (m : Master) (slot : Fin 33) (k : Nat) : Word × State :=
  let cur := histEntry s.flt slot
  if k = 0 then (cur.extractLsb' 0 32,
    updBus s fun b => { b with histLatches := holdNew b.histLatches m.id slot.val cur })
  else (((heldOf s.bus.histLatches m.id slot.val).getD cur).extractLsb' (32 * k) 32, s)

/-- SQn_CFG write refused or a port misused. -/
def sqRej (s : State) (n : Fin 32) : State := updQ s n fun q => { q with cfgRej := true }

/-- A read of SQn_RD_LO: it takes the item and latches its upper half and its tag (R259, R368). -/
def sqRdLo (s : State) (m : Master) (n : Fin 32) : Word × State :=
  if qCons s.sq[n].cfg != 0 then (0, sqRej s n)
  else
    let (i?, t) := takeItem s n
    let i : QItem := i?.getD ⟨0, 0⟩
    (loHalf i.data, updBus t fun b => { b with
      sqLatches := holdNew b.sqLatches m.id n.val (hiHalf i.data, i.tag) })

/-- What SQn_RD_HI and SQn_RD_TAG return: the latch, or without one the item a read would take (R13). -/
def sqHeld (s : State) (m : Master) (n : Fin 32) : Word × Byte :=
  match heldOf s.bus.sqLatches m.id n.val with
  | some p => p
  | none =>
    let i := if qCons s.sq[n].cfg == 0 then ((takeItem s n).1.getD ⟨0, 0⟩) else ⟨0, 0⟩
    (hiHalf i.data, i.tag)

/-- A read in the MBX_ and LOCK_ block. -/
def mbxBlockRead (s : State) (m : Master) (o : Nat) : Word × State :=
  match mbxOff o, instOf o 0x8000 4 64 with
  | some (n, h2c, isStat), _ =>
    let x := getMbx s n h2c
    if isStat then (wordOf (mbxStat x (mbxSender m h2c)), s)
    else if mbxReceiver m h2c then ((takeMsg x).1, updMbx s n h2c fun x => (takeMsg x).2)
    else (0, s)
  | _, some (i, _) => (lockWord s.lock[ix 64 i] m.id, takeLock s m.id (ix 64 i))
  | _, _ => (wordOf (lockMirror s o), s)

/-- A read in the secure window by the host: offset in BAR2 (R349). -/
def bar2Read (s : State) (o : Nat) : Word × State :=
  if !s.sec.auth then (0, updSec s fun x => { x with bar2Deny := true })
  else if o < 0x40 then
    let n := scNo (ix 4 (o / 16))
    match o % 16 with
    | 0x4 => (wordOf (mbxStat (getMbx s n true) true), s)
    | 0x8 => ((takeMsg (getMbx s n false)).1, updMbx s n false fun x => (takeMsg x).2)
    | 0xC => (wordOf (mbxStat (getMbx s n false) false), s)
    | _ => (0, s)
  else if 0x800 ≤ o && o < 0x1000 then (wordOf (wordAt s.sec.window.toList (o - 0x800)), s)
  else (0, s)

/-- The secure core's own reads of its SC registers and the secure buffer, at the offsets of BAR2 (R335, R336, R349;
A10). -/
def secRead (s : State) (o : Nat) : Word × State :=
  if o < 0x40 then
    let n := scNo (ix 4 (o / 16))
    match o % 16 with
    | 0x0 => ((takeMsg (getMbx s n true)).1, updMbx s n true fun x => (takeMsg x).2)
    | 0x4 => (wordOf (mbxStat (getMbx s n true) false), s)
    | 0xC => (wordOf (mbxStat (getMbx s n false) true), s)
    | _ => (0, s)
  else if 0x800 ≤ o && o < 0x1000 then (wordOf (wordAt s.sec.window.toList (o - 0x800)), s)
  else (0, s)

/-- A read in the secure window, by the secure core or by the host. -/
def windowRead (s : State) (m : Master) (o : Nat) : Word × State :=
  if m = .secCore then secRead s o else bar2Read s o

/-- Where BAR2 stands in this model's address operand: above the 32-bit space BAR0 maps (A10). -/
def bar2Base : Nat := 0x80000000

/-- A register access reaches the registers: aligned, in a mode that answers, from a master that is up (R9, R38, R48). -/
def answers (s : State) (m : Master) (a : Nat) : Bool :=
  a % 4 == 0 && a < 0x04000000 && masterUp s m &&
    match s.mod.mode with
    | .bypass => false
    | .boot => a < 0x10000 || (0x90000 ≤ a && a < 0x91000)
    | _ => true

/-- An access lies in the space of BAR2: the host's, or the secure core's from its side (A10). -/
def inBar2 (s : State) (m : Master) (a : Nat) : Bool :=
  (m == .host || m == .secCore) && masterUp s m && s.mod.mode != .bypass && a % 4 == 0 && bar2Base ≤ a &&
    a < bar2Base + 0x1000

/-- A read by a master: the word it returns and what it changes. -/
def busRead (s : State) (m : Master) (a : Nat) : Word × State :=
  if inBar2 s m a then windowRead s m (a - bar2Base)
  else if !answers s m a then (0, s)
  else
    let o := a % 0x10000
    match lo64 s a, lo64 s (a - 4) with
    | some v, _ => (loHalf v, updBus s fun b => { b with latches := holdNew b.latches m.id a (hiHalf v) })
    | none, some v =>
      if 4 ≤ a then ((heldOf s.bus.latches m.id (a - 4)).getD (hiHalf v), s) else (wordOf (read32 s m a), s)
    | none, none =>
      match a / 0x10000 with
      | 0x3 => match histOff o with
        | some (slot, k) => histRead s m slot k
        | none => (wordOf (read32 s m a), s)
      | 0x4 => mbxBlockRead s m o
      | 0x5 => match instOf o 0 0x100 32 with
        | some (n, 0x30) => sqRdLo s m (ix 32 n)
        | some (n, 0x34) => ((sqHeld s m (ix 32 n)).1, s)
        | some (n, 0x38) => ((sqHeld s m (ix 32 n)).2.setWidth 32, s)
        | _ => (wordOf (read32 s m a), s)
      | _ => (wordOf (read32 s m a), readClear s a)

/-- Every byte of the dword is enabled: the access is 32 bits wide (R9, R328). -/
def wholeDword (be : BitVec 4) : Bool := be == 0xF

/-- A register read as a command: the word is left in `bus.read`. An access narrower than a dword reads 0 and does
nothing (R9, R328). -/
def readRegister (s : State) (m : Master) (a : Nat) (be : BitVec 4) : State :=
  let (w, s) := if wholeDword be then busRead s m a else (0, s)
  updBus s fun b => { b with read := w }

end Sys2Proof.Machine
end

