-- ==== Sys2Proof/Machine/RegWrite.lean ====
section
/-!
DEFINITION. Writing registers: the commits of 64-bit registers (R14), the 32-bit registers of the global
blocks (R355 to R379) and of the legacy window (R380), each refused as R425 and the block's rules say.
-/

namespace Sys2Proof.Machine

/-! ## Rejection flags of R425 -/

/-- SEQ_STATUS.SET_REJ. -/
def seqRej (s : State) : State := updSeq s fun q => { q with setRej := true }
/-- SEQ_STATUS.TMR_REJ. -/
def tmrRej (s : State) : State := updSeq s fun q => { q with tmrRej := true }
/-- PWR_STATUS.SET_REJ. -/
def pwrRej (s : State) : State := updPwr s fun p => { p with setRej := true }
/-- CAL_STATUS.SET_REJ. -/
def calRej (s : State) : State := { s with cal := { s.cal with setRej := true } }
/-- DMA_STATUS.CFG_REJ. -/
def dmaRej (s : State) (e : Fin 8) : State := updDma s e fun d => { d with cfgRej := true }

/-- A binary64 value is valid and lies in [lo, hi]. -/
def inRange (lo hi : Rat) (v : DWord) : Bool := b64Valid v && decide (lo ≤ b64ToRat v ∧ b64ToRat v ≤ hi)

/-! ## 64-bit commits -/

/-- The upper end of a sensor's settable range (R35); the lower is 60 °C. -/
def tlimMax (i : Nat) : Rat := if i < 16 then 125 else if i = 16 then 110 else if i < 21 then 95 else 90

/-- Power and thermal (R34, R35, R362). -/
def pwr64Write (s : State) (o : Nat) (v : DWord) : State :=
  if o < 0x080 then
    if o % 0x40 != 0 then s
    else if inRange 5 40 v then updPwr s fun p => { p with budget := p.budget.set (ix 2 (o / 0x40)) v }
    else pwrRej s
  else match instOf o 0x200 8 22 with
    | some (i, _) =>
      if inRange 60 (tlimMax i) v then updPwr s fun p => { p with tlim := p.tlim.set (ix 22 i) v } else pwrRej s
    | none => s

/-- Calibration (R190, R376). -/
def cal64Write (s : State) (o : Nat) (v : DWord) : State :=
  match o with
  | 0x10 => if inRange (1 / 2) 20 v then { s with cal := { s.cal with dt := v } } else calRej s
  | 0x18 =>
    if inRange 60 2592000 v || inRange 0 0 v then { s with cal := { s.cal with tmax := v } } else calRej s
  | 0x20 => if inRange (1 / 2) 50 v then { s with cal := { s.cal with tol := v } } else calRej s
  | 0x28 => if inRange 0 1 v then { s with cal := { s.cal with wait := v } } else calRej s
  | _ => s

/-- Region sequencers (R157, R183, R184, R377 to R379). -/
def seq64Write (s : State) (o : Nat) (v : DWord) : State :=
  if o = 0x0008 then
    if v.toNat ≤ 1600000 then updSeq s fun q => { q with ringLead := v } else seqRej s
  else match encOff? o, timerOff? o with
    | some (n, 0x10), _ => updEnc s n fun e => { e with offset := v }
    | some (n, 0x18), _ => if b64Valid v then updEnc s n fun e => { e with scale := v } else seqRej s
    | _, some (t, 0x08) =>
      if tmrMode s.seq.timer[t].cfg = 0 then updTimer s t fun x => { x with start := v } else tmrRej s
    | _, some (t, 0x10) =>
      if tmrMode s.seq.timer[t].cfg = 0 && tmrPeriodOk v then updTimer s t fun x => { x with period := v }
      else tmrRej s
    | _, _ => s

/-- DMA_RING_BASE (R330, R373). -/
def dmaBaseWrite (s : State) (e : Fin 8) (v : DWord) : State :=
  if !s.dma[e].en && v.toNat % 32 == 0 then updDma s e fun d => { d with base := v } else dmaRej s e

/-- Commit the 64 bits of the register whose LO half lies at an address (R14). -/
def commit64 (s : State) (a : Nat) (v : DWord) : State :=
  match unitAddr a, legacyAddr a with
  | some (c, slot, o), _ => if slot < 8 then ch64Write s (slotChan c slot) o v else s
  | _, some (c, r) => if r = 0x08 then writeTarget s c v else s
  | _, _ =>
    let o := a % 0x10000
    match a / 0x10000 with
    | 0x1 => if o = 0x010 then writeFrameAt s v else s
    | 0x2 => pwr64Write s o v
    | 0x8 => match instOf o 0x1000 0x100 8 with
      | some (e, _) => dmaBaseWrite s (ix 8 e) v
      | none => s
    | 0xA => cal64Write s o v
    | 0xB => seq64Write s o v
    | _ => s

/-! ## 32-bit writes of the global blocks -/

/-- Identity and mode (R358, R359). -/
def modWrite (s : State) (o : Nat) (v : Word) : State :=
  match o with
  | 0x020 => writeModCtrl s v
  | 0x024 => updMod s fun m => { m with
      cmdRej := m.cmdRej && !bit v 4, admitDenied := m.admitDenied && !bit v 5 }
  | 0x050 => updMod s fun m => { m with scratch := v }
  | _ => s

/-- Timebase (R360, R361). -/
def tbWrite (s : State) (o : Nat) (v : Word) : State :=
  match o with
  | 0x008 => writeFrame s v
  | 0x018 => updTb s fun t => { t with
      setRej := t.setRej && !bit v 0, admitDenied := t.admitDenied && !bit v 1, stepped := t.stepped && !bit v 2 }
  | 0x038 => writeVmin s v
  | _ => s

/-- FLT_CTRL: HIST_CLR, then FIRST_CLR. -/
def writeFltCtrl (s : State) (v : Word) : State :=
  let s := if bit v 0 then clearHist s else s
  if bit v 1 then clearFirst s else s

/-- Fault collector (R363); a stalled collector takes no write. -/
def fltWrite (s : State) (o : Nat) (v : Word) : State :=
  if s.mod.collStall then s
  else match o with
    | 0x004 => updFlt (collect s) fun f => clearLatch f v
    | 0x020 => ackFaults s v
    | 0x024 => updFlt s fun f => { f with
        ackRej := f.ackRej && !bit v 0, ackRejBase := f.ackRejBase && !bit v 0, setRej := f.setRej && !bit v 2 }
    | 0x028 => writeFltCtrl s v
    | 0x02C => writeWaggle s v
    | _ => s

/-- A write in the MBX_ and LOCK_ block (R336, R337, R343, R365). -/
def mbxBlockWrite (s : State) (m : Master) (o : Nat) (v : Word) : State :=
  match mbxOff o, instOf o 0x8000 4 64 with
  | some (n, h2c, isStat), _ =>
    if mbxSender m h2c then updMbx s n h2c (if isStat then statW1c v else sendMsg v) else s
  | _, some (i, _) => writeLock s m.id (ix 64 i) v
  | _, _ => s

/-! ### Stream queues (R255, R259, R262, R366 to R368) -/

/-- SQn_CTRL: EN, then FLUSH. -/
def writeSqCtrl (s : State) (n : Fin 32) (v : Word) : State :=
  let s := writeQueueEn s n (bit v 0)
  if bit v 1 then updWm (updQ s n flushReq) else s

/-- SQn_STAT flags written as 1 clear. -/
def sqStatW1c (v : Word) (q : Queue) : Queue :=
  { q with
    cfgRej := q.cfgRej && !bit v 0, frameErr := q.frameErr && !bit v 1, flushDone := q.flushDone && !bit v 3
    discarded := q.discarded && !bit v 4, spErr := q.spErr && !bit v 5, admitDenied := q.admitDenied && !bit v 6 }

/-- A pair of watermarks SQn_WM may hold. -/
def wmOk (v : Word) : Bool :=
  1 ≤ field v 13 0 && field v 13 0 < field v 29 16 && field v 29 16 ≤ 8192

/-- The address of SQn_WR_LO. -/
def sqWrAddr (n : Fin 32) : Nat := 0x50000 + 0x100 * n.val + 0x20

/-- Stage SQn_WR_LO or SQn_WR_TAG for a master. -/
def stageWord (s : State) (m : Master) (a : Nat) (v : Word) : State :=
  updBus s fun b => { b with stages := holdNew b.stages m.id a v }

/-- A write of SQn_WR_HI: it pushes one item made from the staged words (R259, R368). -/
def sqWrHi (s : State) (m : Master) (n : Fin 32) (v : Word) : State :=
  if qProd s.sq[n].cfg != 0 then sqRej s n
  else
    let lo := (heldOf s.bus.stages m.id (sqWrAddr n)).getD 0
    let tag := (heldOf s.bus.stages m.id (sqWrAddr n + 8)).getD 0
    queueWrite s n ⟨joinHalves v lo, tag.setWidth 8⟩

/-- Stream queues. -/
def sqWrite (s : State) (m : Master) (o : Nat) (v : Word) : State :=
  match instOf o 0 0x100 32, instOf o 0x2000 4 4 with
  | some (n, r), _ =>
    let n : Fin 32 := ix 32 n
    let q := s.sq[n]
    match r with
    | 0x00 =>
      if !q.en && queueCfgFits s n v then updWm (updQ s n fun q => { q with cfg := v &&& 0xFFF1FFFF })
      else sqRej s n
    | 0x04 => if q.en then sqRej s n else updQ s n fun q => { q with dest := v &&& 0x001F03FF }
    | 0x08 => writeSqCtrl s n v
    | 0x0C => updQ s n (sqStatW1c v)
    | 0x18 => if wmOk v then updWm (updQ s n fun q => { q with wm := v &&& 0x3FFF3FFF }) else sqRej s n
    | 0x20 => stageWord s m (sqWrAddr n) v
    | 0x24 => sqWrHi s m n v
    | 0x28 => stageWord s m (sqWrAddr n + 8) v
    | _ => s
  | _, some (p, _) => updWm (updPins s fun x => { x with wmMap := x.wmMap.set (ix 4 p) (v &&& 0x8000001F) })
  | _, _ => s

/-! ### Capture (R250, R369, R370) -/

/-- An open stream writes a ring. -/
def ringWritten (s : State) (n : Fin 31) : Bool :=
  s.sto.stream.toList.any fun x => x.opened && strRing x.cfg == n.val

/-- A ring's reader is idle. -/
def readerIdle (s : State) (n : Fin 31) : Bool :=
  let r := s.sto.ring[n]
  let k := ringReader r.cfg
  if 1 ≤ k && k ≤ 8 then (let d := s.dma[(ix 8 (k - 1))]; !d.en || d.head == d.tail)
  else if k = 9 then r.wp ≤ r.rp || !onRing s
  else true

/-- POLICY or READER of a ring changes. -/
def ringCfgChanges (old new : Word) : Bool := field old 4 0 != field new 4 0

/-- CAP_RINGn_CFG. -/
def writeRingCfg (s : State) (n : Fin 31) (v : Word) : State :=
  if ringReader v ≤ 9 && (!ringCfgChanges s.sto.ring[n].cfg v || (!ringWritten s n && readerIdle s n)) then
    updRing s n fun r => { r with cfg := v &&& 0x0073FF1F }
  else updRing s n fun r => { r with cfgRej := true }

/-- CAP_RINGn_CTRL: bits in ascending order (R370). -/
def ringCtrl (v : Word) (r : CapRing) : CapRing :=
  let r := if bit v 0 then setRingMark r else r
  let r := if bit v 1 then clrRingMark r else r
  if bit v 2 then askRewind r else r

/-- A register of an active ring. -/
def ringWrite (s : State) (n : Fin 31) (r : Nat) (v : Word) : State :=
  if !ringActive s n then s
  else match r with
    | 0x00 => writeRingCfg s n v
    | 0x04 => updRing s n (ringCtrl v)
    | 0x08 => updRing s n fun x => { x with
        markLost := x.markLost && !bit v 1, rewindErr := x.rewindErr && !bit v 2
        overrun := x.overrun && !bit v 3, cfgRej := x.cfgRej && !bit v 4 }
    | _ => s

/-- CAP_STRs_CFG and CAP_STRs_AGE are written while the stream is closed, with fields in range (R425). -/
def strCfgWrite (ok : Bool) (f : Stream → Stream) (x : Stream) : Stream :=
  if !x.opened && ok then f x else { x with cfgRej := true }

/-- Every field of CAP_STRs_AGE is in range. -/
def ageOk (v : Word) : Bool := 1 ≤ field v 13 0 && field v 13 0 ≤ 10000 && 1 ≤ field v 31 16

/-- CAP_STRs_CTRL. -/
def writeStrCtrl (s : State) (n : Fin 2048) (v : Word) : State :=
  if bit v 0 && bit v 1 then updStream s n fun x => { x with cfgRej := true }
  else if bit v 0 then openStr s n
  else if bit v 1 then closeStr s n
  else s

/-- A register of a stream. -/
def strWrite (s : State) (n : Fin 2048) (r : Nat) (v : Word) : State :=
  match r with
  | 0x0 => updStream s n (strCfgWrite (strSrc v ≤ 9 && strRing v ≤ 30) fun x => { x with cfg := v &&& 0xFFFF })
  | 0x4 => updStream s n (strCfgWrite (ageOk v) fun x => { x with age := v &&& 0xFFFF3FFF })
  | 0x8 => writeStrCtrl s n v
  | 0xC => updStream s n fun x => { x with
      admitDenied := x.admitDenied && !bit v 1, cfgRej := x.cfgRej && !bit v 2 }
  | _ => s

/-- Capture and store (R369). -/
def capWrite (s : State) (o : Nat) (v : Word) : State :=
  if o = 0 then updSto s fun t => { t with perm := t.perm && !bit v 0, wprot := t.wprot && !bit v 1 }
  else match instOf o 0x1000 0x80 31, instOf o 0x8000 0x10 2048 with
    | some (n, r), _ => ringWrite s (ix 31 n) r v
    | _, some (n, r) => strWrite s (ix 2048 n) r v
    | _, _ => s

/-! ### Ring (R371, R372) -/

/-- JX_CTRL. -/
def writeJxCtrl (s : State) (v : Word) : State :=
  if bit v 0 && bit v 1 then s
  else
    let s := if bit v 0 then ringJoin s else s
    let s := if bit v 1 then ringLeave s else s
    if bit v 2 then ringHoldAll s else s

/-- A register of a remote-access set but JX_RAm_CMD (R372). -/
def raWrite (r : RaSet) (o : Nat) (v : Word) : RaSet :=
  if r.busy then { r with rej := true }
  else match o with
    | 0x00 => { r with addr := v }
    | 0x04 => { r with id := v &&& 0x3FF }
    | 0x08 => { r with data0 := v }
    | 0x0C => { r with data1 := v }
    | 0x14 => { r with rej := r.rej && !bit v 8 }
    | _ => r

/-- Ring; JX_RAm_CMD is written apart. -/
def jxWrite (s : State) (m : Master) (o : Nat) (v : Word) : State :=
  match raOff m o with
  | some (k, r) => if r ≤ 0x0C || r = 0x14 then updRa s k fun x => raWrite x r v else s
  | none =>
    match o with
    | 0x014 => writeJxCtrl s v
    | 0x018 => if 1 ≤ field v 7 0 then updJx s fun j => { j with crcLim := v &&& 0xFF } else s
    | 0x01C =>
      if 800 ≤ field v 16 0 && field v 16 0 ≤ 80000 then updJx s fun j => { j with timePer := v &&& 0x1FFFF } else s
    | 0x040 =>
      if 10 ≤ field v 16 0 && field v 16 0 ≤ 100000 then updJx s fun j => { j with raTmo := v &&& 0x1FFFF } else s
    | _ => s

/-! ### Host and DMA (R327, R330, R333, R334, R373) -/

/-- DMA_CTRL: ABORT clears EN whatever the write says of it. -/
def writeDmaCtrl (s : State) (e : Fin 8) (v : Word) : State :=
  if bit v 1 then dmaAbort s e else dmaEnable s e (bit v 0)

/-- A register of a DMA engine. -/
def dmaWrite (s : State) (e : Fin 8) (r : Nat) (v : Word) : State :=
  let d := s.dma[e]
  match r with
  | 0x08 =>
    if !d.en && 2 ≤ field v 16 0 && field v 16 0 ≤ 65536 then updDma s e fun d => { d with len := v &&& 0x1FFFF }
    else dmaRej s e
  | 0x10 => dmaTail s e v
  | 0x14 => writeDmaCtrl s e v
  | 0x18 => if !d.en && field v 5 0 ≤ 48 then updDma s e fun d => { d with cfg := v &&& 0x13F } else dmaRej s e
  | 0x1C => updDma s e fun d => { d with
      cfgRej := d.cfgRej && !bit v 0, halted := d.halted && !bit v 1
      admitDenied := d.admitDenied && !bit v 2, discarded := d.discarded && !bit v 3 }
  | _ => s

/-- Host and DMA. -/
def hstWrite (s : State) (o : Nat) (v : Word) : State :=
  match instOf o 0x1000 0x100 8, instOf o 0xF000 4 40 with
  | some (e, r), _ => dmaWrite s (ix 8 e) r v
  | _, some (i, _) => updHst s fun h => { h with msixTable := h.msixTable.set (ix 40 i) v }
  | _, _ => s

/-! ### Boot and security (R348, R374, R375) -/

/-- SEC_AUTH_CTRL: START, then VERIFY. -/
def writeAuthCtrl (s : State) (v : Word) : State :=
  let s := if bit v 0 then authStart s else s
  if bit v 1 then authVerify s else s

/-- Boot and security. -/
def bootWrite (s : State) (o : Nat) (v : Word) : State :=
  match o with
  | 0x1000 => updSec s fun x => { x with bar2Deny := x.bar2Deny && !bit v 2 }
  | 0x1004 => writeAuthCtrl s v
  | _ =>
    if 0x1100 ≤ o && o < 0x1280 && !s.sec.busy then updSec s fun x => putAuth x (o - 0x1100) (toBytes 4 v.toNat)
    else s

/-! ### Calibration (R189, R376) -/

/-- CAL_CTRL.REQ_ALL. -/
def reqAllUnits (s : State) : State :=
  { s with unit := s.unit.map fun u => if u.running then u else { u with dueReq := true } }

/-- Calibration. -/
def calWrite (s : State) (o : Nat) (v : Word) : State :=
  match o with
  | 0x000 =>
    let s := { s with cal := { s.cal with autoEn := bit v 0 } }
    if bit v 1 then reqAllUnits s else s
  | 0x004 => { s with cal := { s.cal with setRej := s.cal.setRej && !bit v 0 } }
  | _ => s

/-! ### Region sequencers (R165, R182, R183, R377 to R379) -/

/-- The channels that read an encoder. -/
def encReaders (s : State) (n : Fin 32) : List (Fin 128) :=
  (List.finRange 128).filter fun c => readsEnc s.ch[c].cfg n

/-- A structural encoder write: refused while a channel that reads the encoder is not STOPPED. -/
def encStruct (s : State) (n : Fin 32) (ok : Bool) (f : Encoder → Encoder) : State :=
  let busy := (encReaders s n).filter fun c => s.ch[c].state != .stopped
  if !busy.isEmpty then busy.foldl (fun s c => updCh s c fun h => { h with structRej := true }) s
  else if ok then updEnc s n f
  else seqRej s

/-- A register of an encoder input. -/
def encWrite (s : State) (n : Fin 32) (r : Nat) (v : Word) : State :=
  match r with
  | 0x00 => encStruct s n (encCfgOk v) fun e => { e with cfg := v &&& 0x1FFFFF1F, zFirst := none }
  | 0x04 => encStruct s n true fun e => { e with errRun := v &&& 0xF }
  | 0x08 => encStruct s n true fun e => { e with cpr := v }
  | _ => s

/-- A timer's CFG: enabling it restarts its firings from now. -/
def writeTimerCfg (now : Nat) (v : Word) (t : Timer) : Timer :=
  if tmrMode t.cfg = 0 && tmrMode v != 0 then { t with cfg := v &&& 0x1FF03, fired := 0, enabledAt := now }
  else { t with cfg := v &&& 0x1FF03 }

/-- A register of a timer. -/
def timerWrite (s : State) (t : Fin 64) (r : Nat) (v : Word) : State :=
  match r with
  | 0x00 =>
    let now := s.tb.now
    if tmrCfgOk v then updTimer s t (writeTimerCfg now v) else tmrRej s
  | 0x18 => if tmrMode s.seq.timer[t].cfg = 0 then updTimer s t fun x => { x with count := v } else tmrRej s
  | _ => s

/-- A TRIG pin's CFG; ROLE stays. -/
def writeTrigCfg (s : State) (n : Fin 16) (v : Word) : State :=
  if 8 ≤ field v 31 16 then updTrig s n fun p => { p with cfg := (v &&& 0xFFFFFF04) ||| (p.cfg &&& 3) }
  else seqRej s

/-- Region sequencers. -/
def seqWrite (s : State) (o : Nat) (v : Word) : State :=
  if o = 0 then updSeq s fun q => { q with
    lateEvt := q.lateEvt && !bit v 0, tmrRej := q.tmrRej && !bit v 1, setRej := q.setRej && !bit v 2 }
  else match instOf o 0x100 4 16, encOff? o, timerOff? o, instOf o 0x6000 4 4 with
    | some (n, _), _, _, _ => writeTrigCfg s (ix 16 n) v
    | _, some (n, r), _, _ => encWrite s n r v
    | _, _, some (t, r), _ => timerWrite s t r v
    | _, _, _, some (r, _) => regionEvent s (ix 4 r) v
    | _, _, _, _ => s

/-! ### Legacy window (R380, R381) -/

/-- LG_RANGE: an alias of CH_RANGE; a channel with a booster table keeps its IRANGE. -/
def legacyRange (s : State) (c : Fin 128) (v : Word) : State :=
  let h := s.ch[c]
  if usesBooster h.cfg then
    let w := wordOf (field v 1 0 + fld h.range.iReq 4)
    writeRange (updRange s c fun r => { r with rangeRej := true }) c w
  else writeRange s c v

/-- A legacy register. -/
def legacyWrite (s : State) (c : Fin 128) (r : Nat) (v : Word) : State :=
  match r with
  | 0x00 =>
    if field v 2 0 ≤ 4 then updCh s c (writeFunc (field v 2 0)) else updCh s c fun h => { h with structRej := true }
  | 0x04 => legacyRange s c v
  | _ => s

/-! ### Any 32-bit register -/

/-- A write of a register that is no half of a 64-bit one. -/
def write32 (s : State) (m : Master) (a : Nat) (v : Word) : State :=
  match unitAddr a, legacyAddr a with
  | some (c, slot, o), _ =>
    if slot < 8 then chWrite s (slotChan c slot) o v
    else if slot = 8 then
      match o with
      | 0x6000 => writeSpareCmd s c v
      | 0x6004 => updUnit s (unitAt c 8) (calStatW1c v)
      | _ => s
    else if slot = 15 then cmbWrite s c o v
    else s
  | _, some (c, r) => legacyWrite s c r v
  | _, _ =>
    let o := a % 0x10000
    match a / 0x10000 with
    | 0x0 => modWrite s o v
    | 0x1 => tbWrite s o v
    | 0x2 => if o = 0x400 then updPwr s fun p => { p with setRej := p.setRej && !bit v 0 } else s
    | 0x3 => fltWrite s o v
    | 0x4 => mbxBlockWrite s m o v
    | 0x5 => sqWrite s m o v
    | 0x6 => capWrite s o v
    | 0x7 => jxWrite s m o v
    | 0x8 => hstWrite s o v
    | 0x9 => bootWrite s o v
    | 0xA => calWrite s o v
    | 0xB => seqWrite s o v
    | _ => s

/-- Replace four bytes of the secure buffer. -/
def putWindowWord (s : State) (o : Nat) (v : Word) : State :=
  let bs := toBytes 4 v.toNat
  updSec s fun x => { x with window := Vector.ofFn fun i : Fin 2048 =>
    if o ≤ i.val && i.val < o + 4 then (bs[i.val - o]?).getD 0 else x.window[i] }

/-- A write in the secure window by the host: offset in BAR2 (R349). -/
def bar2Write (s : State) (o : Nat) (v : Word) : State :=
  if !s.sec.auth then updSec s fun x => { x with bar2Deny := true }
  else if o < 0x40 then
    let n := scNo (ix 4 (o / 16))
    match o % 16 with
    | 0x0 => updMbx s n true (sendMsg v)
    | 0x4 => updMbx s n true (statW1c v)
    | _ => s
  else if 0x800 ≤ o && o < 0x1000 then putWindowWord s (o - 0x800) v
  else s

/-- The secure core's own writes: it sends C2H while a session is open, and clears its flags (R336, R339, R349; A10). -/
def secWrite (s : State) (o : Nat) (v : Word) : State :=
  if o < 0x40 then
    let n := scNo (ix 4 (o / 16))
    match o % 16 with
    | 0x8 => if s.sec.auth then updMbx s n false (sendMsg v) else s
    | 0xC => updMbx s n false (statW1c v)
    | _ => s
  else if 0x800 ≤ o && o < 0x1000 then putWindowWord s (o - 0x800) v
  else s

/-- A write in the secure window, by the secure core or by the host. -/
def windowWrite (s : State) (m : Master) (o : Nat) (v : Word) : State :=
  if m = .secCore then secWrite s o v else bar2Write s o v

/-- The ring agent cannot write the boot and security block (R318, R357). -/
def mayWrite (m : Master) (a : Nat) : Bool := m != .ringAgent || !(0x90000 ≤ a && a < 0xA0000)

/-- Which half of a 64-bit register, if any, lies at an address. -/
inductive Half where
  | lo | hi | none
  deriving DecidableEq, Repr

/-- See `Half`. -/
def halfOf (s : State) (a : Nat) : Half :=
  if (lo64 s a).isSome then .lo else if 4 ≤ a && (lo64 s (a - 4)).isSome then .hi else .none

/-- A write of a HI register commits with the bits the same master has staged (R14). -/
def commitHi (s : State) (m : Master) (a : Nat) (v : Word) : State :=
  commit64 s (a - 4) (joinHalves v ((heldOf s.bus.stages m.id (a - 4)).getD 0))

/-- A write by a master, JX_RAm_CMD excepted. -/
def busWriteBase (s : State) (m : Master) (a : Nat) (v : Word) : State :=
  if inBar2 s m a then windowWrite s m (a - bar2Base) v
  else if !answers s m a || !mayWrite m a then s
  else match halfOf s a with
    | .lo => stageWord s m a v
    | .hi => commitHi s m a v
    | .none => write32 s m a v

end Sys2Proof.Machine
end

