-- ==== Sys2Proof/Machine/Remote.lean ====
section
/-!
DEFINITION. Remote register access: the commands of a JX_RA set (R316, R318, R372), the requests a member
serves as ring agent (R317), their replies, and the complete write of a register by a master.
-/

namespace Sys2Proof.Machine

/-- Status codes of R318. -/
inductive RaStatus where
  | ok | noModule | addr | discarded | timeout | bcastRead
  deriving DecidableEq, Repr

/-- The code in JX_RAm_STAT[6:4] and in a response's ARG. -/
def RaStatus.code : RaStatus → Nat
  | .ok => 0 | .noModule => 1 | .addr => 2 | .discarded => 3 | .timeout => 4 | .bcastRead => 5

/-! ## Running a request as ring agent (R317) -/

/-- An address of n words that the ring agent may not reach: at or above 0x0400_0000, or, for a write, in the
boot and security block. -/
def addrRefused (wr : Bool) (a n : Nat) : Bool :=
  let last := a + 4 * (n - 1)
  0x04000000 ≤ last || (wr && ((0x90000 ≤ a && a < 0xA0000) || (0x90000 ≤ last && last < 0xA0000)))

/-- Read one or two words whole. -/
def agentRead (s : State) (a n : Nat) : RaStatus × Word × Word × State :=
  if addrRefused false a n then (.addr, 0, 0, s)
  else
    let (w0, s) := busRead s .ringAgent a
    if n = 2 then
      let (w1, s) := busRead s .ringAgent (a + 4)
      (.ok, w0, w1, s)
    else (.ok, w0, 0, s)

/-- Write one or two words whole. -/
def agentWrite (s : State) (a n : Nat) (w0 w1 : Word) : RaStatus × State :=
  if addrRefused true a n then (.addr, s)
  else
    let s := busWriteBase s .ringAgent a w0
    (.ok, if n = 2 then busWriteBase s .ringAgent (a + 4) w1 else s)

/-! ## Issuing an access (R316, R318) -/

/-- An access ends with a status. -/
def raEnd (s : State) (m : Fin 2) (st : RaStatus) : State :=
  updRa s m fun r => { r with busy := false, status := st.code }

/-- A read ends with its words. -/
def raWords (s : State) (m : Fin 2) (st : RaStatus) (n : Nat) (w0 w1 : Word) : State :=
  if st = .ok then
    updRa (raEnd s m st) m fun r => { r with data0 := w0, data1 := if n = 2 then w1 else r.data1 }
  else raEnd s m st

/-- An access to the member's own id, or with no ring port any broadcast write (R297, R316). -/
def raLocal (s : State) (id : Nat) : Bool := (s.jx.id < 1023 && id == s.jx.id) || (!jxEn s && id == 1023)

/-- A request goes out: the set is BUSY until a reply, its return or JX_RA_TMO. -/
def raSend (s : State) (m : Fin 2) (two : Bool) (type id n : Nat) (payload : List Byte) : State :=
  let q := s.jx.seqNo
  let s := updRa s m fun r => { r with busy := true, seq := q, two := two, bcast := id == 1023 }
  if onRing s then sendNew s type id n payload
  else updJx s fun j => { j with seqNo := (j.seqNo + 1) % 2 ^ 32 }

/-- JX_RAm_CMD.READ. -/
def issueRead (s : State) (m : Fin 2) (two : Bool) : State :=
  let r := s.jx.ra[m]
  let id := r.id.toNat
  let a := r.addr.toNat
  let n := if two then 2 else 1
  if r.busy then updRa s m fun r => { r with rej := true }
  else if id = 1023 then raEnd s m .bcastRead
  else if raLocal s id then
    let (st, w0, w1, t) := agentRead s a n
    raWords t m st n w0 w1
  else raSend s m two 0x01 id n (toBytes 8 a)

/-- The payload of a WR_REQ: the address as in RD_REQ, then the words. -/
def writePayload (a n : Nat) (w0 w1 : Word) : List Byte :=
  toBytes 8 a ++ toBytes 4 w0.toNat ++ toBytes 4 (if n = 2 then w1.toNat else 0)

/-- JX_RAm_CMD.WRITE. -/
def issueWrite (s : State) (m : Fin 2) (two : Bool) : State :=
  let r := s.jx.ra[m]
  let id := r.id.toNat
  let a := r.addr.toNat
  let n := if two then 2 else 1
  if r.busy then updRa s m fun r => { r with rej := true }
  else if raLocal s id then
    let (st, t) := agentWrite s a n r.data0 r.data1
    raEnd t m st
  else raSend s m two 0x03 id n (writePayload a n r.data0 r.data1)

/-- A write of JX_RAm_CMD (R372). -/
def writeRaCmd (s : State) (m : Fin 2) (v : Word) : State :=
  if s.jx.ra[m].busy || bit v 0 == bit v 1 then updRa s m fun r => { r with rej := true }
  else if bit v 0 then issueRead s m (bit v 4)
  else issueWrite s m (bit v 4)

/-! ## Frames (R302, R304, R317, R318) -/

/-- The words a request counts. -/
def reqWords (f : Frame) : Nat := if f.arg % 4 = 2 then 2 else 1

/-- RD_REQ reaches its destination: a broadcast read does not exist. -/
def rdReqUse (s : State) (f : Frame) : State :=
  if f.dst = 1023 then s
  else
    let n := reqWords f
    let (st, w0, w1, t) := agentRead s (payNat f 0 4) n
    sendReply t 0x02 f st.code (toBytes 4 w0.toNat ++ toBytes 4 w1.toNat)

/-- The set whose request came back, by its SEQ. -/
def raOfSeq (s : State) (q : Nat) : Option (Fin 2) :=
  (List.finRange 2).find? fun m => s.jx.ra[m].busy && s.jx.ra[m].seq == q

/-- RD_REQ has come all the way round: no such module. -/
def reqBack (s : State) (f : Frame) : State :=
  match raOfSeq s f.seq with
  | some m => raEnd s m .noModule
  | none => s

/-- RD_REQ. -/
def takeRdReq (s : State) (f : Frame) : State := receive s f reqBack rdReqUse unchanged

/-- WR_REQ reaches a member: only a single destination answers. -/
def wrReqUse (s : State) (f : Frame) : State :=
  let (st, t) := agentWrite s (payNat f 0 4) (reqWords f) (wordOf (payNat f 8 4)) (wordOf (payNat f 12 4))
  if f.dst = 1023 then t else sendReply t 0x04 f st.code []

/-- WR_REQ has come all the way round: a broadcast runs on its sender too, whether or not its set still waits for it
(R317, R318). -/
def wrReqBack (s : State) (f : Frame) : State :=
  if f.dst = 1023 then
    let (st, t) := agentWrite s (payNat f 0 4) (reqWords f) (wordOf (payNat f 8 4)) (wordOf (payNat f 12 4))
    match raOfSeq t f.seq with
    | some m => raEnd t m st
    | none => t
  else reqBack s f

/-- WR_REQ. -/
def takeWrReq (s : State) (f : Frame) : State := receive s f wrReqBack wrReqUse unchanged

/-- RD_RSP reaches the requester. -/
def rdRspUse (s : State) (f : Frame) : State :=
  match raOfSeq s f.seq with
  | some m =>
    let ok := f.arg % 16 = 0
    let two := s.jx.ra[m].two
    let w0 := wordOf (payNat f 0 4)
    let w1 := wordOf (payNat f 4 4)
    updRa s m fun r =>
      let r := { r with busy := false, status := f.arg % 8 }
      if ok then { r with data0 := w0, data1 := if two then w1 else r.data1 } else r
  | none => s

/-- RD_RSP. -/
def takeRdRsp (s : State) (f : Frame) : State := receive s f dropOwn rdRspUse unchanged

/-- WR_RSP reaches the requester. -/
def wrRspUse (s : State) (f : Frame) : State :=
  match raOfSeq s f.seq with
  | some m => updRa s m fun r => { r with busy := false, status := f.arg % 8 }
  | none => s

/-- WR_RSP. -/
def takeWrRsp (s : State) (f : Frame) : State := receive s f dropOwn wrRspUse unchanged

/-! ## Frames that arrive (R302, R304) -/

/-- A frame arrives at JX_IN and is taken by its TYPE; `residence` is what the member adds to the CORR of a TIME frame
(R313). -/
def arrive (residence : Nat) (s : State) (f : Frame) : State :=
  match f.type with
  | 0x01 => takeRdReq s f
  | 0x02 => takeRdRsp s f
  | 0x03 => takeWrReq s f
  | 0x04 => takeWrRsp s f
  | 0x10 => takeEvent s f
  | 0x11 => takeFault6 s f
  | 0x12 => takeTime s f residence
  | 0x13 => takeEnum s f
  | 0x20 => takeBlock s f
  | 0x21 => takeQitems s f
  | _ => transit s f

/-! ## Register writes as commands (R9, R14, R328, R425): a write narrower than a dword has no effect -/

/-- A LO register is staged. -/
def writeLo (s : State) (m : Master) (a : Nat) (be : BitVec 4) (v : Word) : State :=
  if wholeDword be && answers s m a && mayWrite m a && halfOf s a == .lo then stageWord s m a v else s

/-- A HI register commits. -/
def writeHi (s : State) (m : Master) (a : Nat) (be : BitVec 4) (v : Word) : State :=
  if wholeDword be && answers s m a && mayWrite m a && halfOf s a == .hi then commitHi s m a v else s

/-- Any other register. -/
def writeOther (s : State) (m : Master) (a : Nat) (be : BitVec 4) (v : Word) : State :=
  if !wholeDword be then s
  else if inBar2 s m a then windowWrite s m (a - bar2Base) v
  else if !answers s m a || halfOf s a != .none then s
  else
    match (if a / 0x10000 = 0x7 then raOff m (a % 0x10000) else none) with
    | some (k, 0x10) => writeRaCmd s k v
    | _ => if mayWrite m a then write32 s m a v else s

end Sys2Proof.Machine
end

