-- ==== Sys2Proof/Machine/Calibration.lean ====
section
/-!
DEFINITION. Commands of the calibration and spare manager (R189 to R214).
-/

namespace Sys2Proof.Machine

/-! ## Triggers (R189 to R191, R195, R200) -/

/-- The temperature trigger of a unit whose comb sensor reads T. -/
def tempTrigger (k : CalGlobal) (T : Rat) (u : CalUnit) : Bool :=
  decide (b64ToRat k.dt < absR (T - b64ToRat u.temp))
/-- The interval trigger of a unit. -/
def ageTrigger (k : CalGlobal) (now : Nat) (u : CalUnit) : Bool :=
  b64ToRat k.tmax != 0 && decide ((u.time : Rat) + b64ToRat k.tmax * 800000000 < (now : Rat))

/-- The check of one unit; CAL_DEFERRED clears when no trigger holds any longer (R195). -/
def checkUnit (k : CalGlobal) (now : Nat) (T : Rat) (inRun : Bool) (u : CalUnit) : CalUnit :=
  if inRun then u
  else
    let u := if !k.autoEn then { u with dueTemp := false, dueAge := false }
      else if u.suspended || decide (now < u.quietUntil) then u
      else { u with dueTemp := tempTrigger k T u, dueAge := ageTrigger k now u }
    forgetGone (if runDue u then u else { u with deferred := false })

/-- The temperature sensor of a comb's units: comb c of an isle die uses sensor c mod 8 of that die. -/
def combTemp (s : State) (c : Fin 16) : Rat := s.pwr.temps[(⟨c.val, by omega⟩ : Fin 22)]

/-- The unit's own run is in progress. -/
def unitInRun (s : State) (p : Fin 144) : Bool :=
  match s.comb[unitComb p].run with
  | some r => r.unit == unitIx p && !r.kind.terminal
  | none => false

/-- The 1 ms check of every unit. -/
def triggerCheck (s : State) : State :=
  { s with unit := Vector.ofFn fun p =>
      checkUnit s.cal s.tb.now (combTemp s (unitComb p)) (unitInRun s p) s.unit[p] }

/-- CAL_TRIGGER_CHECK (R189, R191, R200). -/
def execCalTriggerCheck (s : State) : Host.Outcome State Fault Refusal :=
  .next (if regsUp s then triggerCheck s else s)

/-- INTERNAL (R189, R393). -/
def execInternal (unit : Fin 144) (s : State) : Host.Outcome State Fault Refusal :=
  .next (if regsUp s then updUnit s unit calInternal else s)

/-- REQ_ALL (R189, R376). -/
def execReqAll (s : State) : Host.Outcome State Fault Refusal :=
  .next (if regsUp s then reqAllUnits s else s)

/-- TERM_OPEN (R208). -/
def execTermOpen (ch : Fin 128) (s : State) : Host.Outcome State Fault Refusal :=
  .next (if regsUp s then calTerm s ch .termOpen else s)

/-- TERM_SHORT (R208). -/
def execTermShort (ch : Fin 128) (s : State) : Host.Outcome State Fault Refusal :=
  .next (if regsUp s then calTerm s ch .termShort else s)

/-- TERM_CLEAR (R210). -/
def execTermClear (ch : Fin 128) (s : State) : Host.Outcome State Fault Refusal :=
  .next (if regsUp s then calTermClear s ch else s)

/-! ## The run of a comb -/

/-- Act on the run of a comb from SAFE onwards, aborted ones left alone. -/
def withRun (s : State) (c : Fin 16) (f : CalRun → State) : State :=
  if !channelsLive s then s
  else match s.comb[c].run with
  | some r => if r.aborting then s else f r
  | none => s

/-- One more accepted run: COUNT saturates at 2^32 − 1 (R201). -/
def nextCount (n : Nat) : Nat := Nat.min (n + 1) 4294967295

/-- The record an accepted internal run commits: the terminal fields stay (R201, R204). -/
def internalRec (s : State) (p : Fin 144) (r : RunResult) : Record :=
  let b := latestRec s (unitComb p) (unitIx p)
  { b with count := nextCount b.count, time := s.tb.now, temp := readout r.temp, trims := r.trims }

/-- The verdict of an internal run: TRIM_END, DISAGREE, or accepted (R198 to R200). -/
def internalVerdict (s : State) (c : Fin 16) (r : CalRun) (v : RunResult) : State :=
  let p := unitAt c r.unit
  let reject (cause : CalCause) : State :=
    updComb (rejectRun s p cause) c fun k => { k with run := some { r with phase := .committing, newRec := none
                                                                           since := s.tb.now } }
  if r.phase != .measuring || r.kind.terminal then s
  else if v.trimEnd then reject .trimEnd
  else if calTol s < v.disagree then reject .disagree
  else acceptRun s c r (internalRec s p v)

/-- CAL_RUN_VERDICT (R198 to R200). -/
def execCalRunVerdict (comb : Fin 16) (r : RunResult) (s : State) : Host.Outcome State Fault Refusal :=
  .next (withRun s comb fun k => internalVerdict s comb k r)

/-- The inactive slot's calibration store address (R202, R273). -/
def commitAddr (s : State) (p : Fin 144) : Nat := Config.calSlotAddr p (!intoA p s.unit[p]) % 2 ^ 40

/-- The commit of unit i's record ends: with CHECK read back right at the first or the second write the slot is whole
and in force, else it stays torn and CAL_STORE_CHECK is raised (R202). -/
def writeBack (s : State) (p : Fin 144) (x : Record) (first second : Bool) : State :=
  if first || second then updUnit s p fun u => writeCheck p u x else send s 0x0B 0x401 (commitAddr s p)

/-- The spare's record has taken the failed unit's terminal fields: the repair's map change is due (R212). -/
def repairCommitted (s : State) (c : Fin 16) (i : Fin 9) : State :=
  let m := s.comb[c].repairCommit
  if i = 8 && m.isSome then updComb s c fun k => { k with repairCommit := none, mapPend := m } else s

/-- What a commit leads to: a unit under a takeover shows its record after the hand-back, any other unit at once; a
terminal run ends with it; a repair's map change is due (R206, R210, R212). -/
def afterCommit (s : State) (c : Fin 16) (i : Fin 9) (x : Record) : State :=
  let p := unitAt c i
  match s.comb[c].run.filter fun r => r.unit == i && r.newRec == some x with
  | some r =>
    let s := if r.kind = .takeover then s else updUnit s p fun u => showRec p u
    if r.kind.terminal then finishRun s c r else s
  | none => repairCommitted (updUnit s p fun u => showRec p u) c i

/-- The oldest commit of a comb ends. -/
def commitDone (s : State) (c : Fin 16) (first second : Bool) : State :=
  match s.comb[c].commits with
  | [] => s
  | (i, x) :: l =>
    afterCommit (writeBack (updComb s c fun k => { k with commits := l }) (unitAt c i) x first second) c i x

/-- CAL_COMMIT_DONE (R202). -/
def execCalCommitDone (comb : Fin 16) (slot : SlotCheck) (s : State) : Host.Outcome State Fault Refusal :=
  .next (if channelsLive s then commitDone s comb slot.first slot.second else s)

/-- The normal unit is prepared: a unit calibrated in place is done, one under a takeover waits for its
hand-back boundary (R205). -/
def prepared (s : State) (c : Fin 16) (r : CalRun) : State :=
  if r.phase = .committing && !committing s.comb[c] r then
    if r.kind = .takeover then
      updComb s c fun k => { k with run := some { r with phase := .prepared, since := s.tb.now } }
    else finishRun s c r
  else s

/-- CAL_PREPARED (R205). -/
def execCalPrepared (comb : Fin 16) (s : State) : Host.Outcome State Fault Refusal :=
  .next (withRun s comb fun k => prepared s comb k)

/-- The spare's paths are open again: the normal unit alone serves the terminal, and a repair that waited goes on
(R206, R395). -/
def handback (s : State) (c : Fin 16) (r : CalRun) : State :=
  if r.phase = .handing && s.comb[c].parallel then tryRepair (endRun s c r) c else s

/-- CAL_HANDBACK (R206, R207): of an aborted run too. -/
def execCalHandback (comb : Fin 16) (s : State) : Host.Outcome State Fault Refusal :=
  .next (match s.comb[comb].run with
    | some r => if channelsLive s then handback s comb r else s
    | none => s)

/-! ## Terminal runs (R209, R210) -/

/-- The bound of the check: 100 pA open, 100 µV shorted. -/
def checkLimit (k : RunKind) : Rat := if k = .termOpen then 1 / 10000000000 else 1 / 10000

/-- The record of an accepted terminal run: TERM_IOS and TERM_G from the currents at 0 V and over 1 V, code 2 being the
1 µA range; TERM_RS and TERM_VOS from the voltages at +1 mA and −1 mA (R210). -/
def terminalRec (s : State) (p : Fin 144) (k : RunKind) (r : TermResult) : Record :=
  let b := latestRec s (unitComb p) (unitIx p)
  let b := { b with count := nextCount b.count, time := s.tb.now, temp := readout r.temp }
  if k = .termOpen then
    { b with openOk := true, ios := r.atZero.map readout, g := readout (r.atOne - r.atZero[2]) }
  else
    { b with shortOk := true, rs := readout ((r.vPlus - r.vMinus) / (1 / 500))
             vos := readout ((r.vPlus + r.vMinus) / 2) }

/-- A terminal run finishes measuring. -/
def terminalVerdict (s : State) (c : Fin 16) (r : CalRun) (v : TermResult) : State :=
  let p := unitAt c r.unit
  if r.phase != .measuring || !r.kind.terminal then s
  else if checkLimit r.kind ≤ v.check then
    finishRun (updUnit s p fun u => { u with precondFail := true }) c r
  else if calTol s < v.disagree then finishRun (rejectRun s p .disagree) c r
  else acceptRun s c r (terminalRec s p r.kind v)

/-- TERM_RUN_DONE (R209, R210): the run of the comb that measures at the channel's terminal. -/
def execTermRunDone (ch : Fin 128) (r : TermResult) (s : State) : Host.Outcome State Fault Refusal :=
  .next (withRun s (combOf ch) fun k =>
    if k.chan = some ch then terminalVerdict s (combOf ch) k r else s)

/-! ## Repair (R212, R213) -/

/-- REPAIR (R212, R395). -/
def execRepair (comb : Fin 16) (unit : Fin 16) (s : State) : Host.Outcome State Fault Refusal :=
  .next (if regsUp s then repairUnit s comb unit.val else s)

/-- RELEASE (R213, R395). -/
def execRelease (comb : Fin 16) (s : State) : Host.Outcome State Fault Refusal :=
  .next (if regsUp s then releaseUnit s comb else s)

end Sys2Proof.Machine
end

