-- ==== Sys2Proof/Machine/Capturing.lean ====
section
/-!
DEFINITION. Commands of the capture store, its streams and rings (R242 to R253), and of the stream queues
(R254 to R268, R418, R419).
-/

namespace Sys2Proof.Machine

/-! ## Streams and blocks -/

/-- STORE_SCHED_CYCLE (R228, R242, R253): late blocks are served in this cycle, and the rewinds given in it take
effect after its writes. -/
def execStoreSchedCycle (s : State) : Host.Outcome State Fault Refusal :=
  .next (updSto s fun t => { t with late := 0, ring := t.ring.map rewindRing })

/-- OPEN (R244, R295, R370). -/
def execOpenStream (strm : Fin 2048) (s : State) : Host.Outcome State Fault Refusal :=
  .next (if regsUp s then openStr s strm else s)

/-- CLOSE (R244, R245). -/
def execCloseStream (strm : Fin 2048) (s : State) : Host.Outcome State Fault Refusal :=
  .next (if regsUp s then closeStr s strm else s)

/-- The assembly block of an open stream closes for its age (R245); a full one has closed with its last sample or
code. -/
def closeAged (s : State) (n : Fin 2048) : State :=
  let st := s.sto.stream[n]
  let t := st.openedAt + field st.age 13 0 * 800000
  if (st.block.isEmpty && st.raw.isEmpty) || !dueBy s t then s else closeAssembly (reachTick s t) n

/-- A raw stream takes the codes delivered since the last frame boundary; then a block closes that is due. -/
def closeCommand (s : State) (n : Fin 2048) (raw : List Nat) : State :=
  let st := s.sto.stream[n]
  if !st.opened then s
  else closeAged (if rawSource st then addRaw s n s.tb.now raw else s) n

/-- CAPTURE_BLOCK_CLOSE (R245, R247, R249, R251, R252). -/
def execCaptureBlockClose (strm : Fin 2048) (raw : List Nat) (s : State) :
    Host.Outcome State Fault Refusal := .next (closeCommand s strm raw)

/-! ## Rings -/

/-- RING_BLOCK_READ_DONE (R250, R264, R321); a DMA channel's block reads are part of its descriptor. -/
def execRingBlockReadDone (ring : Fin 31) (s : State) : Host.Outcome State Fault Refusal :=
  .next (egressBlock s ring)

/-- A write of one CAP_RINGn_CTRL bit: the registers of an active ring alone respond (R369). -/
def ringCommand (s : State) (n : Fin 31) (f : CapRing → CapRing) : State :=
  if regsUp s && ringActive s n then updRing s n f else s

/-- SET_MARK (R252). -/
def execSetMark (ring : Fin 31) (s : State) : Host.Outcome State Fault Refusal :=
  .next (ringCommand s ring setRingMark)

/-- CLR_MARK (R252). -/
def execClrMark (ring : Fin 31) (s : State) : Host.Outcome State Fault Refusal :=
  .next (ringCommand s ring clrRingMark)

/-- REWIND (R253). -/
def execRewind (ring : Fin 31) (s : State) : Host.Outcome State Fault Refusal :=
  .next (ringCommand s ring askRewind)

/-! ## Queues -/

/-- QUEUE_EN (R255). -/
def execQueueEn (q : Fin 32) (en : Bool) (s : State) : Host.Outcome State Fault Refusal :=
  .next (if regsUp s then writeQueueEn s q en else s)

/-- FLUSH (R262). -/
def execFlush (q : Fin 32) (s : State) : Host.Outcome State Fault Refusal :=
  .next (if regsUp s then updWm (updQ s q flushReq) else s)

/-- QUEUE_FLUSH_TIMEOUT (R262). -/
def execQueueFlushTimeout (q : Fin 32) (s : State) : Host.Outcome State Fault Refusal :=
  .next (if s.sq[q].flushPend then updWm (updQ s q flushNow) else s)

/-- The stream port delivers an item only once aligned, and a slot without VALID is none (R419). -/
def portDelivers (q : Queue) (i : QItem) : Bool := qProd q.cfg != 8 || (q.aligned && i.tag.getLsbD 0)

/-- QUEUE_ITEM_WRITE (R256 to R258, R419). -/
def execQueueItemWrite (q : Fin 32) (i : QItem) (s : State) : Host.Outcome State Fault Refusal :=
  .next (if portDelivers s.sq[q] i then queueWrite s q i else s)

/-- A read at the host register port: the item's low word goes to the host (R259). -/
def portRead (s : State) (m : Master) (q : Fin 32) : State :=
  if regsUp s && masterUp s m then
    let (w, t) := sqRdLo s m q
    updBus t fun b => { b with read := w }
  else s

/-- QUEUE_ITEM_READ (R259, R265, R266, R322): code 0 reads at the host register port. -/
def execQueueItemRead (q : Fin 32) (s : State) : Host.Outcome State Fault Refusal :=
  .next (if qCons s.sq[q].cfg = 0 then portRead s .host q else queueRead s q)

/-- SQ_WR_HI_WRITE (R259, R368). -/
def execSqWrHiWrite (m : Master) (q : Fin 32) (v : Word) (s : State) : Host.Outcome State Fault Refusal :=
  .next (if regsUp s && masterUp s m then sqWrHi s m q v else s)

/-- SQ_RD_LO_READ (R259, R368). -/
def execSqRdLoRead (m : Master) (q : Fin 32) (s : State) : Host.Outcome State Fault Refusal :=
  .next (portRead s m q)

/-- QUEUE_ITEM_VISIBLE (R260). -/
def execQueueItemVisible (q : Fin 32) (s : State) : Host.Outcome State Fault Refusal :=
  .next (updQ s q fun x => { x with visible := x.items.length })

/-- QUEUE_CREDIT_VISIBLE (R257, R260). -/
def execQueueCreditVisible (q : Fin 32) (s : State) : Host.Outcome State Fault Refusal :=
  .next (updQ s q fun x => { x with credit := x.credit + x.returning, returning := 0 })

/-- The queue the stream port fills has aligned. -/
def alignPort (s : State) : State :=
  { s with sq := s.sq.map fun q => if q.en && qProd q.cfg == 8 then { q with aligned := true } else q }

/-- STREAM_PORT_ALIGNED (R418, R419). -/
def execStreamPortAligned (s : State) : Host.Outcome State Fault Refusal := .next (alignPort s)

end Sys2Proof.Machine
end

