-- ==== Sys2Proof/Machine/Channels.lean ====
section
/-!
DEFINITION. Commands of the channels: START and STOP, ranges, front-end faults and supervision, limits and
coefficients, encoders and the high-resolution filter (R65 to R98, R113 to R136, R149 to R169).
-/

namespace Sys2Proof.Machine

/-! ## START and STOP -/

/-- START (R43, R65). -/
def execStart (ch : Fin 128) (s : State) : Host.Outcome State Fault Refusal := .next (startCh s ch)

/-- START_COMPLETE (R65): the sequence of a STARTING channel finishes. -/
def execStartComplete (ch : Fin 128) (s : State) : Host.Outcome State Fault Refusal :=
  .next (if s.ch[ch].state = .starting then updCh s ch completeStart else s)

/-- STOP (R66, R67, R207). -/
def execStop (ch : Fin 128) (s : State) : Host.Outcome State Fault Refusal := .next (stopCommand s ch)

/-- STOP_ARRIVE (R43, R66): a stopping channel at rest at PG_INIT. -/
def execStopArrive (ch : Fin 128) (s : State) : Host.Outcome State Fault Refusal :=
  .next (if stopArrived s.ch[ch] then completeSafe (reachStopped s ch) else s)

/-- RAMP_ZERO_TIMEOUT (R98): after RZ_TMAX the output opens. -/
def execRampZeroTimeout (ch : Fin 128) (s : State) : Host.Outcome State Fault Refusal :=
  .next (match s.ch[ch].rampFrom with
    | some t =>
      let e := t + rzTicks s.ch[ch].cfg
      if s.ch[ch].out = .ramp && dueBy s e then updCh (reachTick s e) ch hizCh else s
    | none => s)

/-! ## Ranges -/

/-- CH_RANGE_WRITE (R80, R81). -/
def execChRangeWrite (ch : Fin 128) (v : Word) (s : State) : Host.Outcome State Fault Refusal :=
  .next (if regsUp s then writeRange s ch v else s)

/-- IRANGE_SEQUENCE_END (R82): boundary k + 17 of a current sequence taken at boundary k. -/
def execIrangeSequenceEnd (ch : Fin 128) (s : State) : Host.Outcome State Fault Refusal :=
  .next (match s.ch[ch].range.seq with
    | some q => if 16 ≤ q.frames then updCh s ch fun h => endSequence h true else s
    | none => s)

/-- VRANGE_HOLD_END (R84). -/
def execVrangeHoldEnd (ch : Fin 128) (s : State) : Host.Outcome State Fault Refusal :=
  .next (updCh s ch fun h => endSequence h false)

/-- The down count asks for the next lower code (R87). -/
def autorangeLower (h : Channel) : Channel :=
  if arOn h.cfg && h.state == .running && h.range.downCount == 16 && 0 < h.range.iAct then
    autorange h (h.range.iAct - 1)
  else h

/-- AUTORANGE_DOWN (R87). -/
def execAutorangeDown (ch : Fin 128) (s : State) : Host.Outcome State Fault Refusal :=
  .next (updCh s ch autorangeLower)

/-! ## Front-end faults (R79, R91, R93, R94) -/

/-- The normal unit's paths are open while the spare alone serves its channel: its output faults are masked (R197). -/
def masked (s : State) (c : Fin 128) (normal : Bool) : Bool :=
  normal && !s.comb[combOf c].parallel && servingUnit s c != assignedUnit s c

/-- A comparator of a channel's terminal raises a state kind. -/
def raiseDetect (s : State) (c : Fin 128) (kind : Nat) (normal : Bool) : State :=
  raiseState s kind (unitSource c) (detectDetail s c normal 0)

/-- A booster's drive is brought to 0 V by its comparator (R91). -/
def dropBooster (h : Channel) : Channel := if usesBooster h.cfg then { h with bdrvZero := true } else h

/-- OVERCURRENT_TRIP (R79, R91). -/
def execOvercurrentTrip (x : Trip) (s : State) : Host.Outcome State Fault Refusal :=
  .next (if channelsLive s && !masked s x.ch x.normal && decide (tripAmps s.ch[x.ch] < absR x.level) then
    raiseDetect (updCh s x.ch dropBooster) x.ch 0x01 x.normal else s)

/-- OVERVOLTAGE_TRIP (R79). -/
def execOvervoltageTrip (x : Trip) (s : State) : Host.Outcome State Fault Refusal :=
  .next (if channelsLive s && !masked s x.ch x.normal && decide (tripVolts s.ch[x.ch] < absR x.level) then
    raiseDetect s x.ch 0x02 x.normal else s)

/-- CLAMP_ACTIVE (R79). -/
def execClampActive (ch : Fin 128) (s : State) : Host.Outcome State Fault Refusal :=
  .next (if s.ch[ch].ms.clampDue then raiseUnit s ch 0x03 0 else s)

/-- RANGE_SWITCH (R79): bit 4 says a current range. -/
def execRangeSwitch (x : Server) (code : Fin 16) (current : Bool) (s : State) :
    Host.Outcome State Fault Refusal :=
  .next (if channelsLive s && !masked s x.ch x.normal then
    send s 0x09 (unitSource x.ch) (detectDetail s x.ch x.normal (code.val + if current then 16 else 0)) else s)

/-- LEAD_DROP (R93): FEEDBACK_LOST, cause 6. -/
def execLeadDrop (ch : Fin 128) (s : State) : Host.Outcome State Fault Refusal :=
  .next (if s.ch[ch].ms.leadDue then raiseUnit s ch 0x06 6 else s)

/-- CSL_WINDOW_FAULT (R94): OVERVOLTAGE of the comb. -/
def execCslWindowFault (comb : Fin 16) (s : State) : Host.Outcome State Fault Refusal :=
  .next (if s.comb[comb].cslDue then raiseState s 0x02 (combSource comb) 0 else s)

/-! ## Supervision (R132, R133, R149, R162) -/

/-- OPEN_LOAD (R132). -/
def execOpenLoad (ch : Fin 128) (s : State) : Host.Outcome State Fault Refusal :=
  .next (if s.ch[ch].ms.openDue then
    sendUnit (updMs s ch fun m => { m with openDue := false }) ch 0x04 0 else s)

/-- MONITOR_DISAGREE (R133). -/
def execMonitorDisagree (ch : Fin 128) (s : State) : Host.Outcome State Fault Refusal :=
  .next (if s.ch[ch].ms.monDue then
    sendUnit (updMs s ch fun m => { m with monDue := false }) ch 0x05 0 else s)

/-- MODEL_RESIDUAL (R162). -/
def execModelResidual (ch : Fin 128) (s : State) : Host.Outcome State Fault Refusal :=
  .next (if s.ch[ch].eng.resDue then raiseUnit s ch 0x08 0 else s)

/-- FEEDBACK_FROZEN (R162). -/
def execFeedbackFrozen (ch : Fin 128) (s : State) : Host.Outcome State Fault Refusal :=
  .next (if s.ch[ch].eng.frzDue then raiseUnit s ch 0x07 0 else s)

/-- BUDGET_THERMAL (R149): THERMAL of the die, detail 31. -/
def execBudgetThermal (die : Fin 2) (s : State) : Host.Outcome State Fault Refusal :=
  .next (if 1000 ≤ s.pwr.overFrames[die] then
    raiseState (updPwr s fun w => { w with budgetHot := w.budgetHot.set die true }) 0x0E (0x300 + die.val) 31
  else s)

/-! ## Settings -/

/-- PG_TARGET_WRITE (R166, R167, R169). -/
def execPgTargetWrite (ch : Fin 128) (v : DWord) (s : State) : Host.Outcome State Fault Refusal :=
  .next (if regsUp s then writeTarget s ch v else s)

/-- CH_COMP_WRITE (R76). -/
def execChCompWrite (ch : Fin 128) (hi : Bool) (v : DWord) (s : State) :
    Host.Outcome State Fault Refusal := .next (if regsUp s then writeComp s ch hi v else s)

/-- LP_BANK_SEL_WRITE (R153). -/
def execLpBankSelWrite (ch : Fin 128) (sel : Bool) (s : State) : Host.Outcome State Fault Refusal :=
  .next (if regsUp s then updEng s ch fun e => writeSel e sel else s)

/-- COEF_WRITE (R152, R389). -/
def execCoefWrite (ch : Fin 128) (bankB : Bool) (offset : Nat) (v : DWord) (s : State) :
    Host.Outcome State Fault Refusal :=
  .next (if regsUp s && bankOffsetOk offset then updCh s ch fun h => writeCoef h bankB offset v else s)

/-- DEGLITCH_HOLD_END (R113). -/
def execDeglitchHoldEnd (ch : Fin 128) (s : State) : Host.Outcome State Fault Refusal :=
  .next (updCh s ch deglitchEnd)

/-! ## Encoders (R158 to R160) -/

/-- ENC_QUAD_EDGE (R158, R160). -/
def execEncQuadEdge (enc : Fin 32) (e : QuadEdge) (s : State) : Host.Outcome State Fault Refusal :=
  .next (if channelsLive s then updEnc s enc (quadEdge e) else s)

/-- ENC_INDEX_EDGE (R158, R160). -/
def execEncIndexEdge (enc : Fin 32) (s : State) : Host.Outcome State Fault Refusal :=
  .next (if channelsLive s then updEnc s enc zEdge else s)

/-- SSI_WORD_DONE (R159). -/
def execSsiWordDone (enc : Fin 32) (started : Bool) (bits check : Nat) (s : State) :
    Host.Outcome State Fault Refusal := .next (updEnc s enc (ssiWord s.tb.now started bits check))

/-- SSI_ERROR_RUN (R160). -/
def execSsiErrorRun (enc : Fin 32) (s : State) : Host.Outcome State Fault Refusal :=
  .next (ssiErrors s enc)

/-! ## High-resolution values (R119, R123, R243) -/

/-- An aperture ends: the corrected pair, marked where a range sequence overlapped it (R121, R211), its timestamp, and
the samples of open streams. -/
def hrAperture (s : State) (c : Fin 128) (a : Aperture) : State :=
  let e := hrEnd s.tb.now s.ch[c]
  let L := hrTicks (hrRate s.ch[c].cfg)
  if !channelsLive s || s.ch[c].cfg.func = .off || !dueBy s e then s
  else
    let r := averaged (assignedRec s c) s.ch[c] s.ch[c].ms.hrClosed s.ch[c].ms.hrRanging a
    let ranging := s.ch[c].range.seq.isSome
    let closed := s.ch[c].switchOn
    let s := updMs (reachTick s e) c fun m => { m with
      hrSense := r.sense, hrMeas := r.meas, hrTs := e - L, hrRanging := ranging || m.hrNext, hrNext := false
      hrClosed := closed }
    let take (s : State) (n : Fin 2048) : State :=
      addSample s n (e - L) (pairSample s.ch[c] r (strSrc s.sto.stream[n].cfg == 4))
    (streamsOf s c fun k => k == 3 || k == 4).foldl take s

/-- HR_APERTURE_END (R119, R121, R123). -/
def execHrApertureEnd (ch : Fin 128) (a : Aperture) (s : State) : Host.Outcome State Fault Refusal :=
  .next (hrAperture s ch a)

end Sys2Proof.Machine
end

