-- ==== Sys2Proof/Machine/Faults.lean ====
section
/-!
DEFINITION. Commands of the fault collector: messages, acknowledgement and clearing, the first fault and the
history, WAGGLE's level, the application core watchdog and the collector's stall (R269 to R295).
-/

namespace Sys2Proof.Machine

/-- The collector takes messages: it works from BOOT onwards until it stalls (R38, R294). -/
def takeMessages (s : State) (ms : List Msg) : State :=
  if s.mod.mode = .bypass || s.mod.collStall then s else present s ms

/-- FAULT_ONSET (R272, R276, R279). -/
def execFaultOnset (msgs : List Msg) (s : State) : Host.Outcome State Fault Refusal :=
  .next (takeMessages s (msgs.filter fun m => isOnset m.kind))

/-- FAULT_END (R272, R282): the end message of a kind has its code with bit 7 set, and that of a unit its p
(R271). -/
def execFaultEnd (kind source : Nat) (s : State) : Host.Outcome State Fault Refusal :=
  .next (takeMessages s (if isOnset kind then [⟨kind + 0x80, source, endDetail s source⟩] else []))

/-- NOTICE (R274, R275). -/
def execNotice (m : Msg) (s : State) : Host.Outcome State Fault Refusal :=
  .next (takeMessages s (if isNotice m.kind then [m] else []))

/-- FLT_ACK (R280). -/
def execFltAck (v : Word) (s : State) : Host.Outcome State Fault Refusal :=
  .next (if regsUp s then ackFaults s v else s)

/-- HIST_CLR (R285, R364). -/
def execHistClr (s : State) : Host.Outcome State Fault Refusal :=
  .next (if regsUp s then clearHist s else s)

/-- FIRST_CLR (R286, R364). -/
def execFirstClr (s : State) : Host.Outcome State Fault Refusal :=
  .next (if regsUp s then clearFirst s else s)

/-- A read of a W0_LO: the word goes to the reader, the entry is latched. -/
def histReadW0 (s : State) (m : Master) (slot : Fin 33) : State :=
  if regsUp s && masterUp s m then
    let (w, t) := histRead s m slot 0
    updBus t fun b => { b with read := w }
  else s

/-- FLT_HIST_W0_LO_READ (R285). -/
def execFltHistW0LoRead (m : Master) (slot : Fin 33) (s : State) : Host.Outcome State Fault Refusal :=
  .next (histReadW0 s m slot)

/-- FLT_WAGGLE_WRITE (R291). -/
def execFltWaggleWrite (v : Word) (s : State) : Host.Outcome State Fault Refusal :=
  .next (if regsUp s then writeWaggle s v else s)

/-- CORE_WATCHDOG (R291, R293, R339). -/
def execCoreWatchdog (s : State) : Host.Outcome State Fault Refusal := .next (watchdogExpires s)

/-- COLL_STALL (R294, R295). -/
def execCollStall (s : State) : Host.Outcome State Fault Refusal := .next (stallCollector s)

end Sys2Proof.Machine
end

