-- ==== Sys2Proof/Machine/Lands.lean ====
section
/-!
DEFINITION. The digital lands (R410, R411, R418) and the TAP (R351).
-/

namespace Sys2Proof.Machine

/-! ## States of the digital outputs (R411) -/

/-- CFG_CS_N: high but for the loader's own transfers from the flash, which the steps of BOOT stand for (R49, R411). -/
def cfgCsN (_s : State) : Bool := true

/-- SQP_D and SQP_CK drive, with their terminations on: a queue of the stream port is enabled (R255, R411). -/
def sqpOn (s : State) : Bool := s.sq.toList.any fun q => q.en && (qProd q.cfg == 8 || qCons q.cfg == 8)

/-- ENCn_A drives: an SSI configuration applies (R159, R411). -/
def encDrives (s : State) (n : Fin 32) : Bool := encSsi s.seq.enc[n]

/-- AVS_CK and AVS_D are low until step 1 of BOOT, the first request (R217, R411). -/
def avsIdle (s : State) : Bool := s.ldg.vcore == 0

/-! ## The TAP (R351) -/

/-- A TAP instruction: EXTEST and the debug instructions act as BYPASS outside OPEN (R351). -/
def tapActs (s : State) (ir : TapIr) : TapIr :=
  match ir with
  | .extest | .debugCore | .debugFabric => if s.mod.mode = .opened then ir else .bypass
  | i => i

/-- The IDCODE register: version 1, part number 0x9128, Onairato's JEP106 code, and bit 0 of IEEE 1149.1 (R351). -/
def idcode : Word := wordOf (2 ^ 28 + fld 0x9128 12 + fld Config.jep106.toNat 1 + 1)

/-- What the TAP captures for an instruction as it acts: IDCODE, or the 0 of the bypass bit. SAMPLE/PRELOAD and EXTEST
select the boundary-scan register; the debug chains are in no rule (A61). -/
def tapCapture (ir : TapIr) : Option Word :=
  match ir with
  | .idcode => some idcode
  | .bypass => some 0
  | _ => none

/-- The levels of the lands in the boundary-scan chain, an input's or what the module drives; a TRIG pin that is no output
reads its level as the module saw it last (R182, R410; A61). -/
def landLevels (s : State) : BoundaryScan :=
  { trig := Vector.ofFn fun i : Fin 16 => (trigDrive s.seq.trig[i]).getD s.seq.trig[i].level
    sqWm := s.pins.sqWm, waggle := s.pins.waggle, estopN := !s.pins.estopLow
    porstN := s.pins.porstN, perstN := s.pins.perstN }

/-- What the lands of the chain carry: under EXTEST, which acts in OPEN alone, the boundary-scan register's levels
(IEEE 1149.1, R351). -/
def drivenLands (s : State) : BoundaryScan := if s.pins.tap = .extest then s.pins.scan else landLevels s

/-- TAP_INSTRUCTION: SAMPLE/PRELOAD captures the lands into the boundary-scan register, in every mode; what stands there
is what EXTEST drives (see `drivenLands`). -/
def tapInstruction (s : State) (ir : TapIr) : State :=
  let a := tapActs s ir
  updPins s fun p => { p with
    tap := a, tapData := tapCapture a, scan := if a = .sample then landLevels s else p.scan }

end Sys2Proof.Machine
end

