-- ==== Sys2Proof/Machine/HostLink.lean ====
section
/-!
DEFINITION. Commands of the host link: DMA (R330 to R334), mailboxes and the firmware's requests (R335 to
R340), locks (R341 to R343), the secure core and the TAP (R344 to R354).
-/

namespace Sys2Proof.Machine

/-! ## DMA -/

/-- DMA_EN (R334, R373). -/
def execDmaEn (e : Fin 8) (en : Bool) (s : State) : Host.Outcome State Fault Refusal :=
  .next (if regsUp s then dmaEnable s e en else s)

/-- ABORT (R333). -/
def execAbort (e : Fin 8) (s : State) : Host.Outcome State Fault Refusal :=
  .next (if regsUp s then dmaAbort s e else s)

/-- DMA_TAIL_WRITE (R330, R373). -/
def execDmaTailWrite (e : Fin 8) (v : Word) (s : State) : Host.Outcome State Fault Refusal :=
  .next (if regsUp s then dmaTail s e v else s)

/-- DMA_DESCRIPTOR_DONE (R331 to R333). -/
def execDmaDescriptorDone (e : Fin 8) (d : Desc) (hostData : List Byte) (reads : DmaRead) (s : State) :
    Host.Outcome State Fault Refusal := .next (dmaDescriptor s e d hostData reads)

/-! ## Mailboxes and the firmware's requests -/

/-- MBX_DATA_WRITE (R337). -/
def execMbxDataWrite (ch : Fin 20) (h2c : Bool) (v : Word) (s : State) : Host.Outcome State Fault Refusal :=
  .next (mbxWrite s ch h2c v)

/-- MBX_DATA_READ (R337). -/
def execMbxDataRead (ch : Fin 20) (h2c : Bool) (s : State) : Host.Outcome State Fault Refusal :=
  .next (mbxRead s ch h2c)

/-- MBX_FULL_VISIBLE (R338). -/
def execMbxFullVisible (ch : Fin 20) (h2c : Bool) (s : State) : Host.Outcome State Fault Refusal :=
  .next (updMbx s ch h2c showFull)

/-- PING (R340): ARG, unchanged. -/
def execPing (ch : Fin 16) (request : Word) (s : State) : Host.Outcome State Fault Refusal :=
  .next (serveNs s ch request 1 (reqArg request))

/-- FW_VERSION (R340). -/
def execFwVersion (ch : Fin 16) (request : Word) (s : State) : Host.Outcome State Fault Refusal :=
  .next (serveNs s ch request 2 (fwResult s (reqArg request)))

/-- RESET_CAUSE (R340). -/
def execResetCause (ch : Fin 16) (request : Word) (s : State) : Host.Outcome State Fault Refusal :=
  .next (serveNs s ch request 3 s.mod.resetCause)

/-- MBX_UNKNOWN_OP (R340, R350): on an NS channel, or on an SC channel of an open session. -/
def execMbxUnknownOp (ch : Fin 20) (request : Word) (s : State) : Host.Outcome State Fault Refusal :=
  .next (if h : ch.val < 16 then serveUnknown s ⟨ch.val, h⟩ request
    else serveBadOp s ⟨ch.val - 16, by omega⟩ request)

/-! ## Locks -/

/-- A master reaches the lock registers. -/
def lockReach (s : State) (m : Master) : Bool := regsUp s && masterUp s m

/-- LOCK_READ (R341): the word goes to the reader, a free lock is taken. -/
def execLockRead (m : Master) (l : Fin 64) (s : State) : Host.Outcome State Fault Refusal :=
  .next (if lockReach s m then
    updBus (takeLock s m.id l) fun b => { b with read := lockWord s.lock[l] m.id } else s)

/-- LOCK_RELEASE (R343). -/
def execLockRelease (m : Master) (l : Fin 64) (v : Word) (s : State) : Host.Outcome State Fault Refusal :=
  .next (if lockReach s m then writeLock s m.id l v else s)

/-! ## The secure core -/

/-- SEC_AUTH_START (R348). -/
def execSecAuthStart (s : State) : Host.Outcome State Fault Refusal := .next (authStart s)

/-- VERIFY (R348). -/
def execVerify (s : State) : Host.Outcome State Fault Refusal := .next (authVerify s)

/-- SEC_VERIFY_DONE (R348). -/
def execSecVerifyDone (s : State) : Host.Outcome State Fault Refusal := .next (authDone s)

/-- AUTH_LOCKOUT_END (R348). -/
def execAuthLockoutEnd (s : State) : Host.Outcome State Fault Refusal := .next (updSec s lockoutEnd)

/-- PROV_IMG_KEY (R350). -/
def execProvImgKey (ch : Fin 4) (request : Word) (s : State) : Host.Outcome State Fault Refusal :=
  .next (provision s ch request 1 96 putImgKey)

/-- PROV_DEC_KEY (R350). -/
def execProvDecKey (ch : Fin 4) (request : Word) (s : State) : Host.Outcome State Fault Refusal :=
  .next (provision s ch request 2 32 putDecKey)

/-- PROV_HOST_KEY (R350). -/
def execProvHostKey (ch : Fin 4) (request : Word) (s : State) : Host.Outcome State Fault Refusal :=
  .next (provision s ch request 3 96 putHostKey)

/-- ATTEST (R350). -/
def execAttest (ch : Fin 4) (request : Word) (s : State) : Host.Outcome State Fault Refusal :=
  .next (serveAttest s ch request)

/-- SET_DBG_POLICY (R350). -/
def execSetDbgPolicy (ch : Fin 4) (request : Word) (s : State) : Host.Outcome State Fault Refusal :=
  .next (servePolicy s ch request)

/-- DBG_OPEN (R351 to R353). -/
def execDbgOpen (src : Option (Fin 4 × Word)) (x : OpenReport) (s : State) :
    Host.Outcome State Fault Refusal := .next (debugOpen s src x)

/-- SESSION_CLOSE (R348, R350). -/
def execSessionClose (ch : Fin 4) (request : Word) (s : State) : Host.Outcome State Fault Refusal :=
  .next (serveClose s ch request)

/-- TAP_INSTRUCTION (R351). -/
def execTapInstruction (ir : TapIr) (s : State) : Host.Outcome State Fault Refusal :=
  .next (tapInstruction s ir)

end Sys2Proof.Machine
end

