-- ==== Sys2Proof/Machine/Modes.lean ====
section
/-!
DEFINITION. Commands of the modes, the loader, WAGGLE, the frame boundary and the timebase (R25, R41 to R63,
R139, R228, R231, R232, R290 to R292).
-/

namespace Sys2Proof.Machine

/-! ## BOOT -/

/-- BOOT_STEP_COMPLETE (R50, R53). -/
def execBootStepComplete (r : BootReport) (s : State) : Host.Outcome State Fault Refusal :=
  .next (bootStep s r)

/-- LOADER_STALL (R49, R53): BOOT_ERR 0x0C, and CORE_WATCHDOG from the loader. -/
def execLoaderStall (s : State) : Host.Outcome State Fault Refusal :=
  .next (if s.mod.mode = .boot then bootFailFree s 0x0C 0x1B 0 else s)

/-- REF_SETTLED (R55). -/
def execRefSettled (s : State) : Host.Outcome State Fault Refusal :=
  .next (if s.mod.mode = .bypass then s else updMod s fun m => { m with refSettled := true })

/-! ## Mode commands (R41) -/

/-- READY (R41, R55). -/
def execReady (s : State) : Host.Outcome State Fault Refusal :=
  .next (if s.mod.mode = .bypass then s else cmdReady s)

/-- READY_COMPLETE (R54, R55). -/
def execReadyComplete (s : State) : Host.Outcome State Fault Refusal := .next (readyComplete s)

/-- RUN (R41, R59). -/
def execRun (s : State) : Host.Outcome State Fault Refusal :=
  .next (if s.mod.mode = .bypass then s else cmdRun s)

/-- HOLD (R41, R57). -/
def execHold (s : State) : Host.Outcome State Fault Refusal :=
  .next (if s.mod.mode = .bypass then s else cmdHold s)

/-- SAFE (R41, R43). -/
def execSafe (s : State) : Host.Outcome State Fault Refusal :=
  .next (if s.mod.mode = .bypass then s else cmdSafe s)

/-- RECOVER (R61 to R63). -/
def execRecover (s : State) : Host.Outcome State Fault Refusal :=
  .next (if s.mod.mode = .bypass then s else cmdRecover s)

/-! ## The frame -/

/-- FRAME_BOUNDARY (R25, R42, R138, R149, R168, R195, R232). -/
def execFrameBoundary (f : FrameInputs) (s : State) : Host.Outcome State Fault Refusal :=
  .next (frameBoundary s f)

/-- DEADLINE_MISS (R139, R228). -/
def execDeadlineMiss (a : Account) (s : State) : Host.Outcome State Fault Refusal :=
  .next (if channelsLive s then deadlineMiss s a else s)

/-- TB_FRAME_WRITE (R231, R232, R361). -/
def execTbFrameWrite (v : Word) (s : State) : Host.Outcome State Fault Refusal :=
  .next (if regsUp s then writeFrame s v else s)

/-! ## WAGGLE -/

/-- WAGGLE_START (R46). -/
def execWaggleStart (s : State) : Host.Outcome State Fault Refusal := .next (waggleStart s)

/-- WAGGLE_RESUME (R292). -/
def execWaggleResume (s : State) : Host.Outcome State Fault Refusal := .next (waggleResume s)

/-- WAGGLE_TOGGLE (R290). -/
def execWaggleToggle (s : State) : Host.Outcome State Fault Refusal := .next (waggleToggle s)

end Sys2Proof.Machine
end

