-- ==== Sys2Proof/Machine/Power.lean ====
section
/-!
DEFINITION. Commands of the supplies, the reset and emergency pins, the PCIe link and the power and thermal
manager (R35, R39, R40, R101, R102, R215 to R218, R273, R326, R339, R405, R406, R414).
-/

namespace Sys2Proof.Machine

/-! ## Supplies and reset -/

/-- PORST_N_ASSERT (R39, R40). -/
def execPorstNAssert (s : State) : Host.Outcome State Fault Refusal := .next (porstAssert s)

/-- POWER_GOOD (R39, R50, R229). -/
def execPowerGood (x : PowerUp) (s : State) : Host.Outcome State Fault Refusal :=
  .next (powerGood s x)

/-- SUPPLY_OUT_OF_LIMITS (R39, R405). -/
def execSupplyOutOfLimits (rail : Fin 7) (s : State) : Host.Outcome State Fault Refusal :=
  .next (supplyOut s rail.val)

/-- SUPPLY_WINDOW_VIOLATION (R53, R406). -/
def execSupplyWindowViolation (rail : Fin 7) (above : Bool) (s : State) :
    Host.Outcome State Fault Refusal := .next (railViolation s rail above)

/-- SUPPLY_WINDOW_RESTORED (R406). -/
def execSupplyWindowRestored (rail : Fin 7) (s : State) : Host.Outcome State Fault Refusal :=
  .next (railRestored s rail)

/-- OPEN_POWER_CYCLE (R39, R354). -/
def execOpenPowerCycle (s : State) : Host.Outcome State Fault Refusal := .next (powerCycle s)

/-! ## ESTOP_N -/

/-- ESTOP_N_FALL (R101, R233). -/
def execEstopNFall (s : State) : Host.Outcome State Fault Refusal := .next (estopFall s)

/-- ESTOP_N_RISE (R102). -/
def execEstopNRise (s : State) : Host.Outcome State Fault Refusal := .next (estopRise s)

/-! ## The PCIe link (R48, R274, R326, R339, R414) -/

/-- The function after a conventional reset: no link, D0. -/
def linkDown (h : Hst) : Hst := { h with up := false, rate := 0, width := 0, d3hot := false }

/-- PORST_N holds the link's state at reset, but in OPEN, where it resets the cores alone (R40, R339, R414). -/
def linkLive (s : State) : Bool := s.pins.porstN || s.mod.mode == .opened

/-- PE_PERST_N low holds the function in conventional reset; high releases it. -/
def perstChange (s : State) (high : Bool) : State :=
  let s := updPins s fun p => { p with perstN := high }
  if high || !linkLive s then s else updHst (linkReset s) linkDown

/-- PE_PERST_N_CHANGE (R339, R414). -/
def execPePerstNChange (high : Bool) (s : State) : Host.Outcome State Fault Refusal :=
  .next (perstChange s high)

/-- Training completes; a link that had trained before records the retraining. -/
def linkUp (s : State) (rate width : Nat) : State :=
  if !(linkLive s && s.pins.perstN && linkOk rate width) then s
  else
    let s := if s.hst.trained && s.mod.mode != .bypass then send s 0x4E 0x403 0 else s
    updHst s fun h => { h with up := true, rate := rate, width := width, trained := true }

/-- PCIE_LINK_UP (R48, R326, R373). -/
def execPcieLinkUp (rate width : Nat) (s : State) : Host.Outcome State Fault Refusal :=
  .next (linkUp s rate width)

/-- FLR (R339). -/
def execFlr (s : State) : Host.Outcome State Fault Refusal :=
  .next (if linkLive s then linkReset s else s)

/-- D3HOT (R326): in D3hot the BARs do not decode. -/
def execD3hot (enter : Bool) (s : State) : Host.Outcome State Fault Refusal :=
  .next (if linkLive s && s.pins.perstN then updHst s fun h => { h with d3hot := enter } else s)

/-! ## Temperatures, sentinels and VCORE -/

/-- TEMP_SAMPLE (R35). -/
def execTempSample (temps : Vector Rat 22) (s : State) : Host.Outcome State Fault Refusal :=
  .next (if s.mod.mode = .bypass then s else takeTemps s temps)

/-- SENTINEL_REPORT (R216, R218, R227). -/
def execSentinelReport (reports : Vector Rat 16) (s : State) : Host.Outcome State Fault Refusal :=
  .next (if s.mod.mode = .bypass then s else takeReports s reports)

/-- VCORE_STEP_DOWN (R218). -/
def execVcoreStepDown (s : State) : Host.Outcome State Fault Refusal := .next (stepDown s)

/-- VCORE_SENSE_CONFIRM (R217). -/
def execVcoreSenseConfirm (s : State) : Host.Outcome State Fault Refusal := .next (confirmVcore s)

/-- VCORE_MISMATCH (R53, R217): rail 6. -/
def execVcoreMismatch (above : Bool) (s : State) : Host.Outcome State Fault Refusal :=
  .next (railViolation s 6 above)

/-- VCORE_SENSE_RESTORED (R217): rail 6. -/
def execVcoreSenseRestored (s : State) : Host.Outcome State Fault Refusal := .next (railRestored s 6)

/-- TB_LDG_VMIN_WRITE (R218, R360). -/
def execTbLdgVminWrite (v : Word) (s : State) : Host.Outcome State Fault Refusal :=
  .next (if regsUp s then writeVmin s v else s)

/-! ## Causeways -/

/-- A causeway of a die fails its CRC, or retrains (R273, R274). -/
def causewayEvent (s : State) (die : Fin 2) (retrain : Bool) : State :=
  match s.mod.mode with
  | .bypass | .boot => s
  | _ => send s (if retrain then 0x4E else 0x11) (0x300 + die.val) 0

/-- CAUSEWAY_CRC (R273, R274); in BOOT the loader's step reports it (R53). -/
def execCausewayCrc (die : Fin 2) (retrain : Bool) (s : State) : Host.Outcome State Fault Refusal :=
  .next (causewayEvent s die retrain)

end Sys2Proof.Machine
end

