-- ==== Sys2Proof/Machine/RingCommands.lean ====
section
/-!
DEFINITION. Commands of the ring port (R297 to R325) and the register accesses of the masters (R9 to R17,
R355, R357, R425).
-/

namespace Sys2Proof.Machine

/-! ## Membership -/

/-- JOIN (R309, R323). -/
def execJoin (s : State) : Host.Outcome State Fault Refusal := .next (ringJoin s)

/-- LEAVE (R323). -/
def execLeave (s : State) : Host.Outcome State Fault Refusal := .next (if regsUp s then ringLeave s else s)

/-- HOLD_ALL (R319). -/
def execHoldAll (s : State) : Host.Outcome State Fault Refusal := .next (if regsUp s then ringHoldAll s else s)

/-- RING_LOCAL_TRAINED (R309, R311). -/
def execRingLocalTrained (ok : Bool) (s : State) : Host.Outcome State Fault Refusal :=
  .next (localTrained s ok)

/-- RING_LINK_TRAINED (R309). -/
def execRingLinkTrained (s : State) : Host.Outcome State Fault Refusal := .next (linkTrained s)

/-- RING_LOSS_TIMEOUT (R311). -/
def execRingLossTimeout (noLock : Bool) (s : State) : Host.Outcome State Fault Refusal :=
  .next (lossTimeout s noLock)

/-- RING_LOCK_LOST (R298). -/
def execRingLockLost (s : State) : Host.Outcome State Fault Refusal := .next (lockLost s)

/-- ALIGNED_TIMEOUT (R315). -/
def execAlignedTimeout (s : State) : Host.Outcome State Fault Refusal := .next (alignedLost s)

/-! ## Frames -/

/-- JX_TIME_SEND (R312). -/
def execJxTimeSend (s : State) : Host.Outcome State Fault Refusal := .next (sendTime s)

/-- TIME (R310, R312 to R315). -/
def execTime (f : Frame) (residence : Nat) (s : State) : Host.Outcome State Fault Refusal :=
  .next (arrive residence s f)

/-- ENUM (R310). -/
def execEnum (f : Frame) (s : State) : Host.Outcome State Fault Refusal := .next (arrive 0 s f)

/-- EVENT (R184, R319). -/
def execEvent (f : Frame) (s : State) : Host.Outcome State Fault Refusal := .next (arrive 0 s f)

/-- FAULT6 (R278, R320). -/
def execFault6 (f : Frame) (s : State) : Host.Outcome State Fault Refusal := .next (arrive 0 s f)

/-- FAULT6_RESEND (R320). -/
def execFault6Resend (s : State) : Host.Outcome State Fault Refusal := .next (resendFault6 s)

/-- RD_REQ (R317, R318). -/
def execRdReq (f : Frame) (s : State) : Host.Outcome State Fault Refusal := .next (arrive 0 s f)

/-- RD_RSP (R316, R318). -/
def execRdRsp (f : Frame) (s : State) : Host.Outcome State Fault Refusal := .next (arrive 0 s f)

/-- WR_REQ (R317, R318). -/
def execWrReq (f : Frame) (s : State) : Host.Outcome State Fault Refusal := .next (arrive 0 s f)

/-- WR_RSP (R316, R318). -/
def execWrRsp (f : Frame) (s : State) : Host.Outcome State Fault Refusal := .next (arrive 0 s f)

/-- BLOCK (R264, R321). -/
def execBlock (f : Frame) (s : State) : Host.Outcome State Fault Refusal := .next (arrive 0 s f)

/-- QITEMS (R265, R322). -/
def execQitems (f : Frame) (s : State) : Host.Outcome State Fault Refusal := .next (arrive 0 s f)

/-- JX_FRAME_FORWARD (R302 to R307): a broadcast is consumed as it is forwarded. -/
def execJxFrameForward (p : Passing) (s : State) : Host.Outcome State Fault Refusal :=
  .next (arrive p.residence s p.frame)

/-- RING_CRC (R305). -/
def execRingCrc (s : State) : Host.Outcome State Fault Refusal := .next (ringCrcDue s)

/-! ## Remote accesses -/

/-- READ (R316, R318). -/
def execRead (m : Fin 2) (two : Bool) (s : State) : Host.Outcome State Fault Refusal :=
  .next (if regsUp s then issueRead s m two else s)

/-- WRITE (R316, R318). -/
def execWrite (m : Fin 2) (two : Bool) (s : State) : Host.Outcome State Fault Refusal :=
  .next (if regsUp s then issueWrite s m two else s)

/-- JX_RA_TIMEOUT (R318). -/
def execJxRaTimeout (m : Fin 2) (s : State) : Host.Outcome State Fault Refusal := .next (raTimeout s m)

/-! ## Register accesses -/

/-- LO_READ_LATCH (R9, R13, R328): a register read; the word is left in `bus.read`. -/
def execLoReadLatch (m : Master) (a : BusAddr) (s : State) : Host.Outcome State Fault Refusal :=
  .next (readRegister s m a.addr a.be)

/-- LO_WRITE_STAGE (R14). -/
def execLoWriteStage (m : Master) (a : BusAddr) (v : Word) (s : State) : Host.Outcome State Fault Refusal :=
  .next (writeLo s m a.addr a.be v)

/-- HI_WRITE_COMMIT (R14). -/
def execHiWriteCommit (m : Master) (a : BusAddr) (v : Word) (s : State) : Host.Outcome State Fault Refusal :=
  .next (writeHi s m a.addr a.be v)

/-- REGISTER_WRITE (R9 to R11, R425). -/
def execRegisterWrite (m : Master) (a : BusAddr) (v : Word) (s : State) : Host.Outcome State Fault Refusal :=
  .next (writeOther s m a.addr a.be v)

end Sys2Proof.Machine
end

