-- ==== Sys2Proof/Machine/Sweeps.lean ====
section
/-!
DEFINITION. Commands of sweep lists and triggers (R172 to R188, R391, R392).
-/

namespace Sys2Proof.Machine

/-- ARM (R177, R295). -/
def execArm (ch : Fin 128) (s : State) : Host.Outcome State Fault Refusal :=
  .next (if regsUp s then armList s ch else s)

/-- DISARM (R177). -/
def execDisarm (ch : Fin 128) (s : State) : Host.Outcome State Fault Refusal :=
  .next (if regsUp s then updSw s ch disarmList else s)

/-- SWEEP_STEP_END (R175, R179). -/
def execSweepStepEnd (ch : Fin 128) (s : State) : Host.Outcome State Fault Refusal := .next (stepEnds s ch)

/-- MEASURE_WINDOW_OPEN (R175). -/
def execMeasureWindowOpen (ch : Fin 128) (s : State) : Host.Outcome State Fault Refusal :=
  .next (windowOpens s ch)

/-- MEASURE_WINDOW_CLOSE (R120, R175). -/
def execMeasureWindowClose (ch : Fin 128) (a : Aperture) (s : State) : Host.Outcome State Fault Refusal :=
  .next (windowCloses s ch a)

/-- APERTURE_RESULT_READY (R120, R125). -/
def execApertureResultReady (ch : Fin 128) (s : State) : Host.Outcome State Fault Refusal :=
  .next (resultReady s ch)

/-- TRIG_TIMEOUT (R181). -/
def execTrigTimeout (ch : Fin 128) (s : State) : Host.Outcome State Fault Refusal :=
  .next (waitTimeout s ch)

/-- TRIG_OUT_EVENT (R180). -/
def execTrigOutEvent (ch : Fin 128) (s : State) : Host.Outcome State Fault Refusal := .next (outEvent s ch)

/-- TRIG_INPUT_EDGE (R182). -/
def execTrigInputEdge (pin : Fin 16) (rising : Bool) (s : State) : Host.Outcome State Fault Refusal :=
  .next (trigEdge s pin rising)

/-- TRIG_PULSE_END (R182). -/
def execTrigPulseEnd (pin : Fin 16) (s : State) : Host.Outcome State Fault Refusal := .next (pulseEnd s pin)

/-- TIMER_FIRE (R183). -/
def execTimerFire (region : Fin 4) (timer : Fin 16) (s : State) : Host.Outcome State Fault Refusal :=
  .next (fireTimer s region timer)

/-- RING_EVENT_EXECUTE (R184). -/
def execRingEventExecute (event : Fin 32) (s : State) : Host.Outcome State Fault Refusal :=
  .next (executeEvent s event)

/-- SEQ_REGION_EVENT_WRITE (R185). -/
def execSeqRegionEventWrite (region : Fin 4) (v : Word) (s : State) : Host.Outcome State Fault Refusal :=
  .next (regionEvent s region v)

end Sys2Proof.Machine
end

