-- ==== Sys2Proof/Machine/Dispatch.lean ====
section
/-!
DEFINITION. One arm per command: the command's effect on everything but the queue of waiting commands.
-/

namespace Sys2Proof.Machine

/-- The effect of a command. -/
def exec (i : Instr) (s : State) : Host.Outcome State Fault Refusal :=
  match i with
  | .porstNAssert => Sys2Proof.Machine.execPorstNAssert s
  | .powerGood x => Sys2Proof.Machine.execPowerGood x s
  | .supplyOutOfLimits rail => Sys2Proof.Machine.execSupplyOutOfLimits rail s
  | .supplyWindowViolation rail above => Sys2Proof.Machine.execSupplyWindowViolation rail above s
  | .supplyWindowRestored rail => Sys2Proof.Machine.execSupplyWindowRestored rail s
  | .openPowerCycle => Sys2Proof.Machine.execOpenPowerCycle s
  | .estopNFall => Sys2Proof.Machine.execEstopNFall s
  | .estopNRise => Sys2Proof.Machine.execEstopNRise s
  | .pePerstNChange high => Sys2Proof.Machine.execPePerstNChange high s
  | .pcieLinkUp rate width => Sys2Proof.Machine.execPcieLinkUp rate width s
  | .flr => Sys2Proof.Machine.execFlr s
  | .bootStepComplete r => Sys2Proof.Machine.execBootStepComplete r s
  | .loaderStall => Sys2Proof.Machine.execLoaderStall s
  | .waggleStart => Sys2Proof.Machine.execWaggleStart s
  | .refSettled => Sys2Proof.Machine.execRefSettled s
  | .ready => Sys2Proof.Machine.execReady s
  | .readyComplete => Sys2Proof.Machine.execReadyComplete s
  | .run => Sys2Proof.Machine.execRun s
  | .hold => Sys2Proof.Machine.execHold s
  | .safe => Sys2Proof.Machine.execSafe s
  | .recover => Sys2Proof.Machine.execRecover s
  | .frameBoundary f => Sys2Proof.Machine.execFrameBoundary f s
  | .deadlineMiss a => Sys2Proof.Machine.execDeadlineMiss a s
  | .deglitchHoldEnd ch => Sys2Proof.Machine.execDeglitchHoldEnd ch s
  | .start ch => Sys2Proof.Machine.execStart ch s
  | .startComplete ch => Sys2Proof.Machine.execStartComplete ch s
  | .stop ch => Sys2Proof.Machine.execStop ch s
  | .stopArrive ch => Sys2Proof.Machine.execStopArrive ch s
  | .chRangeWrite ch v => Sys2Proof.Machine.execChRangeWrite ch v s
  | .irangeSequenceEnd ch => Sys2Proof.Machine.execIrangeSequenceEnd ch s
  | .vrangeHoldEnd ch => Sys2Proof.Machine.execVrangeHoldEnd ch s
  | .autorangeDown ch => Sys2Proof.Machine.execAutorangeDown ch s
  | .overcurrentTrip x => Sys2Proof.Machine.execOvercurrentTrip x s
  | .overvoltageTrip x => Sys2Proof.Machine.execOvervoltageTrip x s
  | .clampActive ch => Sys2Proof.Machine.execClampActive ch s
  | .rangeSwitch x code current => Sys2Proof.Machine.execRangeSwitch x code current s
  | .leadDrop ch => Sys2Proof.Machine.execLeadDrop ch s
  | .cslWindowFault comb => Sys2Proof.Machine.execCslWindowFault comb s
  | .openLoad ch => Sys2Proof.Machine.execOpenLoad ch s
  | .monitorDisagree ch => Sys2Proof.Machine.execMonitorDisagree ch s
  | .modelResidual ch => Sys2Proof.Machine.execModelResidual ch s
  | .feedbackFrozen ch => Sys2Proof.Machine.execFeedbackFrozen ch s
  | .budgetThermal die => Sys2Proof.Machine.execBudgetThermal die s
  | .rampZeroTimeout ch => Sys2Proof.Machine.execRampZeroTimeout ch s
  | .tempSample temps => Sys2Proof.Machine.execTempSample temps s
  | .sentinelReport reports => Sys2Proof.Machine.execSentinelReport reports s
  | .vcoreStepDown => Sys2Proof.Machine.execVcoreStepDown s
  | .vcoreSenseConfirm => Sys2Proof.Machine.execVcoreSenseConfirm s
  | .vcoreMismatch above => Sys2Proof.Machine.execVcoreMismatch above s
  | .tbFrameWrite v => Sys2Proof.Machine.execTbFrameWrite v s
  | .tbLdgVminWrite v => Sys2Proof.Machine.execTbLdgVminWrite v s
  | .pgTargetWrite ch v => Sys2Proof.Machine.execPgTargetWrite ch v s
  | .chCompWrite ch hi v => Sys2Proof.Machine.execChCompWrite ch hi v s
  | .lpBankSelWrite ch sel => Sys2Proof.Machine.execLpBankSelWrite ch sel s
  | .coefWrite ch bankB offset v => Sys2Proof.Machine.execCoefWrite ch bankB offset v s
  | .encQuadEdge enc e => Sys2Proof.Machine.execEncQuadEdge enc e s
  | .encIndexEdge enc => Sys2Proof.Machine.execEncIndexEdge enc s
  | .ssiWordDone enc started bits check => Sys2Proof.Machine.execSsiWordDone enc started bits check s
  | .ssiErrorRun enc => Sys2Proof.Machine.execSsiErrorRun enc s
  | .arm ch => Sys2Proof.Machine.execArm ch s
  | .disarm ch => Sys2Proof.Machine.execDisarm ch s
  | .sweepStepEnd ch => Sys2Proof.Machine.execSweepStepEnd ch s
  | .measureWindowOpen ch => Sys2Proof.Machine.execMeasureWindowOpen ch s
  | .measureWindowClose ch a => Sys2Proof.Machine.execMeasureWindowClose ch a s
  | .apertureResultReady ch => Sys2Proof.Machine.execApertureResultReady ch s
  | .trigTimeout ch => Sys2Proof.Machine.execTrigTimeout ch s
  | .trigOutEvent ch => Sys2Proof.Machine.execTrigOutEvent ch s
  | .trigInputEdge pin rising => Sys2Proof.Machine.execTrigInputEdge pin rising s
  | .trigPulseEnd pin => Sys2Proof.Machine.execTrigPulseEnd pin s
  | .timerFire region timer => Sys2Proof.Machine.execTimerFire region timer s
  | .ringEventExecute event => Sys2Proof.Machine.execRingEventExecute event s
  | .seqRegionEventWrite region v => Sys2Proof.Machine.execSeqRegionEventWrite region v s
  | .calTriggerCheck => Sys2Proof.Machine.execCalTriggerCheck s
  | .internal unit => Sys2Proof.Machine.execInternal unit s
  | .reqAll => Sys2Proof.Machine.execReqAll s
  | .termOpen ch => Sys2Proof.Machine.execTermOpen ch s
  | .termShort ch => Sys2Proof.Machine.execTermShort ch s
  | .termClear ch => Sys2Proof.Machine.execTermClear ch s
  | .calRunVerdict comb r => Sys2Proof.Machine.execCalRunVerdict comb r s
  | .calCommitDone comb slot => Sys2Proof.Machine.execCalCommitDone comb slot s
  | .calPrepared comb => Sys2Proof.Machine.execCalPrepared comb s
  | .calHandback comb => Sys2Proof.Machine.execCalHandback comb s
  | .termRunDone ch r => Sys2Proof.Machine.execTermRunDone ch r s
  | .repair comb unit => Sys2Proof.Machine.execRepair comb unit s
  | .release comb => Sys2Proof.Machine.execRelease comb s
  | .faultOnset msgs => Sys2Proof.Machine.execFaultOnset msgs s
  | .faultEnd kind source => Sys2Proof.Machine.execFaultEnd kind source s
  | .notice m => Sys2Proof.Machine.execNotice m s
  | .fltAck v => Sys2Proof.Machine.execFltAck v s
  | .histClr => Sys2Proof.Machine.execHistClr s
  | .firstClr => Sys2Proof.Machine.execFirstClr s
  | .fltHistW0LoRead m slot => Sys2Proof.Machine.execFltHistW0LoRead m slot s
  | .fltWaggleWrite v => Sys2Proof.Machine.execFltWaggleWrite v s
  | .waggleResume => Sys2Proof.Machine.execWaggleResume s
  | .coreWatchdog => Sys2Proof.Machine.execCoreWatchdog s
  | .collStall => Sys2Proof.Machine.execCollStall s
  | .storeSchedCycle => Sys2Proof.Machine.execStoreSchedCycle s
  | .openStream strm => Sys2Proof.Machine.execOpenStream strm s
  | .closeStream strm => Sys2Proof.Machine.execCloseStream strm s
  | .captureBlockClose strm raw => Sys2Proof.Machine.execCaptureBlockClose strm raw s
  | .ringBlockReadDone ring => Sys2Proof.Machine.execRingBlockReadDone ring s
  | .setMark ring => Sys2Proof.Machine.execSetMark ring s
  | .clrMark ring => Sys2Proof.Machine.execClrMark ring s
  | .rewind ring => Sys2Proof.Machine.execRewind ring s
  | .queueEn q en => Sys2Proof.Machine.execQueueEn q en s
  | .flush q => Sys2Proof.Machine.execFlush q s
  | .queueFlushTimeout q => Sys2Proof.Machine.execQueueFlushTimeout q s
  | .queueItemWrite q item => Sys2Proof.Machine.execQueueItemWrite q item s
  | .queueItemRead q => Sys2Proof.Machine.execQueueItemRead q s
  | .sqWrHiWrite m q v => Sys2Proof.Machine.execSqWrHiWrite m q v s
  | .sqRdLoRead m q => Sys2Proof.Machine.execSqRdLoRead m q s
  | .queueItemVisible q => Sys2Proof.Machine.execQueueItemVisible q s
  | .queueCreditVisible q => Sys2Proof.Machine.execQueueCreditVisible q s
  | .dmaEn e en => Sys2Proof.Machine.execDmaEn e en s
  | .abort e => Sys2Proof.Machine.execAbort e s
  | .dmaTailWrite e v => Sys2Proof.Machine.execDmaTailWrite e v s
  | .dmaDescriptorDone e d hostData reads => Sys2Proof.Machine.execDmaDescriptorDone e d hostData reads s
  | .mbxDataWrite ch h2c v => Sys2Proof.Machine.execMbxDataWrite ch h2c v s
  | .mbxDataRead ch h2c => Sys2Proof.Machine.execMbxDataRead ch h2c s
  | .ping ch request => Sys2Proof.Machine.execPing ch request s
  | .fwVersion ch request => Sys2Proof.Machine.execFwVersion ch request s
  | .resetCause ch request => Sys2Proof.Machine.execResetCause ch request s
  | .mbxUnknownOp ch request => Sys2Proof.Machine.execMbxUnknownOp ch request s
  | .lockRead m l => Sys2Proof.Machine.execLockRead m l s
  | .lockRelease m l v => Sys2Proof.Machine.execLockRelease m l v s
  | .secAuthStart => Sys2Proof.Machine.execSecAuthStart s
  | .verify => Sys2Proof.Machine.execVerify s
  | .secVerifyDone => Sys2Proof.Machine.execSecVerifyDone s
  | .provImgKey ch request => Sys2Proof.Machine.execProvImgKey ch request s
  | .provDecKey ch request => Sys2Proof.Machine.execProvDecKey ch request s
  | .provHostKey ch request => Sys2Proof.Machine.execProvHostKey ch request s
  | .attest ch request => Sys2Proof.Machine.execAttest ch request s
  | .setDbgPolicy ch request => Sys2Proof.Machine.execSetDbgPolicy ch request s
  | .dbgOpen src x => Sys2Proof.Machine.execDbgOpen src x s
  | .sessionClose ch request => Sys2Proof.Machine.execSessionClose ch request s
  | .join => Sys2Proof.Machine.execJoin s
  | .leave => Sys2Proof.Machine.execLeave s
  | .holdAll => Sys2Proof.Machine.execHoldAll s
  | .ringLocalTrained ok => Sys2Proof.Machine.execRingLocalTrained ok s
  | .ringLinkTrained => Sys2Proof.Machine.execRingLinkTrained s
  | .jxTimeSend => Sys2Proof.Machine.execJxTimeSend s
  | .time f residence => Sys2Proof.Machine.execTime f residence s
  | .enum f => Sys2Proof.Machine.execEnum f s
  | .event f => Sys2Proof.Machine.execEvent f s
  | .fault6 f => Sys2Proof.Machine.execFault6 f s
  | .fault6Resend => Sys2Proof.Machine.execFault6Resend s
  | .rdReq f => Sys2Proof.Machine.execRdReq f s
  | .rdRsp f => Sys2Proof.Machine.execRdRsp f s
  | .wrReq f => Sys2Proof.Machine.execWrReq f s
  | .wrRsp f => Sys2Proof.Machine.execWrRsp f s
  | .block f => Sys2Proof.Machine.execBlock f s
  | .qitems f => Sys2Proof.Machine.execQitems f s
  | .jxFrameForward p => Sys2Proof.Machine.execJxFrameForward p s
  | .ringCrc => Sys2Proof.Machine.execRingCrc s
  | .ringLossTimeout noLock => Sys2Proof.Machine.execRingLossTimeout noLock s
  | .read m two => Sys2Proof.Machine.execRead m two s
  | .write m two => Sys2Proof.Machine.execWrite m two s
  | .jxRaTimeout m => Sys2Proof.Machine.execJxRaTimeout m s
  | .loReadLatch m a => Sys2Proof.Machine.execLoReadLatch m a s
  | .loWriteStage m a v => Sys2Proof.Machine.execLoWriteStage m a v s
  | .hiWriteCommit m a v => Sys2Proof.Machine.execHiWriteCommit m a v s
  | .registerWrite m a v => Sys2Proof.Machine.execRegisterWrite m a v s
  | .hrApertureEnd ch a => Sys2Proof.Machine.execHrApertureEnd ch a s
  | .waggleToggle => Sys2Proof.Machine.execWaggleToggle s
  | .vcoreSenseRestored => Sys2Proof.Machine.execVcoreSenseRestored s
  | .authLockoutEnd => Sys2Proof.Machine.execAuthLockoutEnd s
  | .ringLockLost => Sys2Proof.Machine.execRingLockLost s
  | .alignedTimeout => Sys2Proof.Machine.execAlignedTimeout s
  | .streamPortAligned => Sys2Proof.Machine.execStreamPortAligned s
  | .d3hot enter => Sys2Proof.Machine.execD3hot enter s
  | .tapInstruction ir => Sys2Proof.Machine.execTapInstruction ir s
  | .causewayCrc die retrain => Sys2Proof.Machine.execCausewayCrc die retrain s
  | .mbxFullVisible ch h2c => Sys2Proof.Machine.execMbxFullVisible ch h2c s

end Sys2Proof.Machine
end

