-- ==== Sys2Proof/Safety.lean ====
section
/-!
DEFINITION. What holds of the module in every state it reaches, in the words claims use.
-/

namespace Sys2Proof.Machine

/-- A queue's places (R254, R257, R260): each of the 8,192 is a credit, an item, or a credit on its way back,
and the consumer sees no item that is not there. -/
def Queue.balanced (q : Queue) : Prop :=
  q.items.length + q.credit + q.returning = 8192 ∧ q.visible ≤ q.items.length

/-- A lock holds no owner id but those of R341, 0 when it is free. -/
def locksLegal (s : State) : Prop := ∀ l : Fin 64, s.lock[l] ≤ 8

/-- The store lists its bytes in one form: rising addresses, no byte that reads as an unlisted one. -/
def storeCanonical (s : State) : Prop := Memory.wf s.sto.mem = true

/-- Every queue's account is balanced. -/
def queuesBalanced (s : State) : Prop := ∀ q : Fin 32, s.sq[q].balanced

/-- The WAGGLE pin (R290, R291): STOP_CAUSE is 0 while it toggles and no other time, and a stopped pin is low. -/
def waggleLegal (s : State) : Prop :=
  (s.pins.toggling = true ↔ s.flt.stopCause = 0) ∧ (s.pins.toggling = false → s.pins.waggle = false)

/-- At most one repair of a comb is on its way: it waits, its commit is in progress, or its map change is due (R212). -/
def Comb.oneRepair (k : Comb) : Prop :=
  (k.repairPend = none ∨ k.repairCommit = none) ∧ (k.mapPend = none ∨ k.repairPend = none ∧ k.repairCommit = none)

/-- A comb's map (R212, R394): every channel on its own unit and no repair recorded, with at most one repair
on its way; or the one channel ASSIGNED names on the spare, and no repair on its way. -/
def Comb.legal (k : Comb) : Prop :=
  (k.assigned = 15 ∧ k.map = Comb.reset.map ∧ k.oneRepair) ∨
    ∃ i : Fin 8, k.assigned = i.val ∧ k.map = Comb.reset.map.set i 8 ∧ k.mapPend = none ∧ k.repairPend = none ∧
      k.repairCommit = none

/-- Every comb's map is legal. -/
def combsLegal (s : State) : Prop := ∀ c : Fin 16, s.comb[c].legal

/-- The invariants of the module's stores and tables. -/
structure Sound (s : State) : Prop where
  queues : queuesBalanced s
  locks : locksLegal s
  store : storeCanonical s
  waggle : waggleLegal s
  combs : combsLegal s

/-- An output that drives nothing: the switch open, high impedance. -/
def Channel.isHiz (h : Channel) : Prop := h.switchOn = false ∧ h.out = .hiz

/-- The frame boundary ahead is one of RUN at which nothing but the frame itself is due: no message waits at the collector,
no mode request, no change of period, no START of the automatic path, no value of a queue. -/
structure PlainFrame (s : State) : Prop where
  running : s.tb.running = true
  inbox : s.flt.inbox = []
  mode : s.mod.mode = .run
  requests : s.mod.safeReq = false ∧ s.mod.safePend = false ∧ s.mod.holdReq = false ∧ s.mod.runReq = false
  auto : s.mod.autoStart = false
  period : s.tb.changeAt = none ∧ s.tb.reqPend = false
  values : ∀ q : Fin 32, s.sq[q].values = []

/-- A channel whose list is IDLE with nothing asked of it. -/
def Channel.listQuiet (h : Channel) : Prop :=
  h.sw.state = .idle ∧ h.sw.armReq = false ∧ h.sw.disarmReq = false ∧ h.sw.endLate = false

/-- What a refused request leaves of the ledger (R223): after a refusal by a stage margin TB_LDG_NEED, and VCORE's steps up
for 100 ms, the first at once where none is outstanding; after one by the bandwidth account alone neither. -/
structure RefusalNoted (v : Verdict) (need : Rat) (s t : State) : Prop where
  stage : v = .refusedByStage → t.ldg.need = need ∧ t.ldg.refusedUntil = s.tb.now + 80000000 ∧
    t.ldg.vcore = (if s.ldg.vcore ≠ 0 ∧ s.ldg.waitSense = false ∧ s.ldg.vcore < 900 ∧ need < s.ldg.ts
      then s.ldg.vcore + 10 else s.ldg.vcore)
  bandwidth : v = .refusedByBandwidth → t.ldg.need = s.ldg.need ∧ t.ldg.refusedUntil = s.ldg.refusedUntil ∧
    t.ldg.vcore = s.ldg.vcore

/-- A whole frame of a type reaches a member it is for: this one alone, or all (R302, R304). -/
abbrev arrives (s : State) (f : Frame) (type : Nat) : Prop :=
  receives s = true ∧ crcOk f = true ∧ f.type = type ∧ isOwn s f = false ∧ consumes s f = true

/-- The own frame of a type has come round whole, with the LEN of its type (R302, R304). -/
abbrev comesBack (s : State) (f : Frame) (type : Nat) : Prop :=
  receives s = true ∧ crcOk f = true ∧ f.type = type ∧ isOwn s f = true ∧ frameKnown f = true

/-- Commands run one after another, each answering a next state. -/
def runs : List Instr → State → State → Prop
  | [], s, t => s = t
  | c :: l, s, t => ∃ u, exec c s = .next u ∧ runs l u t

end Sys2Proof.Machine
end

