-- ==== Sys2Proof/Certificates/Slice0/Obligations.lean ====
section
/-!
DEFINITION. The statements for the provers: what the commands of each family do and leave alone, in the words of the
manual's rules, and the invariants of every step.
-/

open Sys2Proof Sys2Proof.Machine

/-- The step: the command at the front runs with the rest of the queue left waiting (the order in which commands run
is the queue's, A1). -/
def Obligations.StepRunsFrontCommand : Prop :=
  ∀ (c : Instr) (rest : List Instr) (s : State),
    step { s with pending := c :: rest } = exec c { s with pending := rest }

/-- No command ends a run, and on an empty queue the block idles: a running timebase counts one tick, with which JX_OUT
sends on, and nothing else changes (that the idle step is a tick of the timebase is the model's choice, A4). -/
def Obligations.EveryStepAnswersNext : Prop :=
  (∀ (c : Instr) (s : State), ∃ t, exec c s = .next t) ∧
  (∀ s : State, s.pending = [] →
    step s = .next (if s.tb.running then tickLine { s with tb := { s.tb with now := s.tb.now + 1 } } else s))

/-- No command touches the queue of the commands that wait. -/
def Obligations.ExecKeepsQueue : Prop :=
  ∀ (c : Instr) (s t : State), exec c s = .next t → t.pending = s.pending

/-- The invariants that every step keeps, from every state that has them: the queues' accounts balance (R254, R257,
R260), locks hold legal owners (R341), the store's bytes keep one form, the WAGGLE pin agrees with STOP_CAUSE
(R290, R291), and every comb's map is legal, with at most one repair on its way (R212, R394). -/
def Obligations.SoundKeptByEveryStep : Prop :=
  ∀ s t : State, Sound s → step s = .next t → Sound t

/-- The invariants hold right after reset (R212, R254, R281, R290, R341). -/
def Obligations.ResetIsSound : Prop :=
  Sound State.reset

/-- What reset leaves, at the values the spec gives (R38, R44, R53, R64, R176, R230, R254, R281, R290, R358 to
R377): BYPASS, no boot error, WAGGLE low, every channel STOPPED with its output open, every list IDLE, all 8,192
credits of a queue back, no lock owned, no fault recorded, the by-pass closed. -/
def Obligations.ResetState : Prop :=
  State.reset.mod.mode = .bypass ∧ State.reset.boot.err = 0 ∧ State.reset.boot.step = 0 ∧
  State.reset.pins.waggle = false ∧ State.reset.pins.toggling = false ∧
  State.reset.flt.wagLevel = 5 ∧ State.reset.flt.latch = 0 ∧ State.reset.flt.hist.cnt = 0 ∧
  State.reset.tb.frame = 800 ∧ State.reset.tb.act = 800 ∧ State.reset.ldg.vmin = 550 ∧
  State.reset.jx.bypassed = true ∧ State.reset.jx.id = 1023 ∧ State.reset.sec.auth = false ∧
  (∀ c : Fin 128, State.reset.ch[c].state = .stopped ∧ State.reset.ch[c].isHiz ∧
    State.reset.ch[c].sw.state = .idle) ∧
  (∀ q : Fin 32, State.reset.sq[q].en = false ∧ State.reset.sq[q].items = [] ∧
    State.reset.sq[q].credit = 8192) ∧
  (∀ l : Fin 64, State.reset.lock[l] = 0) ∧
  (∀ k : Fin 29, State.reset.flt.outLvl[k] = 0)

/-- Losses of power and PORST_N (R13, R14, R38, R40, R44, R63, R339, R345, R353, R358): PORST_N low outside OPEN leaves
BYPASS with every register at its reset value, the latches and stages of the buses among them; the stored bytes (that
the capture store's stay is the model's reading, A5), the units' slots and factory trims, the stored security state and
lifetime counts, the by-pass's count, the vendor's number and the levels at the pins are kept. In OPEN it resets the
cores and OPEN stays. A power cycle leaves BYPASS from every mode, the policy and the slots kept, the store empty (A5); a
rail outside its operating limits leaves BYPASS with every channel open, the timebase stopped and the by-pass closed,
and does nothing in BYPASS and OPEN. -/
def Obligations.PowerLossLeavesBypass : Prop :=
  (∀ s : State, s.mod.mode ≠ .opened → ∃ t, exec .porstNAssert s = .next t ∧
    t.mod.mode = .bypass ∧ t.pins.porstN = false ∧ t.pins.waggle = false ∧ t.pins.toggling = false ∧
    t.pins.estopLow = s.pins.estopLow ∧ t.pins.perstN = s.pins.perstN ∧
    t.mod.serial = s.mod.serial ∧ t.mod.fw = s.mod.fw ∧ t.mod.lifePon = s.mod.lifePon ∧
    t.mod.lifeLock = s.mod.lifeLock ∧ t.mod.lifeOpen = s.mod.lifeOpen ∧ t.mod.scratch = 0 ∧
    t.tb = Timebase.reset ∧ t.ldg = Ledger.reset ∧ t.pwr = Power.reset ∧ t.flt = Collector.reset ∧
    (∀ c : Fin 128, t.ch[c] = Channel.reset) ∧ (∀ c : Fin 16, t.comb[c] = Comb.reset) ∧ t.cal = CalGlobal.reset ∧
    (∀ p : Fin 144, t.unit[p].slotA = s.unit[p].slotA ∧ t.unit[p].slotB = s.unit[p].slotB ∧
      t.unit[p].factory = s.unit[p].factory ∧ t.unit[p].running = false) ∧
    (∀ p : Fin 16, t.seq.trig[p].level = s.seq.trig[p].level ∧ t.seq.trig[p].cfg = 0) ∧
    (∀ e : Fin 32, t.seq.enc[e] = Encoder.reset) ∧ t.seq.timer = SeqBlock.reset.timer ∧ t.seq.events = [] ∧
    (∀ q : Fin 32, t.sq[q] = Queue.reset) ∧ t.sto = { Store.reset with mem := s.sto.mem } ∧
    t.jx.bypassed = true ∧ t.jx.id = 1023 ∧ t.jx.cfg = Jx.reset.cfg ∧ t.jx.line = Jx.reset.line ∧
    t.jx.bypCount = (if s.jx.bypassed then s.jx.bypCount else s.jx.bypCount + 1) ∧
    t.hst = { Hst.reset with vendor := s.hst.vendor } ∧ (∀ e : Fin 8, t.dma[e] = Dma.reset) ∧
    (∀ n : Fin 20, t.mbx[n] = ⟨Mbx.reset, Mbx.reset⟩) ∧ (∀ l : Fin 64, t.lock[l] = 0) ∧ t.boot = Boot.reset ∧
    t.sec.auth = false ∧ t.sec.session = none ∧ t.sec.policy = s.sec.policy ∧ t.sec.decKey = s.sec.decKey ∧
    t.sec.recA = s.sec.recA ∧ t.sec.recB = s.sec.recB ∧ t.bus = Bus.reset) ∧
  (∀ s : State, s.mod.mode = .opened → ∃ t, exec .porstNAssert s = .next t ∧
    t.mod.mode = .opened ∧ t.pins.porstN = false ∧ t.mod.resetCause = 2 ∧ t.sec.auth = false) ∧
  (∀ s : State, ∃ t, exec .openPowerCycle s = .next t ∧
    t.mod.mode = .bypass ∧ t.pins.porstN = s.pins.porstN ∧ t.pins.waggle = false ∧
    (∀ c : Fin 128, t.ch[c] = Channel.reset) ∧ t.tb = Timebase.reset ∧ t.flt = Collector.reset ∧
    t.sec.auth = false ∧ t.sec.policy = s.sec.policy ∧ t.sto.mem = [] ∧
    (∀ p : Fin 144, t.unit[p].slotA = s.unit[p].slotA ∧ t.unit[p].slotB = s.unit[p].slotB)) ∧
  (∀ (rail : Fin 7) (s : State), s.mod.mode ≠ .bypass → s.mod.mode ≠ .opened →
    ∃ t, exec (.supplyOutOfLimits rail) s = .next t ∧ t.mod.mode = .bypass ∧
      (∀ c : Fin 128, t.ch[c] = Channel.reset) ∧ t.tb.running = false ∧ t.tb.now = 0 ∧
      t.jx.bypassed = true ∧ t.boot = Boot.reset ∧
      (Sound s → t.pins.waggle = false ∧ t.pins.toggling = false)) ∧
  (∀ (rail : Fin 7) (s : State), s.mod.mode = .bypass ∨ s.mod.mode = .opened →
    exec (.supplyOutOfLimits rail) s = .next s)

/-- Supplies good and PORST_N high in BYPASS (R38, R49, R229, R340, R358): BOOT starts at its first step with
nothing of an image loaded; where PORST_N rises REFCLK_SEL is sampled and RESET_CAUSE cleared; LIFE_PON
counts. In OPEN, where PORST_N has reset the cores alone (R40), its rise samples REFCLK_SEL too and OPEN stays. Once the
collector has stalled, only PORST_N starts BOOT again: until it falls no BOOT starts (R294, R295; that this holds for
supplies that return is the model's inference, A29). -/
def Obligations.PowerGoodStartsBoot : Prop :=
  (∀ (x : PowerUp) (s : State), s.mod.mode = .bypass → s.mod.collStall = true →
    ∃ t, exec (.powerGood x) s = .next t ∧ t.pins = { s.pins with porstN := true } ∧ t.boot = s.boot ∧ t.ch = s.ch ∧
      t.mod = { s.mod with refclk10M := if s.pins.porstN then s.mod.refclk10M else !x.refclkSel }) ∧
  (∀ (x : PowerUp) (s : State), s.mod.mode = .bypass → s.mod.collStall = false → ∃ t, exec (.powerGood x) s = .next t ∧
    t.mod.mode = .boot ∧ t.pins.porstN = true ∧ t.boot = Boot.reset ∧
    (∀ c : Fin 128, t.ch[c] = Channel.reset) ∧
    t.mod.lifePon = Nat.min (s.mod.lifePon + 1) 4294967295 ∧
    (s.pins.porstN = false → t.mod.refclk10M = (!x.refclkSel) ∧ t.mod.resetCause = 0) ∧
    (s.pins.porstN = true → t.mod.refclk10M = s.mod.refclk10M ∧ t.mod.resetCause = s.mod.resetCause) ∧
    t.sto.mem = s.sto.mem ∧ t.unit = s.unit ∧ t.sec = s.sec) ∧
  (∀ (x : PowerUp) (s : State), s.mod.mode = .opened → s.pins.porstN = false →
    ∃ t, exec (.powerGood x) s = .next t ∧ t.mod = { s.mod with refclk10M := !x.refclkSel } ∧ t.pins.porstN = true ∧
      t.ch = s.ch ∧ t.boot = s.boot)

/-- A rail outside its window (R217, R273, R406): from SAFE onwards the rail's side is kept and SUPPLY_UV or SUPPLY_OV
stands at every source of the rail (that rails 0 to 2 stand at both isle dies is the model's reading, A30); VCORE is
rail 6. Back in the window, the rail's mark clears. Only the marks and the messages on their way to the collector change.
During BOOT a violation ends BOOT with BOOT_ERR 0x0B (R53, R217). Readings and reports (R35, R216, R273,
R274): the sensors' temperatures are kept, each hot above its limit until 5 °C below it; t_s is 1.1 times the
largest sentinel report of the last ten, and with it a step up may be requested; a causeway's CRC error or
retraining is sent from its die. VCORE (R217, R218): a step down requests 10 mV less over AVSBus when its
conditions hold and waits for the sense; a confirmation ends the wait, with which the next step up may be
requested; a multiple of 10 mV from 550 to 900 sets the floor, any other value sets SET_REJ. -/
def Obligations.PowerManager : Prop :=
  (∀ (rail : Fin 7) (above : Bool) (s : State), regsUp s = true →
    ∃ inbox, exec (.supplyWindowViolation rail above) s = .next { s with
        pwr := { s.pwr with railOut := s.pwr.railOut.set rail (if above then 2 else 1) }
        flt := { s.flt with inbox := inbox } } ∧
      ∀ x ∈ railSources rail.val,
        isPresent { s with flt := { s.flt with inbox := inbox } } (if above then 0x10 else 0x0F) x = true) ∧
  (∀ (c : Instr) (rail : Fin 7) (above : Bool) (s : State), s.mod.mode = .boot → s.mod.collStall = false →
    c = .supplyWindowViolation rail above ∨ c = .vcoreMismatch above →
    ∃ t, exec c s = .next t ∧ t.mod.mode = .lockdown ∧ t.boot.err = 0x0B ∧ t.boot.step = s.boot.step ∧
      t.boot.image = none) ∧
  (∀ (above : Bool) (s : State), regsUp s = true →
    ∃ inbox, exec (.vcoreMismatch above) s = .next { s with
        pwr := { s.pwr with railOut := s.pwr.railOut.set 6 (if above then 2 else 1) }
        flt := { s.flt with inbox := inbox } } ∧
      isPresent { s with flt := { s.flt with inbox := inbox } } (if above then 0x10 else 0x0F) 0x302 = true) ∧
  (∀ (rail : Fin 7) (s : State), ∃ inbox, exec (.supplyWindowRestored rail) s = .next { s with
        pwr := { s.pwr with railOut := s.pwr.railOut.set rail 0 }, flt := { s.flt with inbox := inbox } }) ∧
  (∀ s : State, ∃ inbox, exec .vcoreSenseRestored s = .next { s with
        pwr := { s.pwr with railOut := s.pwr.railOut.set 6 0 }, flt := { s.flt with inbox := inbox } } ∧
      isPresent { s with flt := { s.flt with inbox := inbox } } 0x0F 0x302 = false ∧
      isPresent { s with flt := { s.flt with inbox := inbox } } 0x10 0x302 = false) ∧
  (∀ (temps : Vector Rat 22) (s : State), s.mod.mode ≠ .bypass →
    ∃ hot inbox, exec (.tempSample temps) s = .next { s with
        pwr := { s.pwr with temps := temps, hot := hot }, flt := { s.flt with inbox := inbox } } ∧
      (∀ i : Fin 22, hot[i] = true ↔ b64ToRat s.pwr.tlim[i] < temps[i] ∨
          (s.pwr.hot[i] = true ∧ b64ToRat s.pwr.tlim[i] - 5 < temps[i]))) ∧
  (∀ (r : Vector Rat 16) (s : State), s.mod.mode ≠ .bypass →
    ∃ t, exec (.sentinelReport r) s = .next t ∧
      t.ldg.reports = (r.toList.foldl maxR 0 :: s.ldg.reports).take 10 ∧
      t.ldg.ts = 11 / 10 * ((r.toList.foldl maxR 0 :: s.ldg.reports).take 10).foldl maxR 0 ∧
      (t.ldg.vcore = s.ldg.vcore ∧ t.out = s.out ∨ s.ldg.waitSense = false ∧ t.ldg.vcore = s.ldg.vcore + 10 ∧
        t.ldg.waitSense = true ∧ t.out.avs = (s.ldg.vcore + 10) :: s.out.avs) ∧
      t.ch = s.ch ∧ t.mod = s.mod ∧ t.tb = s.tb) ∧
  (∀ (die : Fin 2) (retrain : Bool) (s : State), regsUp s = true →
    exec (.causewayCrc die retrain) s = .next { s with flt := { s.flt with
      inbox := s.flt.inbox ++ [⟨⟨if retrain then 0x4E else 0x11, 0x300 + die.val, 0⟩, s.tb.now⟩] } }) ∧
  (∀ s : State, mayStepDown s = true → exec .vcoreStepDown s = .next { s with
    ldg := { s.ldg with aboveSince := none, downSense := true, vcore := s.ldg.vcore - 10, waitSense := true }
    out := { s.out with avs := (s.ldg.vcore - 10) :: s.out.avs } }) ∧
  (∀ s : State, s.ldg.waitSense = true →
    ∃ t, exec .vcoreSenseConfirm s = .next t ∧
      (t.ldg.vcore = s.ldg.vcore ∧ t.ldg.waitSense = false ∧ t.out = s.out ∨ t.ldg.vcore = s.ldg.vcore + 10 ∧
        t.ldg.waitSense = true ∧ t.out.avs = (s.ldg.vcore + 10) :: s.out.avs) ∧
      t.ch = s.ch ∧ t.mod = s.mod ∧ t.flt = s.flt) ∧
  (∀ (v : Word) (s : State), regsUp s = true →
    (field v 9 0 % 10 = 0 ∧ 550 ≤ field v 9 0 ∧ field v 9 0 ≤ 900 →
      ∃ t, exec (.tbLdgVminWrite v) s = .next t ∧ t.ldg.vmin = field v 9 0 ∧
        (t.ldg.vcore = s.ldg.vcore ∧ t.out = s.out ∨ t.ldg.vcore = s.ldg.vcore + 10 ∧
          t.out.avs = (s.ldg.vcore + 10) :: s.out.avs) ∧ t.tb = s.tb ∧ t.ch = s.ch) ∧
    (field v 9 0 % 10 ≠ 0 ∨ field v 9 0 < 550 ∨ 900 < field v 9 0 →
      exec (.tbLdgVminWrite v) s = .next { s with tb := { s.tb with setRej := true } }))

/-- ESTOP_N low opens every output from BOOT onwards, whatever the channel does: the driver and the guard are off, a
booster's drive is at 0 V, and ESTOP stands at the pin's source; ESTOP_N high again changes no channel and ends ESTOP (R101, R102). -/
def Obligations.EstopOpensEveryOutput : Prop :=
  (∀ s : State, s.pins.estopLow = false → s.mod.mode ≠ .bypass →
    ∃ t, exec .estopNFall s = .next t ∧ t.pins.estopLow = true ∧ (∀ c : Fin 128, t.ch[c].isHiz) ∧
      (∀ c : Fin 128, (terminal t.ch[c]).driver = false ∧ (terminal t.ch[c]).guard = none ∧
        (usesBooster t.ch[c].cfg = true → (terminal t.ch[c]).bdrvZero = true)) ∧
      isPresent t 0x18 0x409 = true ∧ t.mod.mode = s.mod.mode ∧ t.sto.mem = s.sto.mem) ∧
  (∀ s : State, ∃ inbox, exec .estopNRise s = .next { s with
      pins := { s.pins with estopLow := false }, flt := { s.flt with inbox := inbox } } ∧
    isPresent { s with flt := { s.flt with inbox := inbox } } 0x18 0x409 = false)

/-- The host link (R326, R339, R373, R414): PE_PERST_N high releases the function; low, or FLR, resets it: the
host's locks are free, every DMA engine is off and empty, unread C2H messages are gone with ABORTED set, every
H2C EPOCH toggles and the session ends; low also takes the link down. Training sets rate and width; D3hot is
entered and left. PORST_N low holds all of it at reset, but in OPEN, where it resets the cores alone (R40). -/
def Obligations.HostLink : Prop :=
  (∀ s : State, exec (.pePerstNChange true) s = .next { s with pins := { s.pins with perstN := true } }) ∧
  (∀ (c : Instr) (s : State), linkLive s = true → c = .pePerstNChange false ∨ c = .flr →
    ∃ t, exec c s = .next t ∧ (∀ l : Fin 64, t.lock[l] = if s.lock[l] = 1 then 0 else s.lock[l]) ∧
      (∀ e : Fin 8, t.dma[e].en = false ∧ t.dma[e].head = 0 ∧ t.dma[e].tail = 0) ∧ t.sec.auth = false ∧
      (∀ n : Fin 20, t.mbx[n].c2h.full = false) ∧
      (∀ n : Fin 20, n.val < 16 → t.mbx[n].h2c = { s.mbx[n].h2c with epoch := !s.mbx[n].h2c.epoch } ∧
        t.mbx[n].c2h.aborted = true) ∧
      (c = .pePerstNChange false → t.pins.perstN = false ∧ t.hst.up = false ∧ t.hst.d3hot = false) ∧
      (c = .flr → t.pins = s.pins ∧ t.hst = s.hst) ∧
      t.ch = s.ch ∧ t.sq = s.sq ∧ t.sto = s.sto ∧ t.mod = s.mod) ∧
  (∀ (rate width : Nat) (s : State), linkLive s = true → s.pins.perstN = true → linkOk rate width = true →
    ∃ inbox, exec (.pcieLinkUp rate width) s = .next { s with
        hst := { s.hst with up := true, rate := rate, width := width, trained := true }
        flt := { s.flt with inbox := inbox } } ∧ (s.hst.trained = false → inbox = s.flt.inbox)) ∧
  (∀ (enter : Bool) (s : State), linkLive s = true → s.pins.perstN = true →
    exec (.d3hot enter) s = .next { s with hst := { s.hst with d3hot := enter } }) ∧
  (∀ s : State, linkLive s = (s.pins.porstN || s.mod.mode == .opened))

/-- BOOT (R10, R50, R54, R64, R80, R167, R203, R238, R239, R345): each of its steps completes, in order, on what it
checks (which step makes which check is the model's reading, A33); step 1 takes the provisioning record in force, or no
keys and NEVER where neither of its slots passes; steps 2, 3, 5 and 6 change the loader's registers alone, and step 4 stages the body in the top 64 MiB of the store
besides; step 7 puts the image's configuration into every channel, without its reserved bits, STOPPED with its output
open, initial ranges in force and PG_TARGET at PG_INIT, and takes its frame period; step 8 shows the calibration
records and puts their trims, or the factory trims, in force; step 9 makes the staging area partition 31 and enters
SAFE, READY asked for on the automatic path. -/
def Obligations.BootSteps : Prop :=
  (∀ (r : BootReport) (s : State), s.mod.mode = .boot → s.boot.step = 0 →
    s.sec.erased = true ∨ r.secure.keyStoreOk = true → r.pllLocked = true → r.causewaysTrained = true →
    ∃ t, exec (.bootStepComplete r) s = .next t ∧ t.boot.step = 1 ∧ t.tb.running = true ∧ t.ldg.vcore = 800 ∧
      t.ldg.waitSense = true ∧ t.mod = s.mod ∧ t.ch = s.ch ∧
      (s.sec.erased = false → t.sec.decKey = s.sec.decKey) ∧
      (t.sec.recordOk = true ↔
        r.secure.slotAOk = true ∧ s.sec.recA.isSome = true ∨ r.secure.slotBOk = true ∧ s.sec.recB.isSome = true) ∧
      (∀ x, provActive t.sec = some x → t.sec.imgKey = x.imgKey ∧ t.sec.hostKey = x.hostKey ∧ t.sec.policy = x.policy) ∧
      (t.sec.recordOk = false → t.sec.imgKey = none ∧ t.sec.hostKey = none ∧ t.sec.policy = 2)) ∧
  (∀ (r : BootReport) (s : State), s.mod.mode = .boot → s.boot.step = 1 → r.storeTrained = true →
    r.flash ≠ .absent → exec (.bootStepComplete r) s =
      .next { s with boot := { s.boot with step := 2, octal := r.flash == .octal } }) ∧
  (∀ (r : BootReport) (s : State), s.mod.mode = .boot → s.boot.step = 2 → r.headerOk = true →
    r.length ≤ 67108864 → r.length ≤ r.flashSize → exec (.bootStepComplete r) s =
      .next { s with boot := { s.boot with step := 3, len := r.length, encrypted := r.encrypted } }) ∧
  (∀ (r : BootReport) (s : State), s.mod.mode = .boot → s.boot.step = 3 →
    (s.boot.encrypted = true → s.sec.decKey.isSome = true) → storeCanonical s → r.body.length ≤ 67108864 →
    ∃ mem, exec (.bootStepComplete r) s = .next { s with
        boot := { s.boot with step := 4, hash := r.hash, image := some r.image }, sto := { s.sto with mem := mem } } ∧
      memReadN mem (131008 * 1048576) r.body.length = r.body ∧
      (∀ a : Nat, a < 131008 * 1048576 ∨ 131008 * 1048576 + r.body.length ≤ a →
        memRead mem a = memRead s.sto.mem a)) ∧
  (∀ (r : BootReport) (s : State), s.mod.mode = .boot → s.boot.step = 4 → s.sec.imgKey.isSome = true →
    s.sec.recordOk = true → r.signatureOk = true → (s.boot.encrypted = true → r.tagOk = true) →
    exec (.bootStepComplete r) s = .next { s with boot := { s.boot with step := 5 } }) ∧
  (∀ (r : BootReport) (m : Image) (s : State), s.mod.mode = .boot → s.boot.step = 5 → s.boot.image = some m →
    imageFormatOk m = true → imageConflict m = false →
    exec (.bootStepComplete r) s = .next { s with boot := { s.boot with step := 6 } }) ∧
  (∀ (r : BootReport) (m : Image) (s : State), s.mod.mode = .boot → s.boot.step = 6 → s.boot.image = some m →
    ∃ t, exec (.bootStepComplete r) s = .next t ∧ t.boot.step = 7 ∧ t.tb.frame = m.frame ∧ t.tb.act = m.frame ∧
      t.mod = { s.mod with auto := m.auto } ∧
      (∀ c : Fin 128, t.ch[c].cfg = loadedCfg (imageCfg m c) ∧ t.ch[c].state = .stopped ∧ t.ch[c].isHiz ∧
        t.ch[c].range.vAct = (imageCfg m c).vInit ∧ t.ch[c].range.iAct = (imageCfg m c).iInit ∧
        t.ch[c].pg.target = (imageCfg m c).pgInit)) ∧
  (∀ (r : BootReport) (s : State), s.mod.mode = .boot → s.boot.step = 7 →
    ∃ t, exec (.bootStepComplete r) s = .next t ∧ t.boot = { s.boot with step := 8 } ∧
      (∀ p : Fin 144, t.unit[p] = applyRec p s.unit[p]) ∧ t.ch = s.ch ∧ t.mod = s.mod) ∧
  (∀ (r : BootReport) (s : State), s.mod.mode = .boot → s.boot.step = 8 →
    ∃ t, exec (.bootStepComplete r) s = .next t ∧ t.mod.mode = .safe ∧ t.boot.step = 9 ∧
      (t.mod.readyReq = true ↔ s.mod.auto = true ∨ s.mod.readyReq = true) ∧
      t.sto.parts[31].size = 64 ∧ t.sto.parts[31].type = 4 ∧ (∀ c : Fin 128, t.ch[c].state = s.ch[c].state))

/-- A BOOT that cannot go on (R49, R53, R345): BOOT_ERR holds the step's code, nothing of the image stays, and the module
is in LOCKDOWN. The codes of the PLL and the causeways, the store, the flash, the header, the length, the keys, the
signature, a bad provisioning record, the tag, the body, the conflicts and the loader's stall; a key store that fails its
check ends BOOT at its first step, where BOOT_ERR still reads what it read. That the image goes at the stall of any step,
and the step of each check, are the model's readings (A33). -/
def Obligations.BootFailureLocksDown : Prop :=
  (∀ (r : BootReport) (s : State) (err : Nat), s.mod.mode = .boot → s.mod.collStall = false →
    (s.boot.step = 0 ∧ (s.sec.erased = true ∨ r.secure.keyStoreOk = true) ∧
       (r.pllLocked = false ∧ s.tb.running = false ∨ r.causewaysTrained = false) ∧ err = 0x0A ∨
     s.boot.step = 1 ∧ r.storeTrained = false ∧ err = 0x09 ∨
     s.boot.step = 1 ∧ r.storeTrained = true ∧ r.flash = .absent ∧ err = 0x01 ∨
     s.boot.step = 2 ∧ r.headerOk = false ∧ err = 0x02 ∨
     s.boot.step = 2 ∧ r.headerOk = true ∧ (r.flashSize < r.length ∨ 67108864 < r.length) ∧ err = 0x03 ∨
     s.boot.step = 3 ∧ s.boot.encrypted = true ∧ s.sec.decKey = none ∧ err = 0x05 ∨
     s.boot.step = 4 ∧ (s.sec.imgKey = none ∨ s.sec.recordOk = false ∨ r.signatureOk = false) ∧ err = 0x04 ∨
     s.boot.step = 4 ∧ s.sec.imgKey.isSome = true ∧ s.sec.recordOk = true ∧ r.signatureOk = true ∧
       s.boot.encrypted = true ∧ r.tagOk = false ∧ err = 0x06 ∨
     s.boot.step = 5 ∧ (∃ m, s.boot.image = some m ∧ imageFormatOk m = false) ∧ err = 0x07 ∨
     s.boot.step = 5 ∧ (∃ m, s.boot.image = some m ∧ imageFormatOk m = true ∧ imageConflict m = true) ∧
       err = 0x08) →
    ∃ t, exec (.bootStepComplete r) s = .next t ∧ t.mod.mode = .lockdown ∧ t.boot.err = err ∧
      t.boot.step = s.boot.step ∧ t.boot.image = none) ∧
  (∀ (r : BootReport) (s : State), s.mod.mode = .boot → s.mod.collStall = false → s.boot.step = 0 →
    s.sec.erased = false → r.secure.keyStoreOk = false →
    ∃ t, exec (.bootStepComplete r) s = .next t ∧ t.mod.mode = .lockdown ∧ t.boot.err = s.boot.err ∧ t.boot.step = 0 ∧
      t.sec.decKey = none) ∧
  (∀ s : State, s.mod.mode = .boot → s.mod.collStall = false →
    ∃ t, exec .loaderStall s = .next t ∧ t.mod.mode = .lockdown ∧ t.boot.err = 0x0C ∧ t.boot.image = none)

/-- The mode commands (R41, R42, R43, R55, R57): accepted in the modes that allow them they leave a request for the
next boundary; elsewhere, BYPASS apart, CMD_REJ is set and nothing else changes. RECOVER (R61 to R63, R295):
with every OUTLVL 0 and no collector stall, LOCKDOWN ends in SAFE with every channel still as it was, SAFED ones
among them, or in BOOT where LOCKDOWN was entered from BOOT; otherwise CMD_REJ is set and LOCKDOWN stays. READY
is reached (R55): from SAFE with its reservations admitted, the references settled, every channel STOPPED and no
initial run owed, the request is done and the mode is READY; the streams the image opens are open and its lists
are ARMED. RECOVER to SAFE releases the start set (R56, R224). -/
def Obligations.ModeCommands : Prop :=
  (∀ s : State, s.mod.mode = .safe → (∀ c : Fin 128, s.ch[c].state ≠ .safed) →
    exec .ready s = .next { s with mod := { s.mod with readyReq := true } }) ∧
  (∀ s : State, s.mod.mode = .ready ∨ s.mod.mode = .hold →
    exec .run s = .next { s with mod := { s.mod with runReq := true } }) ∧
  (∀ s : State, s.mod.mode = .run → exec .hold s = .next { s with mod := { s.mod with holdReq := true } }) ∧
  (∀ s : State, s.mod.mode = .ready ∨ s.mod.mode = .run ∨ s.mod.mode = .hold → s.mod.safePend = false →
    exec .safe s = .next { s with mod := { s.mod with safeReq := true } }) ∧
  (∀ (c : Instr) (s : State), s.mod.mode ≠ .bypass →
    (c = .ready ∧ (s.mod.mode ≠ .safe ∨ ∃ n : Fin 128, s.ch[n].state = .safed) ∨
     c = .run ∧ s.mod.mode ≠ .ready ∧ s.mod.mode ≠ .hold ∨ c = .hold ∧ s.mod.mode ≠ .run ∨
     c = .safe ∧ s.mod.mode ≠ .ready ∧ s.mod.mode ≠ .run ∧ s.mod.mode ≠ .hold) →
    exec c s = .next { s with mod := { s.mod with cmdRej := true } }) ∧
  (∀ s : State, s.mod.mode ≠ .bypass → exec .refSettled s = .next { s with mod := { s.mod with refSettled := true } }) ∧
  (∀ s : State, s.mod.mode = .lockdown → s.mod.collStall = false → (∀ k : Fin 29, s.flt.outLvl[k] = 0) →
    s.mod.fromBoot = false →
    ∃ t, exec .recover s = .next t ∧ t.mod.mode = .safe ∧ (∀ c : Fin 128, t.ch[c].state = s.ch[c].state) ∧
      (∀ c : Fin 128, s.ch[c].state = .safed → t.ch[c].out = s.ch[c].out ∧ t.ch[c].switchOn = s.ch[c].switchOn ∧
        t.ch[c].cfg = s.ch[c].cfg ∧ t.ch[c].range = s.ch[c].range) ∧
      (∀ c : Fin 128, t.ch[c].startSet = false ∧
        (s.ch[c].startSet = true ∨ s.ch[c].state = .stopped → t.ch[c].reserved = false)) ∧
      t.flt = s.flt ∧ t.sq = s.sq) ∧
  (∀ s : State, s.mod.mode = .lockdown → s.mod.collStall = false → (∀ k : Fin 29, s.flt.outLvl[k] = 0) →
    s.mod.fromBoot = true →
    ∃ t, exec .recover s = .next t ∧ t.mod.mode = .boot ∧ t.boot = Boot.reset ∧
      (∀ c : Fin 128, t.ch[c] = Channel.reset)) ∧
  (∀ s : State, s.mod.mode ≠ .bypass → (s.mod.mode ≠ .lockdown ∨ s.mod.collStall = true ∨
    ∃ k : Fin 29, s.flt.outLvl[k] ≠ 0) →
    exec .recover s = .next { s with mod := { s.mod with cmdRej := true } }) ∧
  (∀ s : State, s.mod.mode = .safe → s.mod.readyReq = true → s.mod.readyAdmitted = true →
    s.mod.refSettled = true → (∀ c : Fin 128, s.ch[c].state = .stopped) →
    (∀ p : Fin 144, s.unit[p].dueInit = false) →
    ∃ t, exec .readyComplete s = .next t ∧ t.mod.mode = .ready ∧ t.mod.readyReq = false ∧
      (t.mod.runReq = true ↔ s.mod.readyAuto = true ∨ s.mod.runReq = true) ∧
      (∀ n ∈ imageOpens s, t.sto.stream[n].opened = true) ∧
      (∀ c ∈ imageArmed s, t.ch[c].sw.state = .armed) ∧ (∀ c : Fin 128, t.ch[c].state = .stopped))

/-- A frame boundary (R25, R116, R117, R149, R157, R204, R211, R232): a running timebase stands at the boundary; the
period of an admitted change takes effect with it; every channel's readings are the frame's, 0 V at the converters
behind an open switch, less what the assigned unit's terminal fields give, and 0 in OFF; every encoder's count is
latched, the rail voltages and the budgets are taken. That the count becomes the boundary's tick, or stays where an
event has brought it beyond, is the model's reading (A4, A42), and the order of the two corrections is its choice (A46).
A timebase that stands does nothing. DEADLINE_MISS (R139, R228,
R273): the miss is sent with its account from its source, a late block of the store is counted, and a late
sequencer's region is marked for the next boundary (the model's reading, A37). For the ring's slots nothing else
changes. -/
def Obligations.FramesAndMisses : Prop :=
  (∀ (f : FrameInputs) (s : State), s.tb.running = true → channelsLive s = true →
    ∃ t, exec (.frameBoundary f) s = .next t ∧ t.tb.last = nextBoundary s ∧
      t.tb.now = Nat.max s.tb.now (nextBoundary s) ∧
      (s.tb.changeAt = none → t.tb.act = s.tb.act) ∧
      (s.tb.changeAt.isSome = true → t.tb.act = s.tb.frame) ∧
      (∀ c : Fin 128, s.ch[c].cfg.func = .off → t.ch[c].ms.sense = 0 ∧ t.ch[c].ms.meas = 0) ∧
      (∀ c : Fin 128, s.ch[c].cfg.func ≠ .off → (t.ch[c].ms.sense, t.ch[c].ms.meas) =
        measured (assignedRec t c) t.ch[c] t.ch[c].switchOn (readingOf f c).sense (crossFade (readingOf f c) t.ch[c])) ∧
      (∀ e : Fin 32, t.seq.enc[e].latched = s.seq.enc[e].count) ∧
      t.pwr.rails = f.rails ∧ t.pwr.budgetAct = s.pwr.budget) ∧
  (∀ (f : FrameInputs) (s : State), s.tb.running = false → exec (.frameBoundary f) s = .next s) ∧
  (∀ (a : Account) (s : State), channelsLive s = true → ∃ t before, exec (.deadlineMiss a) s = .next t ∧
    t.flt = { s.flt with inbox := before ++ [⟨⟨0x0C, a.source s, a.detail⟩, s.tb.now⟩] } ∧
    t.sto = (if a = .store then { s.sto with late := s.sto.late + 1 } else s.sto) ∧
    t.mod = s.mod ∧ t.sq = s.sq ∧ t.comb = s.comb ∧
    t.seq = (match a with | .sequencer r => { s.seq with missed := s.seq.missed.set r true } | _ => s.seq)) ∧
  (∀ (a : Account) (s : State), channelsLive s = true → (∃ r, a = .sequencer r) ∨ a = .ringSlots →
    exec (.deadlineMiss a) s = .next { s with
      seq := (match a with | .sequencer r => { s.seq with missed := s.seq.missed.set r true } | _ => s.seq)
      flt := { s.flt with inbox := s.flt.inbox ++ [⟨⟨0x0C, a.source s, a.detail⟩, s.tb.now⟩] } })

/-- Mode requests are taken at the boundary (R42, R57, R59), nothing waiting at the collector: RUN from READY, HOLD
from RUN, RUN from HOLD; where HOLD and RUN meet, in RUN or in HOLD, HOLD wins and RUN is rejected. -/
def Obligations.BoundaryTakesModeRequests : Prop :=
  ∀ (f : FrameInputs) (s : State), s.tb.running = true → s.flt.inbox = [] → s.mod.safeReq = false →
    s.mod.safePend = false →
    (s.mod.mode = .ready → s.mod.holdReq = false → s.mod.runReq = true →
      ∃ t, exec (.frameBoundary f) s = .next t ∧ t.mod.mode = .run ∧ t.mod.runReq = false) ∧
    (s.mod.mode = .run → s.mod.holdReq = true →
      ∃ t, exec (.frameBoundary f) s = .next t ∧ t.mod.mode = .hold ∧ t.mod.holdReq = false ∧
        t.mod.cmdRej = (s.mod.cmdRej || s.mod.runReq)) ∧
    (s.mod.mode = .hold → s.mod.holdReq = true →
      ∃ t, exec (.frameBoundary f) s = .next t ∧ t.mod.mode = .hold ∧ t.mod.holdReq = false ∧
        t.mod.runReq = false ∧ t.mod.cmdRej = (s.mod.cmdRej || s.mod.runReq)) ∧
    (s.mod.mode = .hold → s.mod.holdReq = false → s.mod.runReq = true →
      ∃ t, exec (.frameBoundary f) s = .next t ∧ t.mod.mode = .run ∧ t.mod.runReq = false)

/-- What a frame boundary of RUN does to a channel (R25, R65, R67, R80 to R84, R144 to R146, R153, R168 to R171). A RUNNING
channel's set-point moves on by a frame, and a target that waits is taken there; each enabled contender's output is the PID
form of R144 over the frame's reference and feedback; the demand is that of the selector, the greatest lower-set output
where it exceeds the least upper-set one, the first among equals, clipped to 125% of the forced range, with no output of
the upper set that limit; so it stands unless a fault reaction of the frame replaces it. A request for the other
coefficient bank is taken where the bank meets its conditions, else it sets BANK_REJ. A START whose reservations stand
leaves the channel STARTING at its initial ranges, with its source DAC at 0 and, but in OFF, its switch closed. A current
or a voltage range that is asked for starts its sequence on a RUNNING channel, or is refused with RANGE_REJ. A STOP that
waits on a SAFED channel whose ramp has ended leaves it STOPPED, its reservation released unless it is of the start set.
That the arithmetic is exact is the model's reading (A6), and which path a re-plan takes its choice (A9). -/
def Obligations.FrameRunsChannels : Prop :=
  (∀ (f : FrameInputs) (c : Fin 128) (s : State), PlainFrame s → s.ch[c].state = .running →
    hasLoop s.ch[c].cfg = true → s.ch[c].listQuiet →
    ∃ t, exec (.frameBoundary f) s = .next t ∧ t.ch[c].state = .running ∧ t.ch[c].cfg = s.ch[c].cfg ∧
      (∀ p, p = advance s.ch[c].cfg (frameSec s) s.ch[c].pg →
        (p.fresh = false → t.ch[c].pg = p) ∧
        (p.fresh = true → t.ch[c].pg = { planTo s.ch[c].cfg (frameSec s) p
          (if s.ch[c].stopping then b64ToRat s.ch[c].cfg.pgInit else targetValue s.ch[c].cfg p) with fresh := false })) ∧
      (t.ch[c].eng.reacting = false →
        t.ch[c].eng.takesPart = (decide (s.pwr.factor[dieOf c] < 1) && pairClipped s.ch[c].cfg) ∧
        ∀ (outs : List Output) (lim : Rat), lim = 5 / 4 * forcedFs t.ch[c] →
          outs = ((allCt.filter (ctEn s.ch[c].cfg)).map fun i => ⟨i.val, ctLower s.ch[c].cfg i, t.ch[c].eng.ct[i].u⟩) ++
            (if t.ch[c].eng.takesPart then [⟨4, false, t.ch[c].eng.bud[0].u⟩, ⟨5, true, t.ch[c].eng.bud[1].u⟩] else []) →
          ((∀ o ∈ outs, o.lower = true) → t.ch[c].eng.demand = clipR (-lim) lim lim ∧ t.ch[c].eng.demClip = true) ∧
          ((∃ o ∈ outs, o.lower = false) → ∃ o ∈ outs, t.ch[c].eng.winner = o.code ∧
            t.ch[c].eng.demand = clipR (-lim) lim o.u ∧
            (t.ch[c].eng.demClip = true ↔ clipR (-lim) lim o.u ≠ o.u) ∧
            (∀ x ∈ outs, x.lower = o.lower → x.u = o.u → o.code ≤ x.code) ∧
            (o.lower = false → (∀ x ∈ outs, x.lower = false → o.u ≤ x.u) ∧ ∀ x ∈ outs, x.lower = true → x.u ≤ o.u) ∧
            (o.lower = true → (∀ x ∈ outs, x.lower = true → x.u ≤ o.u) ∧ ∃ x ∈ outs, x.lower = false ∧ x.u < o.u))) ∧
      (t.ch[c].eng.reacting = false → s.ch[c].eng.frozen = false → s.ch[c].eng.bankSel = s.ch[c].eng.bankAct →
        s.ch[c].range.seq = none → s.ch[c].range.pendV = none → ∀ (i : Fin 4) (k : Contender) (co : Coef)
          (T er y raw S I fd a : Rat), ctEn s.ch[c].cfg i = true → k = s.ch[c].eng.ct[i] → T = frameLen s →
        co = (bankOf s.ch[c].cfg s.ch[c].eng.bankAct).ct[i] → raw = srcValue t c (ctFb s.ch[c].cfg i) →
        y = (if fbDeriv (ctFb s.ch[c].cfg i) then (raw - if s.ch[c].eng.firstFrame then raw else k.srcPrev) / T else raw) →
        er = ctReference t c i - y → S = (if b64ToRat co.ki ≠ 0 then k.s + T * er else k.s) →
        I = (if b64ToRat co.intHi < b64ToRat co.ki * S then b64ToRat co.intHi
          else if b64ToRat co.ki * S < b64ToRat co.intLo then b64ToRat co.intLo else b64ToRat co.ki * S) →
        a = b64ToRat co.tf / (b64ToRat co.tf + T) →
        fd = (if s.ch[c].eng.firstFrame then 0 else a * k.fd + (1 - a) * (y - k.yPrev) / T) →
        t.ch[c].eng.ct[i].u = minR (maxR (b64ToRat co.kp * er + I - b64ToRat co.kd * fd +
          b64ToRat co.kvff * (if mainCt s.ch[c].cfg = some i then t.ch[c].pg.vel else 0) +
          b64ToRat co.kaff * (if mainCt s.ch[c].cfg = some i then t.ch[c].pg.acc else 0)) (b64ToRat co.outLo))
          (b64ToRat co.outHi)) ∧
      (s.ch[c].eng.bankSel ≠ s.ch[c].eng.bankAct →
        (bankCross s.ch[c].cfg (bankOf s.ch[c].cfg s.ch[c].eng.bankSel) = true →
          t.ch[c].eng.bankAct = s.ch[c].eng.bankSel ∧ t.ch[c].eng.bankRej = s.ch[c].eng.bankRej) ∧
        (bankCross s.ch[c].cfg (bankOf s.ch[c].cfg s.ch[c].eng.bankSel) = false →
          t.ch[c].eng.bankAct = s.ch[c].eng.bankAct ∧ t.ch[c].eng.bankSel = s.ch[c].eng.bankAct ∧
            t.ch[c].eng.bankRej = true)) ∧
      (s.ch[c].range.seq = none → inHandover s c = false → s.ch[c].range.pendV = none →
        ∀ i, s.ch[c].range.pendI = some i → i ≠ s.ch[c].range.iAct → i < 8 ∨ s.ch[c].range.iAct < 8 →
        (iRefused s.ch[c] i = false → t.ch[c].range.seq = some ⟨true, s.ch[c].range.iAct, i, 0⟩ ∧
          t.ch[c].range.iTaken = i) ∧
        (iRefused s.ch[c] i = true → t.ch[c].range.seq = none ∧ t.ch[c].range.rangeRej = true ∧
          t.ch[c].range.iAct = s.ch[c].range.iAct)) ∧
      (s.ch[c].range.seq = none → inHandover s c = false → ∀ v, s.ch[c].range.pendV = some v → v ≠ s.ch[c].range.vAct →
        (vRefused s.ch[c] v = false → t.ch[c].range.seq = some ⟨false, s.ch[c].range.vAct, v, 0⟩ ∧
          t.ch[c].range.vTaken = v) ∧
        (vRefused s.ch[c] v = true → t.ch[c].range.rangeRej = true ∧ t.ch[c].range.vAct = s.ch[c].range.vAct))) ∧
  (∀ (f : FrameInputs) (c : Fin 128) (s : State), PlainFrame s → s.ch[c].state = .stopped → s.ch[c].startReq = true →
    s.pins.estopLow = false → s.ch[c].reserved = true → s.ch[c].listQuiet →
    ∃ t, exec (.frameBoundary f) s = .next t ∧ t.ch[c].state = .starting ∧ t.ch[c].startReq = false ∧
      t.ch[c].range.vAct = s.ch[c].cfg.vInit ∧ t.ch[c].range.iAct = s.ch[c].cfg.iInit ∧ t.ch[c].range.seq = none ∧
      t.ch[c].out = (if s.ch[c].cfg.func = .off then .hiz else if s.ch[c].cfg.func = .mv then .measure else .dacZero) ∧
      (s.ch[c].cfg.func ≠ .off → t.ch[c].switchOn = true)) ∧
  (∀ (f : FrameInputs) (c : Fin 128) (s : State), PlainFrame s → s.ch[c].state = .safed → s.ch[c].stopReq.isSome = true →
    s.ch[c].out ≠ .ramp → s.ch[c].listQuiet →
    ∃ t, exec (.frameBoundary f) s = .next t ∧ t.ch[c].state = .stopped ∧ t.ch[c].stopReq = none ∧
      t.ch[c].reserved = (s.ch[c].reserved && s.ch[c].startSet))

/-- TB_FRAME and TB_FRAME_AT (R231, R361): a write of an allowed period or of a tick replaces the request that waits
for its boundary; between B and N both are ignored and SET_REJ is set, as it is for a period that is not
allowed. A request that the ledger refuses (R55, R65, R177, R223, R225, R232, R244, R255), a START, an ARM, a stream, a
period, READY or a queue, sets its ADMIT_DENIED flag and reserves nothing; after a refusal by a stage margin TB_LDG_NEED is
the largest t_s at which every account of the request would keep its margin, and VCORE's steps follow; after one by the
bandwidth account alone neither does. That an ARM and an OPEN are decided at the boundary (A57), and the notice that a
refused READY sends (A21), are the model's readings. -/
def Obligations.PeriodWritesAndLedgerRefusals : Prop :=
  (∀ (v : Word) (s : State), regsUp s = true →
    exec (.tbFrameWrite v) s = .next (if frameOk v.toNat = true ∧ s.tb.changeAt = none
      then { s with tb := { s.tb with frame := v.toNat, reqPend := true } }
      else { s with tb := { s.tb with setRej := true } })) ∧
  (∀ (m : Master) (v w : Word) (s : State), regsUp s = true → masterUp s m = true →
    heldOf s.bus.stages m.id 0x10010 = some w →
    exec (.hiWriteCommit m ⟨0x10014, 0xF⟩ v) s = .next (if s.tb.changeAt = none
      then { s with tb := { s.tb with at_ := joinHalves v w } }
      else { s with tb := { s.tb with setRej := true } })) ∧
  (∀ (ch : Fin 128) (v : Verdict) (u s : State), s.ch[ch].startReq = true → s.ch[ch].state = .stopped →
    s.mod.mode = .run → s.mod.safePend = false → s.pins.estopLow = false → s.ch[ch].reserved = false →
    hasLoop s.ch[ch].cfg = true → u = { s with ch := s.ch.set ch { s.ch[ch] with reserved := true } } →
    verdictNow u (startAccounts s ch) false = v → v ≠ .admitted →
    (takeStart s ch).ch = s.ch.set ch { s.ch[ch] with startReq := false, admitDenied := true } ∧
      (takeStart s ch).sto = s.sto ∧ RefusalNoted v (neededNow u (startAccounts s ch)) s (takeStart s ch)) ∧
  (∀ (ch : Fin 128) (v : Verdict) (u s : State), s.ch[ch].sw.armReq = true → armOk s ch = true →
    s.ch[ch].sw.reserved = false → u = { s with ch := s.ch.set ch { s.ch[ch] with sw := { s.ch[ch].sw with
      armReq := false, reserved := true } } } →
    verdictNow u [.sequencer (regionOf ch), .store] true = v → v ≠ .admitted →
    (decideArm s ch).ch = s.ch.set ch { s.ch[ch] with sw := { s.ch[ch].sw with armReq := false, admitDenied := true } } ∧
      (decideArm s ch).sto = s.sto ∧
      RefusalNoted v (neededNow u [.sequencer (regionOf ch), .store]) s (decideArm s ch)) ∧
  (∀ (n : Fin 2048) (v : Verdict) (as : List Account) (u s : State), mayOpen s n = true →
    as = (if isEgress s s.sto.stream[n] then [.store, .ringSlots] else [.store]) →
    u = { s with sto := { s.sto with stream := s.sto.stream.set n { s.sto.stream[n] with
      rate := streamRate s s.sto.stream[n].cfg s.sto.stream[n].age } } } →
    verdictNow u as true = v → v ≠ .admitted →
    (decideStream s n).sto = { s.sto with stream := s.sto.stream.set n { s.sto.stream[n] with
        openReq := false, admitDenied := true } } ∧
      (decideStream s n).ch = s.ch ∧ RefusalNoted v (neededNow u as) s (decideStream s n)) ∧
  (∀ (b : Nat) (v : Verdict) (as : List Account) (u s : State), s.tb.reqPend = true → s.tb.changeAt = none →
    s.tb.at_.toNat ≤ b → as = (List.finRange 4).map .sequencer ++ (List.finRange 2).map .causeway ++ [.store, .ringSlots] →
    u = underPeriod s s.tb.frame → verdict u as true = v → v ≠ .admitted →
    (decidePeriod s b).tb = { s.tb with reqPend := false, admitDenied := true } ∧ (decidePeriod s b).sto = s.sto ∧
      RefusalNoted v (neededNow u as) s (decidePeriod s b)) ∧
  (∀ (v : Verdict) (u s : State), s.mod.readyReq = true → s.mod.readyAdmitted = false → s.mod.mode = .safe →
    u = readyReservations s → verdictNow u accounts true = v → v ≠ .admitted →
    (decideReady s).mod = { s.mod with readyReq := false, readyAuto := false, admitDenied := true } ∧
      (decideReady s).ch = s.ch ∧ (decideReady s).sto = s.sto ∧
      (decideReady s).flt.inbox = s.flt.inbox ++ [⟨⟨0x41, 0x407, 0⟩, s.tb.now⟩] ∧
      RefusalNoted v (neededNow u accounts) s (decideReady s)) ∧
  (∀ (q : Fin 32) (v : Verdict) (u s : State), regsUp s = true → s.sq[q].en = false →
    u = { s with sq := s.sq.set q { s.sq[q] with en := true } } → verdictNow u [.store] true = v → v ≠ .admitted →
    ∃ t, exec (.queueEn q true) s = .next t ∧ t.sq = s.sq.set q { s.sq[q] with admitDenied := true } ∧ t.ch = s.ch ∧
      t.sto = s.sto ∧ RefusalNoted v (neededNow u [.store]) s t) ∧
  (∀ (as : List Account) (u : State), u.tb.changeAt = none →
    (∀ a ∈ as, charge u a ≠ 0 → neededNow u as ≤ 4 / 5 * a.window u / charge u a) ∧
    (neededNow u as = 1 ∨ ∃ a ∈ as, charge u a ≠ 0 ∧ neededNow u as = 4 / 5 * a.window u / charge u a))

/-- WAGGLE (R46, R290 to R292): it starts after BOOT while every OUTLVL is below FLT_WAGGLE.LEVEL, inverts while it
toggles, resumes once every OUTLVL is below FLT_WAGGLE.LEVEL; a write of LEVEL 1 to 5 is taken and, where a level at or
above it stands, stops the pin low; any other LEVEL sets SET_REJ. -/
def Obligations.WagglePin : Prop :=
  (∀ s : State, s.mod.mode.operating = true → s.flt.stopCause = 4 → s.mod.collStall = false →
    (∀ k : Fin 29, s.flt.outLvl[k] < s.flt.wagLevel) →
    exec .waggleStart s = .next { s with
      pins := { s.pins with toggling := true }, flt := { s.flt with stopCause := 0 } }) ∧
  (∀ s : State, s.mod.mode.operating = true → s.flt.stopCause = 1 ∨ s.flt.stopCause = 2 → s.mod.collStall = false →
    (∀ k : Fin 29, s.flt.outLvl[k] < s.flt.wagLevel) →
    exec .waggleResume s = .next { s with
      pins := { s.pins with toggling := true }, flt := { s.flt with stopCause := 0 } }) ∧
  (∀ s : State, s.pins.toggling = true →
    exec .waggleToggle s = .next { s with pins := { s.pins with waggle := !s.pins.waggle } }) ∧
  (∀ s : State, s.pins.toggling = false → exec .waggleToggle s = .next s) ∧
  (∀ (v : Word) (s : State), regsUp s = true → s.mod.collStall = false → 1 ≤ field v 2 0 → field v 2 0 ≤ 5 →
    ((∀ k : Fin 29, s.flt.outLvl[k] < field v 2 0) →
      exec (.fltWaggleWrite v) s = .next { s with flt := { s.flt with wagLevel := field v 2 0 } }) ∧
    ((∃ k : Fin 29, field v 2 0 ≤ s.flt.outLvl[k]) → s.flt.stopCause = 0 →
      exec (.fltWaggleWrite v) s = .next { s with
        flt := { s.flt with wagLevel := field v 2 0, stopCause := 1 }
        pins := { s.pins with toggling := false, waggle := false } })) ∧
  (∀ (v : Word) (s : State), regsUp s = true → s.mod.collStall = false → field v 2 0 < 1 ∨ 5 < field v 2 0 →
    exec (.fltWaggleWrite v) s = .next { s with flt := { s.flt with setRej := true } })

/-- START and STOP (R43, R65 to R68, R167, R295): an accepted START waits for the boundary, any other sets
START_REJ, in the frame of a STOP too; a STOP makes a RUNNING channel decelerate, a STARTING one STOPPED, takes the START
of a STOPPED one away, and waits on a SAFED one, in the frame of whose reaction it is consumed; only the addressed
channel changes. Completion of START and STOP (R65, R66, R98): a STARTING channel runs from a cleared
state with its output driven, measuring in MV and open in OFF; a stopping channel at rest at PG_INIT is STOPPED;
a RAMP_ZERO ramp whose time has passed opens its output. That the count stands at the tick of that timeout, which may act
up to the next boundary, is the model's choice (A4); with the ticks that pass, JX_OUT sends on (R306). -/
def Obligations.StartAndStopChannels : Prop :=
  (∀ (ch : Fin 128) (s : State), s.mod.mode = .run → s.mod.safePend = false → s.pins.estopLow = false →
    s.mod.collStall = false → s.ch[ch].state = .stopped → s.ch[ch].stopFrame ≠ some s.tb.last →
    limitsMissing s.ch[ch].cfg = false →
    exec (.start ch) s = .next { s with ch := s.ch.set ch { s.ch[ch] with startReq := true } }) ∧
  (∀ (ch : Fin 128) (s : State), regsUp s = true → (s.mod.mode ≠ .run ∨ s.mod.safePend = true ∨
      s.pins.estopLow = true ∨ s.mod.collStall = true ∨ s.ch[ch].state ≠ .stopped ∨
      s.ch[ch].stopFrame = some s.tb.last ∨ limitsMissing s.ch[ch].cfg = true) →
    exec (.start ch) s = .next { s with ch := s.ch.set ch { s.ch[ch] with startRej := true } }) ∧
  (∀ (ch : Fin 128) (s : State), s.mod.mode = .run ∨ s.mod.mode = .hold → s.mod.safePend = false →
    s.ch[ch].state = .running → s.ch[ch].stopping = false → s.ch[ch].sw.state.isIdle = true →
    exec (.stop ch) s = .next { s with ch := s.ch.set ch { s.ch[ch] with
      stopFrame := some s.tb.last, stopping := true, pg := { s.ch[ch].pg with fresh := true }
      sw := { s.ch[ch].sw with armReq := false } } }) ∧
  (∀ (ch : Fin 128) (s : State), regsUp s = true → s.mod.safePend = false → s.ch[ch].state = .stopped →
    s.ch[ch].startReq = true → s.ch[ch].sw.state.isIdle = true →
    exec (.stop ch) s = .next { s with ch := s.ch.set ch { s.ch[ch] with
      stopFrame := some s.tb.last, startReq := false, startRej := true, sw := { s.ch[ch].sw with armReq := false } } }) ∧
  (∀ (ch : Fin 128) (s : State), s.mod.mode.operating = true → s.mod.safePend = false → s.ch[ch].state = .safed →
    exec (.stop ch) s = .next { s with ch := s.ch.set ch (if s.ch[ch].reactFrame = some s.tb.last
      then { s.ch[ch] with stopFrame := some s.tb.last }
      else { s.ch[ch] with stopFrame := some s.tb.last, stopReq := some s.tb.last }) }) ∧
  (∀ (ch : Fin 128) (s : State), regsUp s = true → s.mod.safePend = false → s.ch[ch].state = .starting →
    ∃ t h, exec (.stop ch) s = .next t ∧ t.ch = s.ch.set ch h ∧ h.state = .stopped ∧ h.stopFrame = some s.tb.last ∧
      h.startReq = false ∧ (s.ch[ch].cfg.connectAtSafe = false → h.isHiz) ∧
      h.reserved = (s.ch[ch].reserved && s.ch[ch].startSet) ∧ t.mod = s.mod ∧ t.comb = s.comb ∧ t.sto = s.sto) ∧
  (∀ (ch : Fin 128) (s : State), s.ch[ch].state = .starting →
    ∃ h, exec (.startComplete ch) s = .next { s with ch := s.ch.set ch h } ∧ h.state = .running ∧
      h.out = (if s.ch[ch].cfg.func = .off then .hiz else if s.ch[ch].cfg.func = .mv then .measure else .driven) ∧
      h.cfg = s.ch[ch].cfg ∧ h.sw = s.ch[ch].sw ∧ h.switchOn = s.ch[ch].switchOn ∧
      h.eng.bankSel = h.eng.bankAct ∧ h.eng.demand = 0 ∧ h.eng.firstFrame = true ∧
      (∀ i : Fin 4, h.eng.ct[i].s = 0 ∧ h.eng.ct[i].yPrev = 0 ∧ h.eng.ct[i].bump = s.ch[ch].eng.ct[i].bump) ∧
      (∀ i : Fin 4, h.eng.x[i] = 0)) ∧
  (∀ (ch : Fin 128) (s : State), s.ch[ch].state = .running → s.ch[ch].stopping = true →
    s.ch[ch].pg.segs = [] → s.ch[ch].pg.fresh = false → s.ch[ch].pg.pos = b64ToRat s.ch[ch].cfg.pgInit →
    s.mod.safePend = false →
    ∃ t h, exec (.stopArrive ch) s = .next t ∧ t.ch = s.ch.set ch h ∧ h.state = .stopped ∧ h.stopping = false ∧
      (s.ch[ch].cfg.connectAtSafe = false → h.isHiz) ∧ h.reserved = (s.ch[ch].reserved && s.ch[ch].startSet) ∧
      t.mod = s.mod ∧ t.comb = s.comb ∧ t.sto = s.sto) ∧
  (∀ (ch : Fin 128) (from_ : Nat) (s : State), s.ch[ch].out = .ramp → s.ch[ch].rampFrom = some from_ →
    from_ + rzTicks s.ch[ch].cfg ≤ nextBoundary s →
    exec (.rampZeroTimeout ch) s = .next (tickLine { s with
      tb := { s.tb with now := Nat.max s.tb.now (from_ + rzTicks s.ch[ch].cfg) }
      ch := s.ch.set ch { s.ch[ch] with
        out := .hiz, switchOn := false, rampFrom := none
        dg := { s.ch[ch].dg with flag := false, hold := false } } }))

/-- Ranges (R80, R82, R84, R87, R88, R178): a write of defined codes is the pending request of a channel that may
take it, any other sets RANGE_REJ, or OWN_REJ where a list owns the ranges; a sequence's end puts its new code
in force and clears the down count, and after a voltage sequence the terminal tracks the demand on the new range; a
full down count asks for the next lower current code, but while RANGING. -/
def Obligations.Ranges : Prop :=
  (∀ (ch : Fin 128) (v : Word) (s : State), regsUp s = true → s.ch[ch].sw.state.owns = false →
    s.ch[ch].state ≠ .safed → s.ch[ch].state ≠ .starting → field v 1 0 ≤ 2 → field v 7 4 ≤ 11 →
    exec (.chRangeWrite ch v) s = .next { s with ch := s.ch.set ch { s.ch[ch] with
      range := { s.ch[ch].range with vReq := field v 1 0, iReq := field v 7 4
                                     pendV := some (field v 1 0), pendI := some (field v 7 4) } } }) ∧
  (∀ (ch : Fin 128) (v : Word) (s : State), regsUp s = true → s.ch[ch].sw.state.owns = false →
    s.ch[ch].state = .safed ∨ s.ch[ch].state = .starting ∨ 2 < field v 1 0 ∨ 11 < field v 7 4 →
    exec (.chRangeWrite ch v) s = .next { s with ch := s.ch.set ch { s.ch[ch] with
      range := { s.ch[ch].range with rangeRej := true } } }) ∧
  (∀ (ch : Fin 128) (v : Word) (s : State), regsUp s = true → s.ch[ch].sw.state.owns = true →
    exec (.chRangeWrite ch v) s = .next { s with ch := s.ch.set ch { s.ch[ch] with
      sw := { s.ch[ch].sw with ownRej := true } } }) ∧
  (∀ (ch : Fin 128) (q : RangeSeq) (s : State), s.ch[ch].range.seq = some q → q.current = true → 16 ≤ q.frames →
    exec (.irangeSequenceEnd ch) s = .next { s with ch := s.ch.set ch { s.ch[ch] with
      range := { s.ch[ch].range with iAct := q.new, seq := none, downCount := 0 } } }) ∧
  (∀ (ch : Fin 128) (q : RangeSeq) (s : State), s.ch[ch].range.seq = some q → q.current = false →
    exec (.vrangeHoldEnd ch) s = .next { s with ch := s.ch.set ch { s.ch[ch] with
      range := { s.ch[ch].range with vAct := q.new, seq := none, downCount := 0 }
      eng := { s.ch[ch].eng with frozen := false }
      dg := { s.ch[ch].dg with
        hold := false, next := s.ch[ch].eng.dac
        out := dacValue (if forcesCurrent s.ch[ch].cfg then iFs s.ch[ch] else vFull q.new) s.ch[ch].eng.dac } } }) ∧
  (∀ (ch : Fin 128) (s : State), arOn s.ch[ch].cfg = true → s.ch[ch].state = .running →
    s.ch[ch].range.downCount = 16 → arMin s.ch[ch].cfg + 1 ≤ s.ch[ch].range.iAct →
    s.ch[ch].range.iAct ≤ arMax s.ch[ch].cfg + 1 → s.ch[ch].range.seq = none →
    exec (.autorangeDown ch) s = .next { s with ch := s.ch.set ch { s.ch[ch] with
      range := { s.ch[ch].range with iReq := s.ch[ch].range.iAct - 1
                                     pendI := some (s.ch[ch].range.iAct - 1) } } })

/-- The state faults of a unit or a comb (R79, R91, R93, R94, R149, R162, R197, R271, R272): each stands at its source once
its condition is met, one onset going to the collector where it was not present, and nothing else changes but the
budget's own mark and a booster's drive, which its comparator brings to 0 V. OVERCURRENT takes more than 120% of the
range, while a current range changes of the higher of the two (the model's choice, A51), OVERVOLTAGE more than OV_LIM of it and no more than 16.5 V; a comparator of a normal unit whose paths are open
while the spare serves is masked. The event faults of a unit (R79, R132, R133): RANGE_SWITCH with its code and bit 4
for a current range, OPEN_LOAD and MONITOR_DISAGREE once their count is full, are sent each time; the flag that held
the event clears. -/
def Obligations.UnitFaults : Prop :=
  (∀ (ch : Fin 128) (amps : Rat) (normal : Bool) (s : State), channelsLive s = true → masked s ch normal = false →
    6 / 5 * iFull s.ch[ch].cfg (clampCode s.ch[ch]) < absR amps →
    exec (.overcurrentTrip ⟨ch, amps, normal⟩) s = .next { s with
      ch := s.ch.set ch (if usesBooster s.ch[ch].cfg then { s.ch[ch] with bdrvZero := true } else s.ch[ch])
      flt := if isPresent s 0x01 (unitSource ch) then s.flt else { s.flt with inbox := s.flt.inbox ++
        [⟨⟨0x01, unitSource ch, detectDetail s ch normal 0⟩, s.tb.now⟩] } }) ∧
  (∀ (ch : Fin 128) (volts : Rat) (normal : Bool) (s : State), channelsLive s = true → masked s ch normal = false →
    (ovLim s.ch[ch].cfg : Rat) / 100 * vFs s.ch[ch] < absR volts ∨ 33 / 2 < absR volts →
    exec (.overvoltageTrip ⟨ch, volts, normal⟩) s = .next { s with
      flt := if isPresent s 0x02 (unitSource ch) then s.flt else { s.flt with inbox := s.flt.inbox ++
        [⟨⟨0x02, unitSource ch, detectDetail s ch normal 0⟩, s.tb.now⟩] } }) ∧
  (∀ (ch : Fin 128) (x : Rat) (normal : Bool) (s : State), masked s ch normal = true →
    exec (.overcurrentTrip ⟨ch, x, normal⟩) s = .next s ∧ exec (.overvoltageTrip ⟨ch, x, normal⟩) s = .next s) ∧
  (∀ (ch : Fin 128) (c : Instr) (kind : Nat) (s : State), channelsLive s = true →
    (c = .clampActive ch ∧ s.ch[ch].ms.clampDue = true ∧ kind = 0x03 ∨
     c = .leadDrop ch ∧ s.ch[ch].ms.leadDue = true ∧ kind = 0x06 ∨
     c = .modelResidual ch ∧ s.ch[ch].eng.resDue = true ∧ kind = 0x08 ∨
     c = .feedbackFrozen ch ∧ s.ch[ch].eng.frzDue = true ∧ kind = 0x07) →
    exec c s = .next (if isPresent s kind (unitSource ch) then s else
      { s with flt := { s.flt with inbox := s.flt.inbox ++ [⟨⟨kind, unitSource ch,
        unitDetail s ch (if kind = 0x06 then 6 else 0)⟩, s.tb.now⟩] } })) ∧
  (∀ (comb : Fin 16) (s : State), s.comb[comb].cslDue = true →
    exec (.cslWindowFault comb) s = .next (if isPresent s 0x02 (0x100 + comb.val) then s else
      { s with flt := { s.flt with inbox := s.flt.inbox ++ [⟨⟨0x02, 0x100 + comb.val, 0⟩, s.tb.now⟩] } })) ∧
  (∀ (die : Fin 2) (s : State), 1000 ≤ s.pwr.overFrames[die] → isPresent s 0x0E (0x300 + die.val) = false →
    exec (.budgetThermal die) s = .next { s with
      pwr := { s.pwr with budgetHot := s.pwr.budgetHot.set die true }
      flt := { s.flt with inbox := s.flt.inbox ++ [⟨⟨0x0E, 0x300 + die.val, 31⟩, s.tb.now⟩] } }) ∧
  (∀ (ch : Fin 128) (code : Fin 16) (current normal : Bool) (s : State), channelsLive s = true →
    masked s ch normal = false →
    exec (.rangeSwitch ⟨ch, normal⟩ code current) s = .next { s with flt := { s.flt with inbox := s.flt.inbox ++
      [⟨⟨0x09, unitSource ch, detectDetail s ch normal (code.val + if current then 16 else 0)⟩, s.tb.now⟩] } }) ∧
  (∀ (ch : Fin 128) (s : State), s.ch[ch].ms.openDue = true →
    exec (.openLoad ch) s = .next { s with
      ch := s.ch.set ch { s.ch[ch] with ms := { s.ch[ch].ms with openDue := false } }
      flt := { s.flt with inbox := s.flt.inbox ++ [⟨⟨0x04, unitSource ch, unitDetail s ch 0⟩, s.tb.now⟩] } }) ∧
  (∀ (ch : Fin 128) (s : State), s.ch[ch].ms.monDue = true →
    exec (.monitorDisagree ch) s = .next { s with
      ch := s.ch.set ch { s.ch[ch] with ms := { s.ch[ch].ms with monDue := false } }
      flt := { s.flt with inbox := s.flt.inbox ++ [⟨⟨0x05, unitSource ch, unitDetail s ch 0⟩, s.tb.now⟩] } })

/-- Live settings (R76, R152, R153, R166, R167, R178): a target inside its window and a compliance pair that keeps
its order and distance are taken, others set TGT_REJ or COMP_REJ; under a list that owns them either write sets OWN_REJ alone; a bank's value is stored rounded to 48 bits
where the bank may be written and the value is in range, else BANK_REJ or COEF_REJ; LP_BANK.SEL is the request
for the next frame. Which flag a refused coefficient sets first (A41), the comparison of exact demands in the deglitcher
(A47) and the range of the pair's 0.1% (A51) are the model's choices. A target written while a STOP decelerates leaves its path alone (R66). The deglitcher (R110, R113,
R114): when its hold ends the terminal tracks the step of the source DAC that the demand drives, or, where the demand
has taken another major step meanwhile, the step that was held for, and a new hold begins; while a voltage range
sequence runs it stays held. Code c drives step c / 2 of the source DAC, an odd code the even one of its two neighbours. -/
def Obligations.LiveSettingsAndDeglitch : Prop :=
  (∀ (ch : Fin 128) (v : DWord) (s : State), regsUp s = true → s.ch[ch].sw.state.owns = false →
    exec (.pgTargetWrite ch v) s = .next { s with ch := s.ch.set ch { s.ch[ch] with
      pg := if s.ch[ch].cfg.func ≠ .mi ∧ targetOk s.ch[ch].cfg v = true
        then { s.ch[ch].pg with target := v, fresh := s.ch[ch].pg.fresh || !s.ch[ch].stopping } else { s.ch[ch].pg with tgtRej := true } } }) ∧
  (∀ (ch : Fin 128) (hi : Bool) (v : DWord) (s : State), regsUp s = true → s.ch[ch].sw.state.owns = false →
    exec (.chCompWrite ch hi v) s = .next { s with
      ch := s.ch.set ch (if pairOk s.ch[ch].cfg (pairFs s ch) (if hi then v else s.ch[ch].compHi) (if hi then s.ch[ch].compLo else v)
       then { s.ch[ch] with compHi := if hi then v else s.ch[ch].compHi
                            compLo := if hi then s.ch[ch].compLo else v }
       else { s.ch[ch] with compRej := true }) }) ∧
  (∀ (c : Instr) (ch : Fin 128) (hi : Bool) (v : DWord) (s : State), regsUp s = true →
    s.ch[ch].sw.state.owns = true → c = .pgTargetWrite ch v ∨ c = .chCompWrite ch hi v →
    exec c s = .next { s with ch := s.ch.set ch { s.ch[ch] with sw := { s.ch[ch].sw with ownRej := true } } }) ∧
  (∀ (ch : Fin 128) (sel : Bool) (s : State), regsUp s = true →
    exec (.lpBankSelWrite ch sel) s = .next { s with ch := s.ch.set ch { s.ch[ch] with
      eng := { s.ch[ch].eng with bankSel := sel } } }) ∧
  (∀ (ch : Fin 128) (bankB : Bool) (offset : Nat) (v : DWord) (s : State), regsUp s = true →
    bankOffsetOk offset = true →
    exec (.coefWrite ch bankB offset v) s = .next { s with
      ch := s.ch.set ch (if bankB = s.ch[ch].eng.bankAct ∧ s.ch[ch].state ≠ .stopped
       then { s.ch[ch] with eng := { s.ch[ch].eng with bankRej := true } }
       else if coefOk s.ch[ch].cfg offset v = false
       then { s.ch[ch] with eng := { s.ch[ch].eng with coefRej := true } }
       else if bankB
       then { s.ch[ch] with cfg := { s.ch[ch].cfg with bankB := s.ch[ch].cfg.bankB.put offset (round48 v) } }
       else { s.ch[ch] with cfg := { s.ch[ch].cfg with bankA := s.ch[ch].cfg.bankA.put offset (round48 v) } }) }) ∧
  (∀ (ch : Fin 128) (s : State), s.ch[ch].dg.hold = true → voltSeq s.ch[ch] = false →
    exec (.deglitchHoldEnd ch) s = .next { s with ch := s.ch.set ch { s.ch[ch] with
      dg := if s.ch[ch].eng.dac ≠ s.ch[ch].dg.next ∧
          majorStep (forcedFs s.ch[ch]) s.ch[ch].dg.next s.ch[ch].eng.dac = true
       then ⟨true, true, dacValue (forcedFs s.ch[ch]) s.ch[ch].dg.next, s.ch[ch].eng.dac⟩
       else { s.ch[ch].dg with
         hold := false, out := dacValue (forcedFs s.ch[ch]) s.ch[ch].eng.dac, next := s.ch[ch].eng.dac } } }) ∧
  (∀ (ch : Fin 128) (s : State), s.ch[ch].dg.hold = true → voltSeq s.ch[ch] = true →
    exec (.deglitchHoldEnd ch) s = .next { s with ch := s.ch.set ch { s.ch[ch] with
      dg := { s.ch[ch].dg with hold := false, next := s.ch[ch].eng.dac } } }) ∧
  (∀ n : Int, dacStep (2 * n) = n ∧ dacStep (2 * n + 1) % 2 = 0 ∧
    (dacStep (2 * n + 1) = n ∨ dacStep (2 * n + 1) = n + 1))

/-- Encoders (R158 to R160): a transition counts up or down by one, a Z edge latches the count, and with ZCHK one that
lies off a multiple of CPR, counted from the first latched, by more than 2 counts is an index error; an SSI word that
passes is the position, decoded from Gray where configured, dated by its first clock edge, and clears the error run,
one that fails counts as an error; a full error run marks the encoder. Only the addressed input changes. -/
def Obligations.Encoders : Prop :=
  (∀ (enc : Fin 32) (e : QuadEdge) (s : State), channelsLive s = true → encSsi s.seq.enc[enc] = false →
    exec (.encQuadEdge enc e) s = .next { s with seq := { s.seq with
      enc := s.seq.enc.set enc (match e with
       | .up => { s.seq.enc[enc] with count := wrap64 (s.seq.enc[enc].count + 1) }
       | .down => { s.seq.enc[enc] with count := wrap64 (s.seq.enc[enc].count - 1) }
       | .illegal => { s.seq.enc[enc] with illegal := true }) } }) ∧
  (∀ (enc : Fin 32) (s : State), channelsLive s = true → encSsi s.seq.enc[enc] = false →
    ∃ bad : Bool, exec (.encIndexEdge enc) s = .next { s with seq := { s.seq with
        enc := s.seq.enc.set enc { s.seq.enc[enc] with
          zlatch := s.seq.enc[enc].count
          zFirst := some (s.seq.enc[enc].zFirst.getD s.seq.enc[enc].count)
          indexErr := s.seq.enc[enc].indexErr || bad } } } ∧
      (bit s.seq.enc[enc].cfg 4 = false ∨ s.seq.enc[enc].zFirst = none → bad = false) ∧
      (bit s.seq.enc[enc].cfg 4 = true → ∀ z, s.seq.enc[enc].zFirst = some z → s.seq.enc[enc].cpr ≠ 0 →
        (bad = false ↔ ∃ k : Int, -2 ≤ s.seq.enc[enc].count - z - k * s.seq.enc[enc].cpr.toNat ∧
          s.seq.enc[enc].count - z - k * s.seq.enc[enc].cpr.toNat ≤ 2))) ∧
  (∀ (enc : Fin 32) (started : Bool) (bits check : Nat) (s : State), encSsi s.seq.enc[enc] = true →
    s.seq.enc[enc].transfer = true →
    ∃ e, exec (.ssiWordDone enc started bits check) s =
        .next { s with seq := { s.seq with enc := s.seq.enc.set enc e } } ∧ e.transfer = false ∧
      (ssiPasses s.seq.enc[enc] started (bits % 2 ^ ssiBits s.seq.enc[enc]) check = true → e.errSeq = 0 ∧
        e.errCnt = s.seq.enc[enc].errCnt ∧ e.ssiFault = false ∧ e.age = s.seq.enc[enc].transferAge ∧
        e.stamp = s.seq.enc[enc].transferAt ∧
        (bit s.seq.enc[enc].cfg 14 = false → e.count = ((bits % 2 ^ ssiBits s.seq.enc[enc] : Nat) : Int)) ∧
        (bit s.seq.enc[enc].cfg 14 = true → ∃ n : Nat, e.count = (n : Int) ∧
          n ^^^ (n >>> 1) = bits % 2 ^ ssiBits s.seq.enc[enc])) ∧
      (ssiPasses s.seq.enc[enc] started (bits % 2 ^ ssiBits s.seq.enc[enc]) check = false →
        e.count = s.seq.enc[enc].count ∧ e.errSeq = Nat.min (s.seq.enc[enc].errSeq + 1) 16 ∧
        e.errCnt = satInc s.seq.enc[enc].errCnt)) ∧
  (∀ (enc : Fin 32) (s : State), encSsi s.seq.enc[enc] = true → s.seq.enc[enc].ssiFault = false →
    field s.seq.enc[enc].errRun 3 0 + 1 ≤ s.seq.enc[enc].errSeq →
    ∃ inbox, exec (.ssiErrorRun enc) s = .next { s with
        seq := { s.seq with enc := s.seq.enc.set enc { s.seq.enc[enc] with ssiFault := true } }
        flt := { s.flt with inbox := inbox } } ∧
      ∀ c : Fin 128, s.ch[c].state = .running → readsEnc s.ch[c].cfg enc = true →
        isPresent { s with flt := { s.flt with inbox := inbox } } 0x06 (unitSource c) = true)

/-- ARM and DISARM (R177, R223, R225, R391, R392): an allowed ARM waits for the ledger at the boundary (that one written
at any time is decided there is the model's reading of R225, A57), and one outside its conditions sets ARM_REJ; the ledger's decision on one whose reservations stand, or fit, leaves the list ARMED with its
counts at 0, which the boundary shows on a STOPPED channel in READY whose reservations stand; DISARM of a list that is
not IDLE waits for the boundary. -/
def Obligations.ArmAndDisarm : Prop :=
  (∀ (ch : Fin 128) (s : State), regsUp s = true → armOk s ch = true →
    exec (.arm ch) s = .next { s with ch := s.ch.set ch { s.ch[ch] with
      sw := { s.ch[ch].sw with armReq := true } } }) ∧
  (∀ (ch : Fin 128) (s : State), s.ch[ch].sw.armReq = true → armOk s ch = true →
    s.ch[ch].sw.reserved = true ∨ verdictNow (updSw s ch fun w => { w with armReq := false, reserved := true })
      [.sequencer (regionOf ch), .store] true = .admitted →
    ∃ ldg, decideArm s ch = { s with ldg := ldg, ch := s.ch.set ch { s.ch[ch] with sw := { s.ch[ch].sw with
      armReq := false, reserved := true, state := .armed, cause := .none, iter := 0, passes := 0
      disarmReq := false } } }) ∧
  (∀ (ch : Fin 128) (f : FrameInputs) (s : State), s.tb.running = true → s.flt.inbox = [] → s.mod.mode = .ready →
    s.mod.safeReq = false → s.mod.safePend = false → s.mod.holdReq = false → s.mod.runReq = false →
    s.ch[ch].state = .stopped → s.ch[ch].startReq = false → s.ch[ch].sw.armReq = true → armOk s ch = true →
    s.ch[ch].sw.reserved = true →
    ∃ t, exec (.frameBoundary f) s = .next t ∧ t.ch[ch].sw.state = .armed ∧ t.ch[ch].sw.armReq = false ∧
      t.ch[ch].sw.iter = 0 ∧ t.ch[ch].sw.passes = 0 ∧ t.ch[ch].state = .stopped) ∧
  (∀ (ch : Fin 128) (s : State), regsUp s = true → armOk s ch = false →
    exec (.arm ch) s = .next { s with ch := s.ch.set ch { s.ch[ch] with sw := { s.ch[ch].sw with armRej := true } } }) ∧
  (∀ (ch : Fin 128) (s : State), regsUp s = true → s.ch[ch].sw.state ≠ .idle →
    exec (.disarm ch) s = .next { s with ch := s.ch.set ch { s.ch[ch] with
      sw := { s.ch[ch].sw with armReq := false, disarmReq := true } } })

/-- The end of a step (R175, R176, R179, R224, R228): when the last step of the last pass has held, the list is DONE, its
step and its reservations gone; a step before the last of its pass gives way to the next one; an end that a late
sequencer misses waits. Measure windows (R120, R125, R175): a window opens MDELAY after the step's base
and closes, at a 10-tick sample, an aperture later, its averages, marked where a range sequence stood in the window,
kept behind those that wait with its opening tick until the result is ready; the oldest result leaves first, one
without CAPTURE with nothing captured, one with CAPTURE as a sample of the channel's result stream, dated by its opening
tick. TRIG_TIMEOUT (R176, R181, R274): the wait window
of a triggered step closes without an event; the list is aborted with its reservations gone, and the notice is
sent from the region's sequencer. A high-resolution aperture (R119, R121, R123) that ends by the next boundary
gives the channel its corrected pair and the tick it began at (R211); no other channel changes. With the ticks that pass, JX_OUT sends on
(R306). That
the count stands at the tick of an event, which may act up to the next boundary, is the model's choice (A4). -/
def Obligations.SweepProgress : Prop :=
  (∀ (ch : Fin 128) (p : SweepStep) (b : Nat) (s : State), s.mod.mode = .run → s.ch[ch].sw.state = .playing →
    s.ch[ch].sw.step = some p → s.ch[ch].sw.base = some b → b + p.hold ≤ nextBoundary s →
    s.ch[ch].sw.endLate = false → b + p.hold ≤ s.tb.last ∨ s.seq.missed[regionOf ch] = false →
    fieldN p.trigOut 10 9 ≠ 3 → s.ch[ch].sw.pos + 1 = field s.ch[ch].cfg.swLen 20 0 →
    field s.ch[ch].sw.repeats 15 0 ≠ 65535 → field s.ch[ch].sw.repeats 15 0 ≤ s.ch[ch].sw.passes →
    exec (.sweepStepEnd ch) s = .next { s with ch := s.ch.set ch { s.ch[ch] with sw := { s.ch[ch].sw with
      state := .done, step := none, started := false, trigAt := none, base := none, windowOpen := false
      windowRanging := false, windowDone := false, endLate := false, disarmReq := false, reserved := false
      passes := s.ch[ch].sw.passes + 1, iter := Nat.min (s.ch[ch].sw.iter + 1) 65535 } } }) ∧
  (∀ (ch : Fin 128) (p : SweepStep) (b : Nat) (s : State), s.mod.mode = .run → s.ch[ch].sw.state = .playing →
    s.ch[ch].sw.step = some p → s.ch[ch].sw.base = some b → b + p.hold ≤ nextBoundary s →
    s.ch[ch].sw.endLate = false →
    (b + p.hold ≤ s.tb.last ∨ s.seq.missed[regionOf ch] = false →
      fieldN p.trigOut 10 9 ≠ 3 → s.ch[ch].sw.pos + 1 ≠ field s.ch[ch].cfg.swLen 20 0 →
      ∃ t, exec (.sweepStepEnd ch) s = .next t ∧ t.ch[ch].sw.pos = s.ch[ch].sw.pos + 1 ∧
        t.ch[ch].sw.passes = s.ch[ch].sw.passes ∧ t.ch[ch].sw.iter = s.ch[ch].sw.iter ∧
        (∀ c : Fin 128, c ≠ ch → t.ch[c] = s.ch[c]) ∧ t.mod = s.mod) ∧
    (s.tb.last < b + p.hold → s.seq.missed[regionOf ch] = true →
      exec (.sweepStepEnd ch) s = .next { s with ch := s.ch.set ch { s.ch[ch] with
        sw := { s.ch[ch].sw with endLate := true } } })) ∧
  (∀ (ch : Fin 128) (p : SweepStep) (b : Nat) (s : State), s.mod.mode = .run → s.ch[ch].sw.state = .playing →
    s.ch[ch].sw.step = some p → s.ch[ch].sw.base = some b → p.maper ≠ 0 → s.ch[ch].sw.windowOpen = false →
    s.ch[ch].sw.windowDone = false → b + p.mdelay ≤ nextBoundary s →
    exec (.measureWindowOpen ch) s = .next (tickLine { s with
      tb := { s.tb with now := Nat.max s.tb.now (b + p.mdelay) }
      ch := s.ch.set ch { s.ch[ch] with sw := { s.ch[ch].sw with
        windowOpen := true, windowRanging := s.ch[ch].range.seq.isSome
        windowClosed := s.ch[ch].switchOn } } })) ∧
  (∀ (ch : Fin 128) (a : Aperture) (p : SweepStep) (b : Nat) (s : State), s.ch[ch].sw.step = some p →
    s.ch[ch].sw.base = some b → s.ch[ch].sw.windowOpen = true →
    (b + p.mdelay + 10 * p.maper) / 10 * 10 ≤ nextBoundary s →
    exec (.measureWindowClose ch a) s = .next (tickLine { s with
      tb := { s.tb with now := Nat.max s.tb.now ((b + p.mdelay + 10 * p.maper) / 10 * 10) }
      ch := s.ch.set ch { s.ch[ch] with sw := { s.ch[ch].sw with
        windowOpen := false, windowRanging := false, windowDone := true
        results := s.ch[ch].sw.results ++ [(averaged (assignedRec s ch) s.ch[ch] s.ch[ch].sw.windowClosed s.ch[ch].sw.windowRanging a,
          p.capture, b + p.mdelay)] } } })) ∧
  (∀ (ch : Fin 128) (a : Aperture) (tick : Nat) (l : List (Aperture × Bool × Nat)) (s : State),
    s.ch[ch].sw.results = (a, false, tick) :: l →
    exec (.apertureResultReady ch) s = .next { s with ch := s.ch.set ch { s.ch[ch] with
      sw := { s.ch[ch].sw with results := l } } }) ∧
  (∀ (ch : Fin 128) (a : Aperture) (tick : Nat) (l : List (Aperture × Bool × Nat)) (n : Fin 2048) (s : State),
    s.ch[ch].sw.results = (a, true, tick) :: l → s.ch[ch].cfg.func ≠ .off → streamsOf s ch (· == 5) = [n] →
    s.sto.stream[n].block.length + 1 < 1024 →
    exec (.apertureResultReady ch) s = .next { s with
      ch := s.ch.set ch { s.ch[ch] with sw := { s.ch[ch].sw with results := l } }
      sto := { s.sto with stream := s.sto.stream.set n { s.sto.stream[n] with
        block := s.sto.stream[n].block ++ [pairSample s.ch[ch] a (resultIsCurrent s.ch[ch].cfg)]
        ts := if s.sto.stream[n].block.isEmpty then tick else s.sto.stream[n].ts
        openedAt := if s.sto.stream[n].block.isEmpty then s.tb.now else s.sto.stream[n].openedAt } } }) ∧
  (∀ (ch : Fin 128) (p : SweepStep) (s : State), s.mod.mode = .run → s.ch[ch].sw.state = .waiting →
    s.ch[ch].sw.step = some p → p.triggered = true → p.tmo ≠ 0 → s.ch[ch].sw.trigAt = none →
    s.ch[ch].sw.waitFrom + 800 * p.tmo + 400 ≤ nextBoundary s →
    ∃ t, exec (.trigTimeout ch) s = .next t ∧ t.ch[ch].sw.state = .aborted ∧ t.ch[ch].sw.cause = .timeout ∧
      t.ch[ch].sw.reserved = false ∧ t.ch[ch].sw.step = none ∧
      (∀ c : Fin 128, c ≠ ch → t.ch[c] = s.ch[c]) ∧ t.mod = s.mod ∧
      t.flt.inbox = s.flt.inbox ++ [⟨⟨0x48, 0x200 + 16 * (regionOf ch).val + 2,
        ch.val + s.ch[ch].sw.pos * 256⟩, s.tb.now⟩]) ∧
  (∀ (c : Fin 128) (a : Aperture) (s : State), channelsLive s = true → s.ch[c].cfg.func ≠ .off →
    dueBy s (hrEnd s.tb.now s.ch[c]) = true →
    ∃ t, exec (.hrApertureEnd c a) s = .next t ∧
      t.ch = s.ch.set c { s.ch[c] with ms := { s.ch[c].ms with
        hrSense := (averaged (assignedRec s c) s.ch[c] s.ch[c].ms.hrClosed s.ch[c].ms.hrRanging a).sense
        hrMeas := (averaged (assignedRec s c) s.ch[c] s.ch[c].ms.hrClosed s.ch[c].ms.hrRanging a).meas
        hrTs := hrEnd s.tb.now s.ch[c] - hrTicks (hrRate s.ch[c].cfg)
        hrRanging := s.ch[c].range.seq.isSome || s.ch[c].ms.hrNext, hrNext := false, hrClosed := s.ch[c].switchOn } } ∧
      s.tb.now ≤ t.tb.now ∧ hrEnd s.tb.now s.ch[c] ≤ t.tb.now ∧ t.mod = s.mod ∧ t.flt.outLvl = s.flt.outLvl ∧
      t.jx = { s.jx with line := t.jx.line })

/-- TRIG pins and TRIG_OUT (R42, R57, R180, R182): an edge of an input pin reaches every waiting list; a rising edge of
a hold input asks for HOLD in RUN, and in HOLD, where it wins over RUN; the pulse that ends first ends at its tick
outside HOLD; a list's scheduled event to an output pin leaves the list and starts a pulse of PW ticks. Timers, ring events and region events (R183 to R185): a firing is counted and offered
to the region's lists; a ring event at its execution tick leaves the kept events, is remembered so that a later copy
merges with it, and is offered to every list, or asks for HOLD; a write of SEQ_RrEVT is offered to the region's lists.
Of outputs and ring events that are kept, the case of one is stated, and of timers those that fire into their region.
That the count stands at the tick of an event, which may act up to the next boundary, is the model's choice (A4); with the
ticks that pass, JX_OUT sends on (R306). -/
def Obligations.TriggersAndEvents : Prop :=
  (∀ (pin : Fin 16) (rising : Bool) (s : State), channelsLive s = true → trigRole s.seq.trig[pin].cfg = 1 →
    exec (.trigInputEdge pin rising) s = .next { s with
      seq := { s.seq with trig := s.seq.trig.set pin { s.seq.trig[pin] with
        edgeAt := s.tb.now, level := rising } }
      ch := Vector.ofFn fun c => { s.ch[c] with
        sw := offerEvent 1 pin.val (if rising then 0 else 1) s.tb.now s.ch[c].sw } }) ∧
  (∀ (pin : Fin 16) (s : State), s.mod.mode = .run ∨ s.mod.mode = .hold → trigRole s.seq.trig[pin].cfg = 3 →
    exec (.trigInputEdge pin true) s = .next { s with
      mod := { s.mod with holdReq := true }
      seq := { s.seq with trig := s.seq.trig.set pin { s.seq.trig[pin] with level := true } } }) ∧
  (∀ (pin : Fin 16) (tick : Nat) (s : State), s.mod.mode ≠ .hold → tick ∈ s.seq.trig[pin].pulses →
    (∀ x ∈ s.seq.trig[pin].pulses, tick ≤ x) → tick ≤ nextBoundary s →
    exec (.trigPulseEnd pin) s = .next (tickLine { s with
      tb := { s.tb with now := Nat.max s.tb.now tick }
      seq := { s.seq with trig := s.seq.trig.set pin { s.seq.trig[pin] with
        pulses := s.seq.trig[pin].pulses.erase tick } } })) ∧
  (∀ (ch : Fin 128) (tick field_ : Nat) (pin : Fin 16) (s : State), s.ch[ch].sw.outs = [(tick, field_)] →
    s.ch[ch].sw.state ≠ .paused → s.mod.mode ≠ .hold → tick ≤ nextBoundary s → fieldN field_ 3 0 = 1 →
    fieldN field_ 8 4 = pin.val → trigRole s.seq.trig[pin].cfg = 2 →
    exec (.trigOutEvent ch) s = .next (tickLine { s with
      tb := { s.tb with now := Nat.max s.tb.now tick }
      ch := s.ch.set ch { s.ch[ch] with sw := { s.ch[ch].sw with outs := [] } }
      seq := { s.seq with
        trig := s.seq.trig.set pin { s.seq.trig[pin] with
          pulses := s.seq.trig[pin].pulses ++ [tick + field s.seq.trig[pin].cfg 31 16] } } })) ∧
  (∀ (region : Fin 4) (timer : Fin 16) (tick : Nat) (s : State), channelsLive s = true →
    nextFiring s.seq.timer[timerAt region timer] = some tick → tick ≤ nextBoundary s →
    tmrDest s.seq.timer[timerAt region timer].cfg = 0 →
    exec (.timerFire region timer) s = .next (tickLine { s with
      tb := { s.tb with now := Nat.max s.tb.now tick }
      seq := { s.seq with timer := s.seq.timer.set (timerAt region timer) { s.seq.timer[timerAt region timer] with
        fired := s.seq.timer[timerAt region timer].fired + 1 } }
      ch := Vector.ofFn fun c => if regionOf c = region
        then { s.ch[c] with sw := offerEvent 3 timer.val 0 tick s.ch[c].sw } else s.ch[c] })) ∧
  (∀ (event : Fin 32) (e : RingEvent) (tick : Nat) (s : State), s.seq.events = [(e, tick)] →
    e.event = event.val → e.hold = false → tick ≤ nextBoundary s →
    exec (.ringEventExecute event) s = .next (tickLine { s with
      tb := { s.tb with now := Nat.max s.tb.now tick }
      seq := { s.seq with events := [], executed := s.seq.executed ++ [e] }
      ch := Vector.ofFn fun c => { s.ch[c] with sw := offerEvent 2 event.val 0 tick s.ch[c].sw } })) ∧
  (∀ (event : Fin 32) (e : RingEvent) (tick : Nat) (s : State), s.seq.events = [(e, tick)] →
    e.event = event.val → e.hold = true → tick ≤ nextBoundary s → s.mod.mode = .run ∨ s.mod.mode = .hold →
    exec (.ringEventExecute event) s = .next (tickLine { s with
      tb := { s.tb with now := Nat.max s.tb.now tick }
      seq := { s.seq with events := [], executed := s.seq.executed ++ [e] }
      mod := { s.mod with holdReq := true } })) ∧
  (∀ (region : Fin 4) (v : Word) (s : State), regsUp s = true →
    exec (.seqRegionEventWrite region v) s = .next { s with ch := Vector.ofFn fun c => if regionOf c = region
      then { s.ch[c] with sw := offerEvent 4 (field v 4 0) 0 s.tb.now s.ch[c].sw } else s.ch[c] })

/-- Calibration requests (R189, R202, R208, R210, R393): INTERNAL owes a run to a unit that neither runs nor owes one,
REQ_ALL to every unit that does not run; TERM_OPEN, TERM_SHORT and TERM_CLEAR reach the channel's unit: where its state allows it the
run is owed after those already accepted (the model's reading, A31), or the commit of a record with both FLAGS clear begins, else CMD_REJ is set; the 1 ms check takes a
unit's automatic trigger away where automatic calibration is off. Only calibration units, and a comb's list of
commits, change. Repair (R212, R213, R395): a REPAIR of a unit whose channel is SAFED or STOPPED, with the spare free,
begins the commit that gives the spare the failed unit's terminal fields, and in a parallel interval it waits; once
that commit ends the map change is due at the next boundary; a RELEASE of a repaired channel that is STOPPED is due
too; any other of either sets the comb's REJ flag, and so does a REPAIR while another is on its way (the model's reading,
A32). -/
def Obligations.CalibrationAndRepairRequests : Prop :=
  (∀ (unit : Fin 144) (s : State), regsUp s = true → exec (.internal unit) s = .next (if s.unit[unit].running ∨ runDue s.unit[unit] = true then s
    else { s with unit := s.unit.set unit { s.unit[unit] with dueReq := true } })) ∧
  (∀ s : State, regsUp s = true → ∃ unit, exec .reqAll s = .next { s with unit := unit } ∧
    ∀ p : Fin 144, unit[p] = if s.unit[p].running then s.unit[p] else { s.unit[p] with dueReq := true }) ∧
  (∀ (ch : Fin 128) (c : Instr) (k : RunKind) (s : State), regsUp s = true →
    c = .termOpen ch ∧ k = .termOpen ∨ c = .termShort ch ∧ k = .termShort →
    exec c s = .next { s with unit := s.unit.set (assignedUnit s ch) (if termOk s ch
      then { s.unit[assignedUnit s ch] with dueTerm := s.unit[assignedUnit s ch].dueTerm ++ [k] }
      else { s.unit[assignedUnit s ch] with cmdRej := true }) }) ∧
  (∀ (ch : Fin 128) (s : State), regsUp s = true → termOk s ch = false →
    exec (.termClear ch) s = .next { s with
      unit := s.unit.set (assignedUnit s ch) { s.unit[assignedUnit s ch] with cmdRej := true } }) ∧
  (∀ (ch : Fin 128) (i : Fin 9) (rec_ : Record) (s : State), regsUp s = true → termOk s ch = true →
    i = s.comb[combOf ch].map[slotOf ch] →
    rec_ = { latestRec s (combOf ch) i with openOk := false, shortOk := false } →
    exec (.termClear ch) s = .next { s with
      unit := s.unit.set (unitAt (combOf ch) i) (writeBody (unitAt (combOf ch) i) s.unit[unitAt (combOf ch) i] rec_)
      comb := s.comb.set (combOf ch) { s.comb[combOf ch] with
        commits := s.comb[combOf ch].commits ++ [(i, rec_)] } }) ∧
  (∀ s : State, regsUp s = true → ∃ unit, exec .calTriggerCheck s = .next { s with unit := unit } ∧
    ∀ p : Fin 144, (s.cal.autoEn = false → unitInRun s p = false → unit[p].dueTemp = false ∧ unit[p].dueAge = false) ∧
      (unitInRun s p = true → unit[p] = s.unit[p])) ∧
  (∀ (comb : Fin 16) (i : Fin 8) (s : State), regsUp s = true → s.comb[comb].assigned = 15 →
    spareOut s comb = false → repairing s.comb[comb] = false →
    s.ch[chanAt comb i].state = .safed ∨ s.ch[chanAt comb i].state = .stopped →
    (s.comb[comb].parallel = false → spareInRun s.comb[comb].run = false →
      exec (.repair comb ⟨i.val, by omega⟩) s = .next { s with
        unit := s.unit.set (unitAt comb 8) (writeBody (unitAt comb 8) s.unit[unitAt comb 8] (repairRec s comb i))
        comb := s.comb.set comb { s.comb[comb] with
          repairPend := none, repairCommit := some i
          commits := s.comb[comb].commits ++ [(8, repairRec s comb i)] } }) ∧
    (s.comb[comb].parallel = true →
      exec (.repair comb ⟨i.val, by omega⟩) s = .next { s with comb := s.comb.set comb { s.comb[comb] with
        repairPend := some i } })) ∧
  (∀ (comb : Fin 16) (i : Fin 8) (rec_ : Record) (l : List (Fin 9 × Record)) (s : State), channelsLive s = true →
    s.comb[comb].commits = (8, rec_) :: l → s.comb[comb].run = none → s.comb[comb].repairCommit = some i →
    exec (.calCommitDone comb ⟨true, true⟩) s = .next { s with
      unit := s.unit.set (unitAt comb 8)
        (showRec (unitAt comb 8) (writeCheck (unitAt comb 8) s.unit[unitAt comb 8] rec_))
      comb := s.comb.set comb { s.comb[comb] with commits := l, repairCommit := none, mapPend := some i } }) ∧
  (∀ (comb : Fin 16) (unit : Fin 16) (s : State), regsUp s = true →
    8 ≤ unit.val ∨ s.comb[comb].assigned ≠ 15 ∨ spareOut s comb = true ∨ repairing s.comb[comb] = true ∨
      (∃ i : Fin 8, i.val = unit.val ∧ s.ch[chanAt comb i].state ≠ .safed ∧ s.ch[chanAt comb i].state ≠ .stopped) →
    exec (.repair comb unit) s = .next { s with comb := s.comb.set comb { s.comb[comb] with rej := true } }) ∧
  (∀ (comb : Fin 16) (i : Fin 8) (s : State), regsUp s = true → s.comb[comb].assigned = i.val →
    s.ch[chanAt comb i].state = .stopped →
    exec (.release comb) s = .next { s with comb := s.comb.set comb { s.comb[comb] with releasePend := true } }) ∧
  (∀ (comb : Fin 16) (s : State), regsUp s = true →
    s.comb[comb].assigned = 15 ∨
      (∃ i : Fin 8, i.val = s.comb[comb].assigned ∧ s.ch[chanAt comb i].state ≠ .stopped) →
    exec (.release comb) s = .next { s with comb := s.comb.set comb { s.comb[comb] with rej := true } })

/-- The verdict of an internal run (R198 to R204): a run that measures and disagrees by no more than CAL_TOL, no
trim at its end, puts its trims in force and begins the commit of a record with COUNT and the measured trims, its
terminal fields kept, and REJ_RUN is 0; the record in force stays until CHECK is written; a trim at its end, or a
larger disagreement, sets CAL_REJECT with its CAUSE and sends the notice. The rest of a run (R200, R202, R203, R205,
R206, R209, R210): a commit that reads back at its first or its second write makes the new record whole in the unit's
inactive slot, and shows it unless a takeover goes on, one that does not raises CAL_STORE_CHECK and leaves the slot
torn; a prepared unit calibrated in place ends its run; a unit that takes its terminal back ends its takeover; a
terminal run whose check fails ends with PRECOND_FAIL, and one that passes takes its terminal fields from what it
measured. The phases of a run and the order of its verdict, commit, preparation and hand-back are the model's reading
(A31). -/
def Obligations.CalibrationRuns : Prop :=
  (∀ (comb : Fin 16) (v : RunResult) (r : CalRun) (s : State), channelsLive s = true → s.comb[comb].run = some r →
    r.aborting = false → r.phase = .measuring → r.kind.terminal = false → v.trimEnd = false →
    v.disagree ≤ b64ToRat s.cal.tol →
    ∃ rec_ unit, exec (.calRunVerdict comb v) s = .next { s with
        unit := s.unit.set (unitAt comb r.unit) (writeBody (unitAt comb r.unit) unit rec_)
        comb := s.comb.set comb { s.comb[comb] with
          run := some { r with phase := .committing, newRec := some rec_, since := s.tb.now }
          commits := s.comb[comb].commits ++ [(r.unit, rec_)] } } ∧
      unit = { s.unit[unitAt comb r.unit] with
        rejRun := 0, suspended := s.unit[unitAt comb r.unit].suspended && !r.requested, trims := v.trims } ∧
      activeRec (unitAt comb r.unit) (writeBody (unitAt comb r.unit) unit rec_) =
        activeRec (unitAt comb r.unit) s.unit[unitAt comb r.unit] ∧
      rec_.trims = v.trims ∧ rec_.temp = readout v.temp ∧ rec_.time = s.tb.now ∧
      rec_.count = Nat.min ((latestRec s comb r.unit).count + 1) 4294967295 ∧
      rec_.ios = (latestRec s comb r.unit).ios ∧ rec_.g = (latestRec s comb r.unit).g ∧
      rec_.rs = (latestRec s comb r.unit).rs ∧ rec_.vos = (latestRec s comb r.unit).vos) ∧
  (∀ (comb : Fin 16) (v : RunResult) (r : CalRun) (s : State), channelsLive s = true → s.comb[comb].run = some r →
    r.aborting = false → r.phase = .measuring → r.kind.terminal = false →
    v.trimEnd = true ∨ b64ToRat s.cal.tol < v.disagree →
    ∃ t, exec (.calRunVerdict comb v) s = .next t ∧ t.unit[unitAt comb r.unit].reject = true ∧
      t.unit[unitAt comb r.unit].cause = (if v.trimEnd then .trimEnd else .disagree) ∧
      t.unit[unitAt comb r.unit].slotA = s.unit[unitAt comb r.unit].slotA ∧
      t.unit[unitAt comb r.unit].slotB = s.unit[unitAt comb r.unit].slotB ∧
      t.unit[unitAt comb r.unit].trims = s.unit[unitAt comb r.unit].trims ∧
      t.comb[comb].run = some { r with phase := .committing, newRec := none, since := s.tb.now } ∧
      (∀ p : Fin 144, p ≠ unitAt comb r.unit → t.unit[p] = s.unit[p]) ∧ t.ch = s.ch) ∧
  (∀ (comb : Fin 16) (rec_ : Record) (l : List (Fin 9 × Record)) (r : CalRun) (first second : Bool) (s : State),
    channelsLive s = true → s.comb[comb].run = some r → r.newRec = some rec_ → r.kind.terminal = false →
    s.comb[comb].commits = (r.unit, rec_) :: l → first = true ∨ second = true →
    exec (.calCommitDone comb ⟨first, second⟩) s = .next { s with
      unit := s.unit.set (unitAt comb r.unit) (if r.kind = .takeover
        then writeCheck (unitAt comb r.unit) s.unit[unitAt comb r.unit] rec_
        else showRec (unitAt comb r.unit) (writeCheck (unitAt comb r.unit) s.unit[unitAt comb r.unit] rec_))
      comb := s.comb.set comb { s.comb[comb] with commits := l } }) ∧
  (∀ (comb : Fin 16) (rec_ : Record) (l : List (Fin 9 × Record)) (r : CalRun) (s : State),
    channelsLive s = true → s.comb[comb].run = some r → r.newRec = some rec_ → r.kind = .takeover →
    s.comb[comb].commits = (r.unit, rec_) :: l →
    ∃ detail, exec (.calCommitDone comb ⟨false, false⟩) s = .next { s with
      comb := s.comb.set comb { s.comb[comb] with commits := l }
      flt := { s.flt with inbox := s.flt.inbox ++ [⟨⟨0x0B, 0x401, detail⟩, s.tb.now⟩] } }) ∧
  (∀ (p : Fin 144) (u : CalUnit) (rec_ : Record), slotRec p (if intoA p u
    then (writeCheck p u rec_).slotA else (writeCheck p u rec_).slotB) = some (nextSeq p u rec_)) ∧
  (∀ (comb : Fin 16) (r : CalRun) (s : State), channelsLive s = true → s.comb[comb].run = some r →
    r.aborting = false → r.phase = .committing → committing s.comb[comb] r = false → r.kind = .inPlace →
    exec (.calPrepared comb) s = .next { s with
      comb := s.comb.set comb { s.comb[comb] with run := none, serve := 15, parallel := false }
      unit := s.unit.set (unitAt comb r.unit) { s.unit[unitAt comb r.unit] with
        running := false, spareOn := false, deferred := false
        noticed := { temp := false, age := false, req := false, init := false
                     term := Nat.min s.unit[unitAt comb r.unit].dueTerm.length s.unit[unitAt comb r.unit].noticed.term }
        dueTemp := false, dueAge := false, dueReq := false, dueInit := false } }) ∧
  (∀ (comb : Fin 16) (r : CalRun) (s : State), channelsLive s = true → s.comb[comb].run = some r →
    r.aborting = false → r.phase = .committing → committing s.comb[comb] r = false → r.kind = .takeover →
    exec (.calPrepared comb) s = .next { s with comb := s.comb.set comb { s.comb[comb] with
      run := some { r with phase := .prepared, since := s.tb.now } } }) ∧
  (∀ (comb : Fin 16) (r : CalRun) (s : State), channelsLive s = true → s.comb[comb].run = some r →
    r.phase = .handing → s.comb[comb].parallel = true → r.kind = .takeover → s.comb[comb].repairPend = none →
    ∃ t, exec (.calHandback comb) s = .next t ∧ t.comb[comb].run = none ∧ t.comb[comb].serve = 15 ∧
      t.comb[comb].parallel = false ∧ t.unit[unitAt comb r.unit].running = false ∧
      t.unit[unitAt comb r.unit].spareOn = false ∧
      t.unit[unitAt comb r.unit].slotA = s.unit[unitAt comb r.unit].slotA ∧
      t.unit[unitAt comb r.unit].slotB = s.unit[unitAt comb r.unit].slotB ∧
      (∀ c : Fin 128, t.ch[c].state = s.ch[c].state ∧ t.ch[c].out = s.ch[c].out)) ∧
  (∀ (ch : Fin 128) (v : TermResult) (r : CalRun) (s : State), channelsLive s = true →
    s.comb[combOf ch].run = some r → r.aborting = false → r.phase = .measuring → r.kind.terminal = true →
    r.chan = some ch →
    ((if r.kind = .termOpen then 1 / 10000000000 else 1 / 10000) ≤ v.check →
      ∃ t, exec (.termRunDone ch v) s = .next t ∧ t.comb[combOf ch].run = none ∧
        t.unit[unitAt (combOf ch) r.unit].precondFail = true) ∧
    (v.check < (if r.kind = .termOpen then 1 / 10000000000 else 1 / 10000) → v.disagree ≤ b64ToRat s.cal.tol →
      ∃ t rec_, exec (.termRunDone ch v) s = .next t ∧
        t.comb[combOf ch].run = some { r with phase := .committing, newRec := some rec_, since := s.tb.now } ∧
        t.comb[combOf ch].commits = s.comb[combOf ch].commits ++ [(r.unit, rec_)] ∧
        rec_.trims = (latestRec s (combOf ch) r.unit).trims ∧
        (r.kind = .termOpen → rec_.openOk = true ∧ rec_.ios = v.atZero.map readout ∧
          rec_.g = readout (v.atOne - v.atZero[2])) ∧
        (r.kind = .termShort → rec_.shortOk = true ∧ rec_.rs = readout ((v.vPlus - v.vMinus) / (1 / 500)) ∧
          rec_.vos = readout ((v.vPlus + v.vMinus) / 2)) ∧ t.ch = s.ch))

/-- An onset (R272, R276, R279, R282): from BOOT onwards, the collector not stalled and nothing else waiting at its
inputs, the kind is latched and its OUTLVL stands at least at the level the escalation gives, never lower than
before; a message of a module-level source ends in LOCKDOWN outside OPEN. -/
def Obligations.OnsetIsTaken : Prop :=
  ∀ (m : Msg) (s : State) (k : Fin 29), s.mod.mode ≠ .bypass → s.mod.collStall = false → s.flt.inbox = [] →
    1 ≤ k.val → m.kind = k.val →
    ∃ t, exec (.faultOnset [m]) s = .next t ∧ t.flt.latch.getLsbD k.val = true ∧
      resultLevel (beginTick s.flt s.tb.now) m ≤ t.flt.outLvl[k] ∧ s.flt.outLvl[k] ≤ t.flt.outLvl[k] ∧
      (5 ≤ startLevel m.source → s.mod.mode ≠ .opened → t.mod.mode = .lockdown) ∧
      t.tb = s.tb ∧ t.lock = s.lock ∧ t.sec = s.sec ∧ t.boot = s.boot ∧ t.pwr = s.pwr

/-- An end message and a notice (R274, R275, R279, R280, R282, R285): nothing else waiting, the end takes the kind from
its source and leaves every level, latch, channel and mode alone, but that an acknowledgement given in the same tick
then succeeds, and frees a spare that the kind withheld; a notice in a tick of its own is one history entry, and no fault register, output, channel or mode
changes. -/
def Obligations.EndsAndNotices : Prop :=
  (∀ (kind source : Nat) (s : State), s.mod.mode ≠ .bypass → s.mod.collStall = false → s.flt.inbox = [] →
    1 ≤ kind → kind ≤ 28 →
    ∃ t, exec (.faultEnd kind source) s = .next t ∧ (kind, source) ∉ t.flt.present ∧
      (∀ p, p ≠ (kind, source) → (p ∈ t.flt.present ↔ p ∈ s.flt.present)) ∧
      (s.flt.tick ≠ s.tb.now ∨ s.flt.tickAcks = [] → t.flt.outLvl = s.flt.outLvl) ∧
      (∀ k : Fin 29, s.flt.tick = s.tb.now → k.val ∈ s.flt.tickAcks → k.val ∉ s.flt.tickKinds →
        curOf t.flt k.val = false → t.flt.outLvl[k] = 0) ∧
      t.flt.latch = s.flt.latch ∧ t = { s with flt := t.flt, comb := t.comb } ∧
      (s.flt.tick ≠ s.tb.now ∨ s.flt.tickAcks = [] → t.comb = s.comb)) ∧
  (∀ (m : Msg) (s : State), s.mod.mode ≠ .bypass → s.mod.collStall = false → s.flt.inbox = [] →
    isNotice m.kind = true → s.flt.tick ≠ s.tb.now →
    ∃ t, exec (.notice m) s = .next t ∧ t.flt.hist.cnt = (s.flt.hist.cnt + 1) % 4294967296 ∧
      t.flt.hist.slots[(⟨s.flt.hist.cnt % 32, Nat.mod_lt _ (by decide)⟩ : Fin 32)] =
        entryBits s.tb.now false (noticeEntry m) ∧
      t.flt.hist.first = s.flt.hist.first ∧ t.flt.hist.firstValid = s.flt.hist.firstValid ∧
      t.flt.outLvl = s.flt.outLvl ∧ t.flt.latch = s.flt.latch ∧ t.flt.present = s.flt.present ∧
      t = { s with flt := t.flt })

/-- Acknowledging and clearing (R280, R282, R285, R286, R364), in a tick of its own with nothing waiting: FLT_ACK of
a kind no source holds sets its OUTLVL to 0, of a kind still present sets ACK_REJ, of an undefined KIND sets SET_REJ;
HIST_CLR empties the history and leaves FLT_FIRST, FIRST_CLR does the reverse. Nothing outside the collector changes,
but that a spare withheld by an acknowledged kind is free again (R277). A read of a W0_LO of
the history or of FLT_FIRST (R285): the reader has the entry's low word, and the whole entry is latched for its
later reads. -/
def Obligations.CollectorCommands : Prop :=
  (∀ (v : Word) (k : Fin 29) (s : State), regsUp s = true → s.mod.collStall = false → s.flt.inbox = [] →
    s.flt.tick ≠ s.tb.now → bit v 31 = false → field v 7 0 = k.val → 1 ≤ k.val → s.flt.outLvl[k] ≠ 0 →
    ∃ t, exec (.fltAck v) s = .next t ∧ t = { s with flt := t.flt, comb := t.comb } ∧
      (∀ c : Fin 16, t.comb[c] = { s.comb[c] with
        spareKinds := s.comb[c].spareKinds.filter fun x => outLevel t.flt x != 0 }) ∧
      t.flt.present = s.flt.present ∧
      t.flt.latch = s.flt.latch ∧ t.flt.hist = s.flt.hist ∧
      (curOf s.flt k.val = false → t.flt.outLvl = s.flt.outLvl.set k 0 ∧ t.flt.ackRej = s.flt.ackRej) ∧
      (curOf s.flt k.val = true → t.flt.outLvl = s.flt.outLvl ∧ t.flt.ackRej = true)) ∧
  (∀ (v : Word) (s : State), regsUp s = true → s.mod.collStall = false → s.flt.inbox = [] → bit v 31 = false →
    field v 7 0 = 0 ∨ 28 < field v 7 0 →
    exec (.fltAck v) s = .next { s with flt := { s.flt with setRej := true } }) ∧
  (∀ s : State, regsUp s = true → s.mod.collStall = false → s.flt.inbox = [] → s.flt.tick ≠ s.tb.now →
    ∃ t, exec .histClr s = .next t ∧ t = { s with flt := t.flt } ∧ t.flt.hist.cnt = 0 ∧
      (∀ i : Fin 32, t.flt.hist.slots[i] = 0) ∧ t.flt.hist.first = s.flt.hist.first ∧
      t.flt.hist.firstValid = s.flt.hist.firstValid ∧ t.flt.outLvl = s.flt.outLvl ∧ t.flt.latch = s.flt.latch) ∧
  (∀ s : State, regsUp s = true → s.mod.collStall = false → s.flt.inbox = [] → s.flt.tick ≠ s.tb.now →
    ∃ t, exec .firstClr s = .next t ∧ t = { s with flt := t.flt } ∧ t.flt.hist.first = 0 ∧
      t.flt.hist.firstValid = false ∧ t.flt.hist.cnt = s.flt.hist.cnt ∧ t.flt.hist.slots = s.flt.hist.slots ∧
      t.flt.outLvl = s.flt.outLvl ∧ t.flt.latch = s.flt.latch) ∧
  (∀ (m : Master) (slot : Fin 33) (s : State), regsUp s = true → masterUp s m = true →
    ∃ latches, exec (.fltHistW0LoRead m slot) s = .next { s with bus := { s.bus with
        read := (histEntry s.flt slot).extractLsb' 0 32, histLatches := latches } } ∧
      heldOf latches m.id slot.val = some (histEntry s.flt slot))

/-- The application core's watchdog (R291, R293, R339, R340): the cause of its reset is 1, its locks and latches are
gone, every H2C message of the NS channels is gone with ABORTED set, WAGGLE stands low with STOP_CAUSE 2 (the
model's reading, A29), and the module is in LOCKDOWN outside OPEN. A stalled collector (R294, R295): every output is open
and every channel SAFED, WAGGLE stands low with cause 3, and the module is in LOCKDOWN outside OPEN. -/
def Obligations.WatchdogAndCollectorStall : Prop :=
  (∀ s : State, s.mod.mode ≠ .bypass → s.mod.collStall = false → s.flt.inbox = [] →
    ∃ t, exec .coreWatchdog s = .next t ∧ t.mod.resetCause = 1 ∧
      (∀ l : Fin 64, t.lock[l] = if s.lock[l] = 2 then 0 else s.lock[l]) ∧
      (∀ n : Fin 20, n.val < 16 → t.mbx[n].h2c.full = false ∧ t.mbx[n].h2c.aborted = true ∧
        t.mbx[n].c2h = { s.mbx[n].c2h with epoch := !s.mbx[n].c2h.epoch }) ∧
      (t.flt.stopCause ≠ 3 → t.flt.stopCause = 2 ∧ t.pins.waggle = false ∧ t.pins.toggling = false) ∧
      (s.mod.mode ≠ .opened → t.mod.mode = .lockdown)) ∧
  (∀ s : State, s.mod.mode ≠ .bypass →
    ∃ t, exec .collStall s = .next t ∧ t.mod.collStall = true ∧
      (∀ c : Fin 128, t.ch[c].state = .safed ∧ t.ch[c].isHiz) ∧
      t.pins.waggle = false ∧ t.pins.toggling = false ∧ t.flt.stopCause = 3 ∧
      (s.mod.mode ≠ .opened → t.mod.mode = .lockdown) ∧ (s.mod.mode = .opened → t.mod.mode = .opened) ∧
      t.flt.outLvl = s.flt.outLvl ∧ t.lock = s.lock)

/-- The reaction of a level-5 fault (R60, R246, R263, R276, R289): every channel is SAFED with its list and START
dropped, every queue is empty, an enabled DMA engine has no descriptor left but the one in progress, every stream is
closed and no mode request waits. -/
def Obligations.LockdownSafesEveryChannel : Prop :=
  ∀ (m : Msg) (s : State), s.mod.mode ≠ .bypass → s.mod.mode ≠ .opened → s.mod.collStall = false →
    s.flt.inbox = [] → isOnset m.kind = true → 5 ≤ startLevel m.source →
    ∃ t, exec (.faultOnset [m]) s = .next t ∧ (∀ c : Fin 128, t.ch[c].state = .safed) ∧
      (∀ c : Fin 128, t.ch[c].sw.state.isIdle = true ∧ t.ch[c].startReq = false) ∧
      (∀ q : Fin 32, t.sq[q].items = [] ∧ t.sq[q].visible = 0) ∧
      (∀ e : Fin 8, s.dma[e].en = true → t.dma[e].head = t.dma[e].tail) ∧
      (∀ n : Fin 2048, t.sto.stream[n].opened = false) ∧
      t.mod.readyReq = false ∧ t.mod.runReq = false ∧ t.mod.holdReq = false ∧ t.mod.safeReq = false ∧
      t.mod.safePend = false

/-- Streams (R225, R228, R242, R244): a 1 µs cycle serves the late blocks; OPEN of a configured stream waits for the
ledger at the boundary (that one written at any time is decided there is the model's reading of R225, A57), which opens
it where it fits, at its rate; outside its conditions OPEN sets CFG_REJ; CLOSE releases its rate and writes the assembly
block, if it holds samples, to the stream's ring, a block of fewer than 1,024 samples as PARTIAL. -/
def Obligations.Streams : Prop :=
  (∀ s : State, exec .storeSchedCycle s = .next { s with
    sto := { s.sto with late := 0, ring := s.sto.ring.map rewindRing } }) ∧
  (∀ (n : Fin 2048) (s : State), s.mod.mode.operating = true → s.mod.collStall = false →
    s.sto.stream[n].opened = false → streamCfgOk s s.sto.stream[n] = true →
    exec (.openStream n) s = .next { s with sto := { s.sto with
      stream := s.sto.stream.set n { s.sto.stream[n] with openReq := true } } }) ∧
  (∀ (n : Fin 2048) (s : State), s.mod.mode.operating = true → s.mod.collStall = false →
    streamCfgOk s s.sto.stream[n] = true → (admitStream s n).1 = true →
    ∃ t, decideStream s n = t ∧ t.sto.stream[n].opened = true ∧ t.sto.stream[n].openReq = false ∧
      t.sto.stream[n].rate = streamRate s s.sto.stream[n].cfg s.sto.stream[n].age ∧
      (∀ k : Fin 2048, k ≠ n → t.sto.stream[k] = s.sto.stream[k]) ∧ t.sto.mem = s.sto.mem ∧ t.ch = s.ch) ∧
  (∀ (n : Fin 2048) (s : State), regsUp s = true → s.sto.stream[n].opened = false →
    streamCfgOk s s.sto.stream[n] = false ∨ s.mod.mode.operating = false ∨ s.mod.collStall = true →
    exec (.openStream n) s = .next { s with sto := { s.sto with
      stream := s.sto.stream.set n { s.sto.stream[n] with cfgRej := true } } }) ∧
  (∀ (n : Fin 2048) (s : State), regsUp s = true → s.sto.stream[n].opened = true →
    ∃ t, exec (.closeStream n) s = .next t ∧ t.sto.stream[n].opened = false ∧ t.sto.stream[n].rate = 0 ∧
      (strSrc s.sto.stream[n].cfg < 6 → t.sto.stream[n].block = []) ∧
      (6 ≤ strSrc s.sto.stream[n].cfg → t.sto.stream[n].raw = []) ∧
      (strSrc s.sto.stream[n].cfg < 6 → s.sto.stream[n].block = [] → t.sto.mem = s.sto.mem ∧ t.sto.ring = s.sto.ring) ∧
      (∀ ring : Fin 31, strSrc s.sto.stream[n].cfg < 6 → s.sto.stream[n].block ≠ [] →
        strRing s.sto.stream[n].cfg = ring.val → ∃ u, u = writeBlock s ring
            (padBlock (s.sto.stream[n].block.flatMap fun w => toBytes 4 w.toNat))
            (descBytes (padBlock (s.sto.stream[n].block.flatMap fun w => toBytes 4 w.toNat))
              (descHead s.sto.stream[n].ts n.val s.sto.stream[n].block.length
                (decide (s.sto.stream[n].block.length < 1024)))) ∧
          t.sto.mem = u.sto.mem ∧ t.sto.ring = u.sto.ring) ∧
      (∀ k : Fin 2048, k ≠ n → t.sto.stream[k] = s.sto.stream[k]) ∧ t.ch = s.ch ∧ t.sq = s.sq)

/-- A block closes for its age (R127, R245, R247, R249, R252): into a ring with room its 4,096 data bytes, the samples or
the packed codes and unused ones 0, go to the address of block WP and its 16-byte descriptor to the end of the
partition: the tick of its first sample, the stream, COUNT and PARTIAL, and the CRC-32C over the data and these 12 bytes;
WP moves on, which loses a MARK more than a ring behind, and no other byte of the store changes. A ring that is full (R251): the drop policy counts and
drops the block; neither pointer moves and no byte of the store changes. -/
def Obligations.BlocksReachRings : Prop :=
  (∀ (n : Fin 2048) (ring : Fin 31) (raw : List Nat) (data head : List Byte) (count full : Nat) (s : State),
    s.sto.stream[n].opened = true →
    s.sto.stream[n].openedAt + field s.sto.stream[n].age 13 0 * 800000 ≤ nextBoundary s →
    strRing s.sto.stream[n].cfg = ring.val → ringActive s ring = true → ringBlocks s ring ≠ 0 →
    s.sto.ring[ring].wp - s.sto.ring[ring].rp < ringBlocks s ring → storeCanonical s →
    (strSrc s.sto.stream[n].cfg < 6 ∧ s.sto.stream[n].block ≠ [] ∧
        data = padBlock (s.sto.stream[n].block.flatMap fun w => toBytes 4 w.toNat) ∧
        count = s.sto.stream[n].block.length ∧ full = 1024 ∨
      6 ≤ strSrc s.sto.stream[n].cfg ∧ s.sto.stream[n].raw ≠ [] ∧ s.tb.now ≤ s.sto.stream[n].nextCode ∧
        s.ch[strCh s.sto.stream[n].cfg].cfg.func ≠ .off ∧
        data = toBytes 4096 (packCodes (if strSrc s.sto.stream[n].cfg = 9 then 18 else 6) s.sto.stream[n].raw) ∧
        count = s.sto.stream[n].raw.length ∧ full = (if strSrc s.sto.stream[n].cfg = 9 then 1820 else 5461)) →
    head = toBytes 8 s.sto.stream[n].ts ++
      toBytes 4 (n.val + count * 2048 + if count < full then 16777216 else 0) →
    ∃ t, exec (.captureBlockClose n raw) s = .next t ∧ t.sto.stream[n].ts = 0 ∧
      memReadN t.sto.mem (blockAddr s ring s.sto.ring[ring].wp).2 16 =
        head ++ toBytes 4 (crc32c (data ++ head)).toNat ∧
      t.sto.ring[ring].markValid = (s.sto.ring[ring].markValid &&
        decide (s.sto.ring[ring].wp + 1 - s.sto.ring[ring].mark ≤ ringBlocks s ring)) ∧
      t.sto.ring[ring].markLost = (s.sto.ring[ring].markLost || (s.sto.ring[ring].markValid &&
        decide (ringBlocks s ring < s.sto.ring[ring].wp + 1 - s.sto.ring[ring].mark))) ∧
      (strSrc s.sto.stream[n].cfg < 6 → t.sto.stream[n].block = []) ∧
      (6 ≤ strSrc s.sto.stream[n].cfg → t.sto.stream[n].raw = []) ∧
      t.sto.ring[ring].wp = s.sto.ring[ring].wp + 1 ∧ t.sto.ring[ring].rp = s.sto.ring[ring].rp ∧
      t.sto.ring[ring].drop = s.sto.ring[ring].drop ∧
      memReadN t.sto.mem (blockAddr s ring s.sto.ring[ring].wp).1 4096 = data ∧
      (∀ a : Nat, (a < (blockAddr s ring s.sto.ring[ring].wp).1 ∨
          (blockAddr s ring s.sto.ring[ring].wp).1 + 4096 ≤ a) →
        (a < (blockAddr s ring s.sto.ring[ring].wp).2 ∨ (blockAddr s ring s.sto.ring[ring].wp).2 + 16 ≤ a) →
        memRead t.sto.mem a = memRead s.sto.mem a) ∧ t.ch = s.ch ∧ t.sq = s.sq) ∧
  (∀ (n : Fin 2048) (ring : Fin 31) (raw : List Nat) (s : State), s.sto.stream[n].opened = true →
    strSrc s.sto.stream[n].cfg < 6 → s.sto.stream[n].block ≠ [] →
    s.sto.stream[n].openedAt + field s.sto.stream[n].age 13 0 * 800000 ≤ nextBoundary s →
    strRing s.sto.stream[n].cfg = ring.val → ringActive s ring = true → ringBlocks s ring ≠ 0 →
    ringBlocks s ring ≤ s.sto.ring[ring].wp - s.sto.ring[ring].rp → ringOverwrites s.sto.ring[ring].cfg = false →
    ∃ t, exec (.captureBlockClose n raw) s = .next t ∧ t.sto.stream[n].block = [] ∧ t.sto.mem = s.sto.mem ∧
      t.sto.ring = s.sto.ring.set ring { s.sto.ring[ring] with
        drop := Nat.min (s.sto.ring[ring].drop + 1) 4294967295, overrun := true })

/-- MARK and REWIND (R252, R253) of an active ring: SET_MARK keeps RP as MARK, CLR_MARK drops it; REWIND takes the MARK of
its moment and waits for the end of the scheduler cycle, whose writes come first (that it always waits is the model's
reading, A57), and then takes RP back to it, or without a valid MARK, or where a write has overwritten it meanwhile, sets
REWIND_ERR; a SET_MARK after it in the cycle keeps the RP that it leaves; the store's bytes and the other rings stay. The
ring egress (R250, R264, R321): the block that a member of the ring has read leaves in one BLOCK frame to the ring's
destination and receive ring, with bytes 0 to 11 of its descriptor, 4 zero bytes and its 4,096 data bytes, marked POISON
where its CRC fails; RP moves on, and the store's bytes stay. -/
def Obligations.CaptureRings : Prop :=
  (∀ (ring : Fin 31) (s : State), regsUp s = true → ringActive s ring = true →
    (s.sto.ring[ring].rewindReq = false →
      exec (.setMark ring) s = .next { s with sto := { s.sto with ring := s.sto.ring.set ring { s.sto.ring[ring] with
        mark := s.sto.ring[ring].rp, markValid := true } } }) ∧
    (∀ m, s.sto.ring[ring].rewindReq = true → s.sto.ring[ring].rewindTo = some m →
      exec (.setMark ring) s = .next { s with sto := { s.sto with ring := s.sto.ring.set ring { s.sto.ring[ring] with
        mark := m, markValid := true } } }) ∧
    exec (.clrMark ring) s = .next { s with sto := { s.sto with ring := s.sto.ring.set ring { s.sto.ring[ring] with
      markValid := false } } } ∧
    (s.sto.ring[ring].rewindReq = false → s.sto.ring[ring].rewindTo = none →
      exec (.rewind ring) s = .next { s with sto := { s.sto with ring := s.sto.ring.set ring { s.sto.ring[ring] with
        rewindReq := true
        rewindTo := if s.sto.ring[ring].markValid then some s.sto.ring[ring].mark else none } } })) ∧
  (∀ (ring : Fin 31) (data desc : List Byte) (m : Nat) (s : State), ringActive s ring = true → ringBlocks s ring ≠ 0 →
    s.sto.ring[ring].wp - s.sto.ring[ring].rp < ringBlocks s ring → s.sto.ring[ring].rewindTo = some m →
    (writeBlock s ring data desc).sto.ring[ring].rewindTo =
      if ringBlocks s ring < s.sto.ring[ring].wp + 1 - m then none else some m) ∧
  (∀ s : State, ∃ t, exec .storeSchedCycle s = .next t ∧ t.sto.mem = s.sto.mem ∧ t.sto.stream = s.sto.stream ∧
    ∀ ring : Fin 31, t.sto.ring[ring] = (if s.sto.ring[ring].rewindReq = false then s.sto.ring[ring]
      else match s.sto.ring[ring].rewindTo with
        | some m => { s.sto.ring[ring] with rewindReq := false, rewindTo := none, rp := m }
        | none => { s.sto.ring[ring] with rewindReq := false, rewindErr := true })) ∧
  (∀ (ring : Fin 31) (s : State), onRing s = true → ringActive s ring = true →
    ringReader s.sto.ring[ring].cfg = 9 → s.sto.ring[ring].rp < s.sto.ring[ring].wp →
    ∃ t f, exec (.ringBlockReadDone ring) s = .next t ∧ t.out.ring = f :: s.out.ring ∧ f.type = 0x20 ∧
      f.dst = field s.sto.ring[ring].cfg 17 8 ∧ f.src = s.jx.id ∧ crcOk f = true ∧ f.arg = field s.sto.ring[ring].cfg 22 20 ∧
      f.payload = memReadN s.sto.mem (blockAddr s ring s.sto.ring[ring].rp).2 12 ++ List.replicate 4 0 ++
        memReadN s.sto.mem (blockAddr s ring s.sto.ring[ring].rp).1 4096 ∧
      (f.poison = true ↔ (readBlock s ring).2.2 = false) ∧
      t.sto = { s.sto with ring := s.sto.ring.set ring { s.sto.ring[ring] with rp := s.sto.ring[ring].rp + 1 } } ∧
      t.jx.seqNo = (s.jx.seqNo + 1) % 4294967296 ∧ t.ch = s.ch ∧ t.sq = s.sq)

/-- Enabling and flushing a queue (R255, R262): EN is cleared at once and set where the ledger admits it; a FLUSH
outside a packet empties the queue, returns its credits and sets FLUSH_DONE, inside one it waits; the flush that
waits is done after 1 ms; that discarded credits cross back like read ones is the model's reading (A18). Of the
rest only the watermark pins may change. -/
def Obligations.QueueEnableAndFlush : Prop :=
  (∀ (q : Fin 32) (s : State), regsUp s = true →
    exec (.queueEn q false) s = .next { s with sq := s.sq.set q { s.sq[q] with en := false, aligned := false } }) ∧
  (∀ (q : Fin 32) (s : State), regsUp s = true → (admitQueue s q).1 = true → s.sq[q].en = false →
    ∃ t, exec (.queueEn q true) s = .next t ∧ t.sq = s.sq.set q { s.sq[q] with en := true } ∧ t.ch = s.ch ∧
      t.sto = s.sto ∧ t.flt = s.flt) ∧
  (∀ (q : Fin 32) (s : State), regsUp s = true → s.sq[q].pktOpen = false → s.sq[q].dropping = false →
    ∃ wm, exec (.flush q) s = .next { s with
      pins := { s.pins with sqWm := wm }
      sq := s.sq.set q { s.sq[q] with items := [], visible := 0, returning := 8192 - s.sq[q].credit
                                      flushPend := false, flushDone := true, pktLen := 0 } }) ∧
  (∀ (q : Fin 32) (s : State), regsUp s = true → s.sq[q].pktOpen = true ∨ s.sq[q].dropping = true →
    ∃ wm, exec (.flush q) s = .next { s with
      pins := { s.pins with sqWm := wm }, sq := s.sq.set q { s.sq[q] with flushPend := true } }) ∧
  (∀ (q : Fin 32) (s : State), s.sq[q].flushPend = true →
    ∃ wm, exec (.queueFlushTimeout q) s = .next { s with
      pins := { s.pins with sqWm := wm }
      sq := s.sq.set q { s.sq[q] with items := [], visible := 0, returning := 8192 - s.sq[q].credit
                                      flushPend := false, flushDone := true, pktOpen := false, pktLen := 0 } })

/-- A producer's write (R254, R256, R257, R259): an item that fits the framing takes one credit and stands last,
VALID set; a host's write of SQn_WR_HI is such a write with the staged low word and tag. -/
def Obligations.QueueWrites : Prop :=
  (∀ (q : Fin 32) (i : QItem) (s : State), s.sq[q].en = true → s.sq[q].dropping = false → 0 < s.sq[q].credit →
    qProd s.sq[q].cfg ≠ 8 → i.sop = !s.sq[q].pktOpen → s.sq[q].flushPend = false →
    ∃ wm, exec (.queueItemWrite q i) s = .next { s with
      pins := { s.pins with sqWm := wm }
      sq := s.sq.set q { s.sq[q] with
        items := s.sq[q].items ++ [{ i with tag := i.tag ||| 1 }], credit := s.sq[q].credit - 1, pktOpen := !i.eop
        pktLen := if i.eop then 0 else if i.sop then 1 else s.sq[q].pktLen + 1 } }) ∧
  (∀ (m : Master) (q : Fin 32) (v : Word) (s : State), regsUp s = true → masterUp s m = true →
    qProd s.sq[q].cfg = 0 →
    exec (.sqWrHiWrite m q v) s = exec (.queueItemWrite q
      ⟨joinHalves v ((heldOf s.bus.stages m.id (sqWrAddr q)).getD 0),
        ((heldOf s.bus.stages m.id (sqWrAddr q + 8)).getD 0).setWidth 8⟩) s)

/-- QUEUE_CREDIT (R256, R258, R262): an item that reaches a queue with no credit is discarded, and the fault is sent with the
queue's number from a source that starts at the level of the binding scope; the rest of its packet is discarded
on arrival, up to its EOP, where a flush that waits empties the queue, or up to an SOP, which breaks framing and
begins a packet: that the SOP ends the discarded packet and is kept, and that the flush is done at the discarded EOP, are
the model's inferences from R256 and R262 (A19). -/
def Obligations.QueueOverrun : Prop :=
  (∀ (q : Fin 32) (i : QItem) (s : State), s.sq[q].en = true → s.sq[q].dropping = false → s.sq[q].credit = 0 →
    portDelivers s.sq[q] i = true →
    ∃ t d, exec (.queueItemWrite q i) s = .next t ∧
      t.flt.inbox = s.flt.inbox ++ [⟨⟨0x19, queueSource s.sq[q].cfg, d⟩, s.tb.now⟩] ∧ d % 4294967296 = q.val ∧
      startLevel (queueSource s.sq[q].cfg) = (if qScope s.sq[q].cfg = 0 then 1 else if qScope s.sq[q].cfg = 1 then 2
        else if qScope s.sq[q].cfg = 2 then 3 else 5) ∧
      t.sq[q].dropping = !i.eop ∧
      t.sq[q].items = (if i.eop = true ∧ s.sq[q].flushPend = true then [] else s.sq[q].items) ∧
      (∀ n : Fin 32, n ≠ q → t.sq[n] = s.sq[n]) ∧ t.ch = s.ch ∧ t.mod = s.mod ∧ t.sto = s.sto) ∧
  (∀ (q : Fin 32) (i : QItem) (s : State), s.sq[q].en = true → s.sq[q].dropping = true → i.sop = true →
    portDelivers s.sq[q] i = true → 0 < s.sq[q].credit → s.sq[q].pktOpen = false → s.sq[q].flushPend = false →
    ∃ t d, exec (.queueItemWrite q i) s = .next t ∧
      t.flt.inbox = s.flt.inbox ++ [⟨⟨0x4A, queueSource s.sq[q].cfg, d⟩, s.tb.now⟩] ∧
      t.sq[q].dropping = false ∧ t.sq[q].frameErr = true ∧ t.sq[q].items = s.sq[q].items ++ [i.held] ∧
      t.sq[q].credit = s.sq[q].credit - 1 ∧
      (∀ n : Fin 32, n ≠ q → t.sq[n] = s.sq[n]) ∧ t.ch = s.ch ∧ t.mod = s.mod ∧ t.sto = s.sto) ∧
  (∀ (q : Fin 32) (i : QItem) (s : State), s.sq[q].en = true → s.sq[q].dropping = true → i.sop = false →
    portDelivers s.sq[q] i = true →
    ∃ t, exec (.queueItemWrite q i) s = .next t ∧ t.flt = s.flt ∧ t.sq[q].dropping = !i.eop ∧
      t.sq[q].items = (if i.eop = true ∧ s.sq[q].flushPend = true then [] else s.sq[q].items) ∧
      (∀ n : Fin 32, n ≠ q → t.sq[n] = s.sq[n]) ∧ t.ch = s.ch ∧ t.mod = s.mod ∧ t.sto = s.sto)

/-- A consumer's read (R259, R260, R419): the first visible item leaves, its credit on its way back, to the stream
port, data bit 16u + k and tag bit k on lane k, or, low word first and the rest latched, to the reader of SQn_RD_LO; the pointers' crossings show every
item written and every credit returned so far. -/
def Obligations.QueueReads : Prop :=
  (∀ (q : Fin 32) (i : QItem) (l : List QItem) (s : State), s.sq[q].en = true → 0 < s.sq[q].visible →
    s.sq[q].items = i :: l → qCons s.sq[q].cfg = 8 →
    ∃ wm, exec (.queueItemRead q) s = .next { s with
      pins := { s.pins with sqWm := wm }
      sq := s.sq.set q { s.sq[q] with
        items := l, visible := s.sq[q].visible - 1, returning := s.sq[q].returning + 1 }
      out := { s.out with stream := .data (Vector.ofFn fun u : Fin 5 =>
        if u.val < 4 then i.data.extractLsb' (16 * u.val) 16 else i.tag.setWidth 16) :: s.out.stream } }) ∧
  (∀ (m : Master) (q : Fin 32) (i : QItem) (l : List QItem) (s : State), regsUp s = true →
    masterUp s m = true → s.sq[q].en = true → 0 < s.sq[q].visible → s.sq[q].items = i :: l →
    qCons s.sq[q].cfg = 0 →
    ∃ wm latches, exec (.sqRdLoRead m q) s = .next { s with
      pins := { s.pins with sqWm := wm }
      sq := s.sq.set q { s.sq[q] with
        items := l, visible := s.sq[q].visible - 1, returning := s.sq[q].returning + 1 }
      bus := { s.bus with read := loHalf i.data, sqLatches := latches } } ∧
      heldOf latches m.id q.val = some (hiHalf i.data, i.tag)) ∧
  (∀ (q : Fin 32) (s : State), exec (.queueItemVisible q) s = .next { s with
    sq := s.sq.set q { s.sq[q] with visible := s.sq[q].items.length } }) ∧
  (∀ (q : Fin 32) (s : State), exec (.queueCreditVisible q) s = .next { s with
    sq := s.sq.set q { s.sq[q] with credit := s.sq[q].credit + s.sq[q].returning, returning := 0 } }) ∧
  (∀ s : State, exec .streamPortAligned s = .next { s with
    sq := s.sq.map fun q => if q.en && qProd q.cfg == 8 then { q with aligned := true } else q })

/-- DMA control (R330, R333, R334, R373): EN off at once, on where the ledger admits the engine's rate; a write of TAIL
inside the ring is taken, one outside sets CFG_REJ. ABORT turns the engine off and completes the descriptor in progress as
ABORTED with the bytes moved so far and, by its flag, its MSI-X message: one that waits in the engine at once, the one at
HEAD with its DMA_DESCRIPTOR_DONE, which brings its flags (the model's reading, A20). A descriptor that could not be read
ends with HOST_ERR and halts the engine. HOST_TO_STORE (R172, R238, R240, R331 to R333): the host's bytes lie at MADDR
afterwards and no other byte of the store changes; STATUS OK and DONE_LEN go to the descriptor, HEAD moves on. A span the
host may not write leaves every byte alone, with STORE_PERM and its address kept. STORE_TO_HOST (R238, R331, R332): the
span's bytes are written to host memory at HADDR before the status, and the store stays as it is. -/
def Obligations.DmaEngines : Prop :=
  (∀ (e : Fin 8) (s : State), regsUp s = true →
    exec (.dmaEn e false) s = .next { s with dma := s.dma.set e { s.dma[e] with en := false } }) ∧
  (∀ (e : Fin 8) (s : State), regsUp s = true → s.dma[e].en = false → dmaRate s.dma[e] = 0 →
    exec (.dmaEn e true) s = .next { s with dma := s.dma.set e { s.dma[e] with stopped := false, en := true } }) ∧
  (∀ (e : Fin 8) (v : Word) (s : State), regsUp s = true → field v 15 0 < s.dma[e].len.toNat →
    exec (.dmaTailWrite e v) s = .next { s with dma := s.dma.set e { s.dma[e] with tail := field v 15 0 } }) ∧
  (∀ (e : Fin 8) (v : Word) (s : State), regsUp s = true → s.dma[e].len.toNat ≤ field v 15 0 →
    exec (.dmaTailWrite e v) s = .next { s with dma := s.dma.set e { s.dma[e] with cfgRej := true } }) ∧
  (∀ (e : Fin 8) (s : State), regsUp s = true → dmaRuns s e = false →
    exec (.abort e) s = .next { s with dma := s.dma.set e { s.dma[e] with en := false } }) ∧
  (∀ (e : Fin 8) (k : Nat) (d : Desc) (s : State), dmaRuns s e = true → s.dma[e].cur = some (k, d) →
    ∃ t, exec (.abort e) s = .next t ∧
      t.dma = s.dma.set e { s.dma[e] with
        head := if s.dma[e].head = k then (k + 1) % Nat.max s.dma[e].len.toNat 1 else s.dma[e].head
        moved := 0, cur := none, aborting := false, en := false } ∧
      t.out.host = (s.dma[e].base.toNat + 32 * k + 24, toBytes 4 11 ++ toBytes 4 s.dma[e].moved) :: s.out.host ∧
      t.out.msix = (if d.flags % 2 = 1 then e.val :: s.out.msix else s.out.msix) ∧
      t.sto = s.sto ∧ t.sq = s.sq ∧ t.ch = s.ch) ∧
  (∀ (e : Fin 8) (s : State), dmaRuns s e = true → s.dma[e].cur = none →
    exec (.abort e) s = .next { s with dma := s.dma.set e { s.dma[e] with aborting := true, en := false } }) ∧
  (∀ (e : Fin 8) (d : Desc) (bytes : List Byte) (reads : DmaRead) (s : State), dmaRuns s e = true →
    s.dma[e].cur = none → s.dma[e].aborting = true → reads ≠ .descError →
    ∃ t n, exec (.dmaDescriptorDone e d bytes reads) s = .next t ∧ t.dma[e].aborting = false ∧
      t.dma[e].en = s.dma[e].en ∧ t.dma[e].head = (s.dma[e].head + 1) % Nat.max s.dma[e].len.toNat 1 ∧ n ≤ bytes.length ∧
      (d.op ≠ 0 → n = 0) ∧ t.out.host = (s.dma[e].base.toNat + 32 * s.dma[e].head + 24,
        toBytes 4 11 ++ toBytes 4 n) :: s.out.host ∧
      t.out.msix = (if d.flags % 2 = 1 then e.val :: s.out.msix else s.out.msix) ∧ t.sq = s.sq ∧ t.ch = s.ch) ∧
  (∀ (e : Fin 8) (d : Desc) (bytes : List Byte) (s : State), dmaRuns s e = true → s.dma[e].cur = none →
    ∃ t, exec (.dmaDescriptorDone e d bytes .descError) s = .next t ∧ t.dma[e].halted = true ∧ t.dma[e].en = false ∧
      t.out.host = (s.dma[e].base.toNat + 32 * s.dma[e].head + 24, toBytes 4 7 ++ toBytes 4 0) :: s.out.host ∧
      t.sto = s.sto ∧ t.sq = s.sq ∧ t.ch = s.ch) ∧
  (∀ (e : Fin 8) (d : Desc) (bytes : List Byte) (s : State), dmaRuns s e = true → s.dma[e].cur = none →
    s.dma[e].aborting = false → descOk d = true → d.op = 0 → spanAllowed (dmaMayWrite s) s 32 d.maddr d.len = true →
    spanProtected s d.maddr d.len = false → bytes.length = d.len → storeCanonical s →
    ∃ t, exec (.dmaDescriptorDone e d bytes .ok) s = .next t ∧
      memReadN t.sto.mem d.maddr d.len = bytes ∧
      (∀ a : Nat, a < d.maddr ∨ d.maddr + d.len ≤ a → memRead t.sto.mem a = memRead s.sto.mem a) ∧
      t.dma[e].head = (s.dma[e].head + 1) % Nat.max s.dma[e].len.toNat 1 ∧
      t.out.host = (s.dma[e].base.toNat + 32 * s.dma[e].head + 24, toBytes 4 1 ++ toBytes 4 d.len) :: s.out.host ∧
      t.ch = s.ch ∧ t.sq = s.sq ∧ t.mod = s.mod ∧ t.flt = s.flt) ∧
  (∀ (e : Fin 8) (d : Desc) (bytes : List Byte) (reads : DmaRead) (s : State), dmaRuns s e = true →
    s.dma[e].cur = none → s.dma[e].aborting = false → reads ≠ .descError → descOk d = true → d.op = 0 →
    spanAllowed (dmaMayWrite s) s 32 d.maddr d.len = false →
    ∃ t, exec (.dmaDescriptorDone e d bytes reads) s = .next t ∧ t.sto.mem = s.sto.mem ∧ t.sto.perm = true ∧
      t.sto.permAddr = d.maddr ∧
      t.out.host = (s.dma[e].base.toNat + 32 * s.dma[e].head + 24, toBytes 4 3 ++ toBytes 4 0) :: s.out.host) ∧
  (∀ (e : Fin 8) (d : Desc) (bytes : List Byte) (reads : DmaRead) (s : State), dmaRuns s e = true →
    s.dma[e].cur = none → s.dma[e].aborting = false → reads ≠ .descError → descOk d = true → d.op = 1 →
    spanAllowed dmaMayRead s 32 d.maddr d.len = true →
    ∃ t, exec (.dmaDescriptorDone e d bytes reads) s = .next t ∧ t.sto = s.sto ∧
      t.out.host = (s.dma[e].base.toNat + 32 * s.dma[e].head + 24, toBytes 4 1 ++ toBytes 4 d.len) ::
        (d.haddr, memReadN s.sto.mem d.maddr d.len) :: s.out.host ∧
      t.dma[e].head = (s.dma[e].head + 1) % Nat.max s.dma[e].len.toNat 1 ∧ t.ch = s.ch ∧ t.sq = s.sq)

/-- Mailboxes (R336 to R338, R349): a sender's write to an empty mailbox fills it and shows FULL to the sender alone, to a
full one sets OVERWRITE_REJ and keeps the message; a receiver's read of a full one takes the message and empties
it, of an empty one returns 0 and changes nothing else; a write and a read that meet have the result of either
order, and no message is lost without OVERWRITE_REJ. The change of FULL becomes visible at both ends later. The host's
write to an SC channel without a session sets BAR2_DENY alone. -/
def Obligations.Mailboxes : Prop :=
  (∀ (ch : Fin 20) (h2c : Bool) (v : Word) (s : State), (if h2c then mbxHost s ch else mbxCore s ch) = true →
    exec (.mbxDataWrite ch h2c v) s = .next (updMbx s ch h2c fun m =>
      if m.full then { m with overwriteRej := true } else { m with data := v, full := true, fullSender := true })) ∧
  (∀ (ch : Fin 20) (h2c : Bool) (s : State), (if h2c then mbxCore s ch else mbxHost s ch) = true →
    (getMbx s ch h2c).full = true →
    ∃ t, exec (.mbxDataRead ch h2c) s = .next t ∧ t.bus = { s.bus with read := (getMbx s ch h2c).data } ∧
      getMbx t ch h2c = { getMbx s ch h2c with full := false, fullReceiver := false } ∧
      getMbx t ch (!h2c) = getMbx s ch (!h2c) ∧ (∀ n : Fin 20, n ≠ ch → t.mbx[n] = s.mbx[n]) ∧
      t.mod = s.mod ∧ t.ch = s.ch ∧ t.sto = s.sto) ∧
  (∀ (ch : Fin 20) (h2c : Bool) (s : State), (if h2c then mbxCore s ch else mbxHost s ch) = true →
    (getMbx s ch h2c).full = false →
    exec (.mbxDataRead ch h2c) s = .next { s with bus := { s.bus with read := 0 } }) ∧
  (∀ (ch : Fin 20) (h2c : Bool) (v : Word) (s t : State), mbxHost s ch = true → mbxCore s ch = true →
    (runs [.mbxDataWrite ch h2c v, .mbxDataRead ch h2c] s t →
      if (getMbx s ch h2c).full then t.bus.read = (getMbx s ch h2c).data ∧ (getMbx t ch h2c).overwriteRej = true
      else t.bus.read = v ∧ (getMbx t ch h2c).full = false) ∧
    (runs [.mbxDataRead ch h2c, .mbxDataWrite ch h2c v] s t →
      t.bus.read = (if (getMbx s ch h2c).full then (getMbx s ch h2c).data else 0) ∧
        (getMbx t ch h2c).full = true ∧ (getMbx t ch h2c).data = v)) ∧
  (∀ (ch : Fin 20) (h2c : Bool) (s : State), exec (.mbxFullVisible ch h2c) s = .next (updMbx s ch h2c fun m =>
    { m with fullSender := m.full, fullReceiver := m.full })) ∧
  (∀ (ch : Fin 4) (v : Word) (s : State), hostReach s = true → s.mod.mode ≠ .bypass → s.sec.auth = false →
    exec (.mbxDataWrite (scNo ch) true v) s = .next { s with sec := { s.sec with bar2Deny := true } })

/-- The firmware's answers (R340): the request that waits on the channel is taken from H2C, and C2H, empty before,
holds OP, TAG and the result: PING its ARG, FW_VERSION the half the ARG names, RESET_CAUSE the cause; an unknown
OP is answered with OP FFh and result 0. The secure core answers an unknown OP of an open session with BAD_OP (R350). -/
def Obligations.FirmwareAnswers : Prop :=
  (∀ (ch : Fin 4) (request : Word) (s : State), secUp s = true → hasRequest s (scNo ch) request = true →
    (getMbx s (scNo ch) false).full = false → reqOp request = 0 ∨ 7 < reqOp request →
    ∃ t, exec (.mbxUnknownOp (scNo ch) request) s = .next t ∧ (getMbx t (scNo ch) true).full = false ∧
      (getMbx t (scNo ch) false).full = true ∧
      (getMbx t (scNo ch) false).data = replyWord (reqOp request) (reqTag request) 1 ∧
      (∀ n : Fin 20, n ≠ scNo ch → t.mbx[n] = s.mbx[n]) ∧ t = { s with mbx := t.mbx }) ∧
  ∀ (ch : Fin 16) (request : Word) (s : State), regsUp s = true → hasRequest s (nsNo ch) request = true →
    (getMbx s (nsNo ch) false).full = false →
    ∀ (c : Instr) (op result : Nat),
      (c = .ping ch request ∧ reqOp request = 1 ∧ op = 1 ∧ result = reqArg request ∨
       c = .fwVersion ch request ∧ reqOp request = 2 ∧ reqArg request = 0 ∧ op = 2 ∧
         result = field s.mod.fw 31 16 ∨
       c = .fwVersion ch request ∧ reqOp request = 2 ∧ reqArg request = 1 ∧ op = 2 ∧ result = field s.mod.fw 15 0 ∨
       c = .resetCause ch request ∧ reqOp request = 3 ∧ op = 3 ∧ result = s.mod.resetCause ∨
       c = .mbxUnknownOp (nsNo ch) request ∧ (reqOp request = 0 ∨ 3 < reqOp request) ∧ op = 0xFF ∧ result = 0) →
      ∃ t, exec c s = .next t ∧ (getMbx t (nsNo ch) true).full = false ∧
        (getMbx t (nsNo ch) false).full = true ∧
        (getMbx t (nsNo ch) false).data = replyWord op (reqTag request) result ∧
        (∀ n : Fin 20, n ≠ nsNo ch → t.mbx[n] = s.mbx[n]) ∧ t = { s with mbx := t.mbx }

/-- Hardware locks (R341, R343): a read of LOCK_i, at 0x48000 + 4i, takes a free lock for the reader and returns
GRANTED with its id, and of a held one returns the owner's id, also to the owner; the owner's write of 0 frees
it, any other write is ignored; LOCK_OWNER_i, at 0x48100 + 4i, returns the owner's id, or 0, and takes nothing.
The ids are those of R341. -/
def Obligations.HardwareLocks : Prop :=
  (∀ (c : Instr) (m : Master) (l : Fin 64) (s : State), lockReach s m = true → s.lock[l] = 0 →
    c = .lockRead m l ∨ c = .loReadLatch m ⟨0x48000 + 4 * l.val, 0xF⟩ →
    exec c s = .next { s with
      lock := s.lock.set l m.id, bus := { s.bus with read := BitVec.ofNat 32 (2147483648 + m.id) } }) ∧
  (∀ (c : Instr) (m : Master) (l : Fin 64) (s : State), lockReach s m = true → s.lock[l] ≠ 0 →
    c = .lockRead m l ∨ c = .loReadLatch m ⟨0x48000 + 4 * l.val, 0xF⟩ →
    exec c s = .next { s with bus := { s.bus with read := BitVec.ofNat 32 s.lock[l] } }) ∧
  (∀ (c : Instr) (m : Master) (l : Fin 64) (v : Word) (s : State), lockReach s m = true →
    c = .lockRelease m l v ∨ c = .registerWrite m ⟨0x48000 + 4 * l.val, 0xF⟩ v →
    exec c s = .next (if v = 0 ∧ s.lock[l] = m.id then { s with lock := s.lock.set l 0 } else s)) ∧
  (∀ (m : Master) (l : Fin 64) (v : Word) (s : State), lockReach s m = true →
    exec (.loReadLatch m ⟨0x48100 + 4 * l.val, 0xF⟩) s = .next { s with
      bus := { s.bus with read := BitVec.ofNat 32 s.lock[l] } } ∧
    exec (.registerWrite m ⟨0x48100 + 4 * l.val, 0xF⟩ v) s = .next s) ∧
  Master.host.id = 1 ∧ Master.appCore.id = 2 ∧ Master.secCore.id = 3 ∧ Master.seq0.id = 4 ∧ Master.seq1.id = 5 ∧
  Master.seq2.id = 6 ∧ Master.seq3.id = 7 ∧ Master.ringAgent.id = 8

/-- Authentication (R348): START ends a session, draws a nonce, a free value, and dates it; VERIFY makes the core
busy and drops a nonce of more than 10 s; without a nonce the verification fails, counts, and locks START out at
every fourth failure (the model's reading, A34); the lockout ends unless sixteen have failed. The end of a
verification with a live nonce (R348): where the bound key verifies the signature, the session is open with the key that
HKDF-SHA-384 derives from the ECDH secret, a free value, with the nonce as salt, and the failures are forgotten; where it
does not, a failure counts; the bound key stays. -/
def Obligations.AuthenticatedSessions : Prop :=
  (∀ s : State, secUp s = true → s.sec.lockout = false → s.sec.lockedOut = false → s.sec.busy = false →
    ∃ t, exec .secAuthStart s = .next t ∧ t.sec.auth = false ∧ t.sec.nonceAt = some s.tb.now ∧
      t.sec.fails = s.sec.fails ∧ t.sec.imgKey = s.sec.imgKey ∧ t.mod = s.mod ∧ t.ch = s.ch) ∧
  (∀ s : State, secUp s = true → s.sec.lockout = true ∨ s.sec.lockedOut = true →
    exec .secAuthStart s = .next s) ∧
  (∀ (from_ : Nat) (s : State), secUp s = true → s.sec.busy = false → s.sec.nonceAt = some from_ →
    exec .verify s = .next { s with sec := { s.sec with
      busy := true, nonceAt := if s.tb.now < from_ + 8000000000 then some from_ else none } }) ∧
  (∀ s : State, s.sec.busy = true → s.sec.nonceAt = none →
    ∃ t, exec .secVerifyDone s = .next t ∧ t.sec.busy = false ∧ t.sec.auth = s.sec.auth ∧
      t.sec.fails = Nat.min (s.sec.fails + 1) 16 ∧ t.sec.hostKey = s.sec.hostKey ∧
      (s.sec.fails + 1 < 16 → (t.sec.lockout = true ↔ s.sec.lockout = true ∨ (s.sec.fails + 1) % 4 = 0)) ∧
      (s.sec.fails + 1 = 16 → t.sec.lockedOut = true)) ∧
  (∀ s : State, s.sec.lockedOut = false →
    exec .authLockoutEnd s = .next { s with sec := { s.sec with lockout := false } }) ∧
  (∀ (key : BitVec 768) (s : State), s.sec.busy = true → s.sec.nonceAt.isSome = true → s.sec.hostKey = some key →
    ∃ t, exec .secVerifyDone s = .next t ∧ t.sec.busy = false ∧ t.sec.nonceAt = none ∧ t.sec.hostKey = some key ∧
      t.sec.imgKey = s.sec.imgKey ∧ t.mod = s.mod ∧ t.ch = s.ch ∧
      (if Config.ecdsaVerify key (authDigest s (authBytes s.sec 0 96))
          (BitVec.ofNat 768 (ofBytesBE (authBytes s.sec 96 96))) = true
        then t.sec.auth = true ∧ t.sec.fails = 0 ∧ t.sec.session = some (sessionKey (Config.ecdhSecret s.freshCount
          (BitVec.ofNat 768 (ofBytesBE (authBytes s.sec 0 96)))) s.sec.nonce)
        else t.sec.auth = s.sec.auth ∧ t.sec.fails = Nat.min (s.sec.fails + 1) 16 ∧ t.sec.session = s.sec.session))

/-- The secure core's requests in a session (R350): a provisioning request of the wrong length is answered LENGTH,
one of the right length installs its key (the host key from the next BOOT) where it opens under the session key, the
image and the host key in a new provisioning record in force;
ATTEST of 48 bytes leaves the report and its signature in the buffer; SET_DBG_POLICY never lowers the policy, and commits
it (that a policy above 2 is answered NOT_ALLOWED is the model's reading, A35);
SESSION_CLOSE ends the session. -/
def Obligations.SecureRequests : Prop :=
  ∀ (ch : Fin 4) (request : Word) (s : State), secUp s = true → hasRequest s (scNo ch) request = true →
    (getMbx s (scNo ch) false).full = false → (∀ x, provActive s.sec = some x → x.seq < 4294967296) →
    (∀ (c : Instr) (op n : Nat), (c = .provImgKey ch request ∧ op = 1 ∧ n = 96 ∨
        c = .provDecKey ch request ∧ op = 2 ∧ n = 32 ∨ c = .provHostKey ch request ∧ op = 3 ∧ n = 96) →
      reqOp request = op →
      (reqArg request ≠ n + 28 → ∃ t, exec c s = .next t ∧ t.sec = s.sec ∧
        (getMbx t (scNo ch) false).data = replyWord op (reqTag request) 4) ∧
      (reqArg request = n + 28 → ∃ t, exec c s = .next t ∧ t.mod = s.mod ∧ t.ch = s.ch ∧
        match openSealed s request n with
        | .ok bs => (getMbx t (scNo ch) false).data = replyWord op (reqTag request) 0 ∧
          (op = 1 → t.sec.imgKey = some (BitVec.ofNat 768 (ofBytesBE bs)) ∧ t.sec.hostKey = s.sec.hostKey ∧
            ∃ x, provActive t.sec = some x ∧ x.imgKey = some (BitVec.ofNat 768 (ofBytesBE bs)) ∧
              ∀ y, provActive s.sec = some y → x.hostKey = y.hostKey ∧ x.policy = y.policy) ∧
          (op = 2 → t.sec = { s.sec with
            decKey := some (BitVec.ofNat 256 (ofBytesBE bs)), ksGen := (s.sec.ksGen + 1) % 65536 }) ∧
          (op = 3 → t.sec.hostKey = s.sec.hostKey ∧ t.sec.imgKey = s.sec.imgKey ∧
            ∃ x, provActive t.sec = some x ∧ x.hostKey = some (BitVec.ofNat 768 (ofBytesBE bs)) ∧
              ∀ y, provActive s.sec = some y → x.imgKey = y.imgKey ∧ x.policy = y.policy)
        | .error e => t.sec = s.sec ∧ (getMbx t (scNo ch) false).data = replyWord op (reqTag request) e.code)) ∧
    (reqOp request = 4 → reqArg request = 48 → ∃ t, exec (.attest ch request) s = .next t ∧
      (getMbx t (scNo ch) false).data = replyWord 4 (reqTag request) 0 ∧
      t.sec = putWindow s.sec (reportBody s (windowBytes s.sec 0 48) ++ bytes768 (Config.attestSign s.sec.attGen
        (Config.sha384 (reportBody s (windowBytes s.sec 0 48)))))) ∧
    (reqOp request = 5 → ∃ t, exec (.setDbgPolicy ch request) s = .next t ∧
      (s.sec.policy ≤ reqArg request ∧ reqArg request ≤ 2 → t.sec.policy = reqArg request ∧
        t.sec.imgKey = s.sec.imgKey ∧ t.sec.hostKey = s.sec.hostKey ∧ t.sec.decKey = s.sec.decKey ∧
        (∃ x, provActive t.sec = some x ∧ x.policy = reqArg request) ∧
        (getMbx t (scNo ch) false).data = replyWord 5 (reqTag request) 0) ∧
      (reqArg request < s.sec.policy ∨ 2 < reqArg request → t.sec = s.sec ∧
        (getMbx t (scNo ch) false).data = replyWord 5 (reqTag request) 3)) ∧
    (reqOp request = 7 → ∃ t, exec (.sessionClose ch request) s = .next t ∧ t.sec.auth = false ∧
      t.sec.session = none ∧ t.sec.imgKey = s.sec.imgKey)

/-- Debug opening and the TAP (R351 to R353): where the policy allows the TAP, or the authenticated session that
asks, and the erasure succeeds, the module is in OPEN with its decryption key erased, the session ended and
every channel SAFED with its output open; where it does not, the TAP's request sends SECURE_VIOLATION and the
session's is answered NOT_ALLOWED, and nothing else changes: in BOOT the violation carries BOOT_ERR from the loader.
SAMPLE captures the lands' levels; outside OPEN the debug instructions and EXTEST act
as BYPASS, whose register captures 0, and IDCODE captures version 1 and part number 9128h. -/
def Obligations.DebugOpening : Prop :=
  (∀ (x : OpenReport) (s : State), s.mod.mode ≠ .opened → s.sec.policy = 0 → x.eraseOk = true →
    ∃ t, exec (.dbgOpen none x) s = .next t ∧ t.mod.mode = .opened ∧ t.sec.decKey = none ∧
      t.sec.session = none ∧ t.sec.auth = false ∧ t.jx.bypassed = true ∧
      (∀ c : Fin 128, t.ch[c].state = .safed ∧ t.ch[c].isHiz)) ∧
  (∀ (x : OpenReport) (s : State), s.mod.mode ≠ .opened → s.sec.policy ≠ 0 →
    exec (.dbgOpen none x) s = .next { s with flt := { s.flt with inbox := s.flt.inbox ++
      [⟨if s.mod.mode = .boot then ⟨0x1A, 0x407, s.boot.err⟩ else ⟨0x1A, 0x406, 0x23⟩, s.tb.now⟩] } }) ∧
  (∀ (ch : Fin 4) (request : Word) (x : OpenReport) (s : State), s.mod.mode ≠ .opened →
    scRequest s ch request 6 = true →
    (s.sec.policy ≤ 1 → x.eraseOk = true → ∃ t, exec (.dbgOpen (some (ch, request)) x) s = .next t ∧ t.mod.mode = .opened ∧
      t.sec.decKey = none ∧ t.sec.session = none ∧ ∀ c : Fin 128, t.ch[c].state = .safed ∧ t.ch[c].isHiz) ∧
    (1 < s.sec.policy → (getMbx s (scNo ch) false).full = false →
      ∃ t, exec (.dbgOpen (some (ch, request)) x) s = .next t ∧ t.mod = s.mod ∧ t.sec = s.sec ∧ t.ch = s.ch ∧
        (getMbx t (scNo ch) false).data = replyWord 6 (reqTag request) 3)) ∧
  (∀ (ir : TapIr) (s : State), s.mod.mode = .opened ∨ ir = .idcode ∨ ir = .bypass ∨ ir = .sample →
    exec (.tapInstruction ir) s = .next { s with pins := { s.pins with
      tap := ir, tapData := tapCapture ir, scan := if ir = .sample then landLevels s else s.pins.scan } }) ∧
  (∀ (ir : TapIr) (s : State), s.mod.mode ≠ .opened → ir = .extest ∨ ir = .debugCore ∨ ir = .debugFabric →
    exec (.tapInstruction ir) s = .next { s with pins := { s.pins with tap := .bypass, tapData := some 0 } }) ∧
  (∀ s : State, ∃ w, exec (.tapInstruction .idcode) s = .next { s with pins := { s.pins with
      tap := .idcode, tapData := some w } } ∧ field w 31 28 = 1 ∧ field w 27 12 = 0x9128 ∧ field w 0 0 = 1)

/-- Joining and leaving (R309, R319, R323): JOIN waits for the trained port and then opens the by-pass, no sooner
than 100 ms after it closed; the links' training is noted, and sent as LINK_RETRAIN where they had trained before; LEAVE
closes it, the port in LOCAL again and the ring agent's locks free where it
was FORMED; HOLD_ALL takes the hold event itself at now + SEQ_RINGLEAD and sends it twice. Breaks of the ring
(R298, R305, R311, R315): a loss of frames or of lock takes FORMED to BROKEN with the by-pass open, RING_LOSS
sent for the timeout; 100 µs without TIME ends ALIGNED; JX_CRC_LIM failures within 1 ms send RING_CRC once and
begin a new count. That the master then owes an enumeration is the model's reading (A23). -/
def Obligations.RingMembershipAndBreaks : Prop :=
  (∀ s : State, s.mod.mode.operating = true → jxEn s = true → s.jx.bypassed = true → s.jx.localOk = false →
    exec .join s = .next { s with jx := { s.jx with joinReq := true } }) ∧
  (∀ (c : Instr) (s : State), s.mod.mode.operating = true → jxEn s = true → s.jx.bypassed = true →
    (∀ t, s.jx.closedAt = some t → t + 80000000 ≤ s.tb.now) →
    c = .join ∧ s.jx.localOk = true ∨ c = .ringLocalTrained true ∧ s.jx.localOk = false ∧ jxJoinCmd s = false →
    ∃ t, exec c s = .next t ∧ t.jx.bypassed = false ∧ t.jx.state = 2 ∧
      t.jx.id = (if jxMaster s then 0 else 1023) ∧ t.jx.bypCount = s.jx.bypCount + 1 ∧ t = { s with jx := t.jx }) ∧
  (∀ s : State, receives s = true → ∃ inbox, exec .ringLinkTrained s = .next { s with
      jx := { s.jx with linkOk := true, linked := true }, flt := { s.flt with inbox := inbox } } ∧
    inbox = if s.jx.linked then s.flt.inbox ++ [⟨⟨0x4E, 0x404, 0⟩, s.tb.now⟩] else s.flt.inbox) ∧
  (∀ s : State, regsUp s = true → s.jx.bypassed = false →
    ∃ t, exec .leave s = .next t ∧ t.jx.bypassed = true ∧ t.jx.state = (if jxEn s then 1 else 0) ∧ t.jx.id = 1023 ∧
      t.jx.closedAt = some s.tb.now ∧ t.jx.bypCount = s.jx.bypCount + 1 ∧
      (∀ l : Fin 64, t.lock[l] = if s.jx.state = 3 ∧ s.lock[l] = 8 then 0 else s.lock[l]) ∧
      t = { s with jx := t.jx, lock := t.lock }) ∧
  (∀ s : State, regsUp s = true → onRing s = true →
    ∃ t f, exec .holdAll s = .next t ∧ knownEvent t ⟨0, s.tb.now + s.seq.ringLead.toNat, true⟩ = true ∧
      (knownEvent s ⟨0, s.tb.now + s.seq.ringLead.toNat, true⟩ = false → t.seq.events = s.seq.events ++
        [(⟨0, s.tb.now + s.seq.ringLead.toNat, true⟩, s.tb.now + s.seq.ringLead.toNat)]) ∧
      t.out.ring = f :: f :: s.out.ring ∧ f.type = 0x10 ∧ f.dst = 1023 ∧ f.src = s.jx.id ∧ crcOk f = true ∧
      f.payload = toBytes 8 (s.tb.now + s.seq.ringLead.toNat) ++ toBytes 8 256 ∧ t.ch = s.ch ∧ t.mod = s.mod) ∧
  (∀ (noLock : Bool) (s : State), receives s = true → s.jx.state = 3 → jxAutonomous s = false →
    isPresent s 0x15 0x404 = false →
    ∃ t, exec (.ringLossTimeout noLock) s = .next t ∧ t.jx.state = 4 ∧ t.jx.bypassed = false ∧ t.jx.id = s.jx.id ∧
      t.flt.inbox = s.flt.inbox ++ [⟨⟨0x15, 0x404, (if noLock then 2 else 3) + s.jx.upstream * 16⟩, s.tb.now⟩] ∧
      (∀ l : Fin 64, t.lock[l] = if s.lock[l] = 8 then 0 else s.lock[l]) ∧ t.ch = s.ch ∧ t.mod = s.mod) ∧
  (∀ s : State, receives s = true → s.jx.state = 3 →
    ∃ t, exec .ringLockLost s = .next t ∧ t.jx.state = 4 ∧ t.jx.linkOk = false ∧ t.jx.bypassed = false ∧
      t.flt = s.flt ∧ t.ch = s.ch) ∧
  (∀ s : State, exec .alignedTimeout s = .next { s with
    jx := { s.jx with aligned := false, goodTimes := 0, enumPass := 0 } }) ∧
  (∀ s : State, (s.jx.crcTimes.filter fun t => s.tb.now ≤ t + 800000).length < s.jx.crcLim.toNat →
    exec .ringCrc s = .next s) ∧
  (∀ s : State, s.jx.crcLim.toNat ≤ (s.jx.crcTimes.filter fun t => s.tb.now ≤ t + 800000).length →
    exec .ringCrc s = .next { s with
      jx := { s.jx with crcTimes := [] }
      flt := { s.flt with inbox := s.flt.inbox ++ [⟨⟨0x14, 0x404, s.jx.lastBad⟩, s.tb.now⟩] } })

/-- Time on the ring (R297, R303, R306, R312 to R315): JX_TIME_PER after its last frame the master sends LTOT, WTOT and
the tick at which the frame begins on JX_OUT, which is the tick of its sending where JX_OUT is idle; a
member adds its residence and its link weight to the frame it sends on and keeps its estimate's distance from its own
count as JX_TIME_ERR; its first TIME frame steps the count to the estimate where nothing runs, a later one leaves it,
and in the autonomous configuration the count stays; the lifetime in seconds does not follow the step (R358). That JX_TIME_ERR is the estimate minus the count, that a step rounds
to the nearest tick and that a later frame leaves the count are the model's readings (A24). What the model does for
WTOT = 0, which no rule states, is not said here. -/
def Obligations.RingTime : Prop :=
  (∀ (tick begins : Nat) (u s : State), receives s = true → jxMaster s = true → s.jx.overbooked = false →
    s.jx.timeSent = none ∧ s.tb.now ≤ nextBoundary s ∧ tick = s.tb.now ∨
      (∃ last, s.jx.timeSent = some last ∧ last + s.jx.timePer.toNat ≤ nextBoundary s ∧
        tick = Nat.max s.tb.now (last + s.jx.timePer.toNat)) →
    u = tickLine { s with tb := { s.tb with now := tick } } →
    begins = urgentStart (125 * tick) (lineTo (125 * tick) u.jx.line) / 125 →
    ∃ t f, exec .jxTimeSend s = .next t ∧ t.tb.now = tick ∧ t.out.ring = f :: s.out.ring ∧ f.type = 0x12 ∧
      f.dst = 1023 ∧ f.hops = 0 ∧ crcOk f = true ∧ f.payload = timePayload begins 0 s.jx.ltot 0 s.jx.wtot ∧
      (s.jx.line.cur = none → s.jx.line.urgent = [] → s.jx.line.transit = [] → s.jx.line.reserved = [] →
        s.jx.line.unreserved = [] → s.jx.line.clock ≤ 125 * tick → begins = tick) ∧
      t.jx.seqNo = (s.jx.seqNo + 1) % 4294967296 ∧ t.jx.timeSent = some tick ∧
      t.jx.roundTrip = (0x12, s.jx.seqNo) :: s.jx.roundTrip ∧ t = { s with tb := t.tb, out := t.out, jx := t.jx }) ∧
  (∀ (f : Frame) (residence : Nat) (est : Rat) (s : State), arrives s f 0x12 → jxMaster s = false → f.dst = 1023 →
    f.hops < 1022 → payNat f 28 4 ≠ 0 →
    est = (payNat f 0 8 : Rat) + (payNat f 8 8 : Rat) / 1024 +
      (payNat f 16 8 : Rat) / 1024 * ((payNat f 24 4 + jxLinkWt s : Nat) : Rat) / (payNat f 28 4 : Rat) →
    ∃ t g, exec (.time f residence) s = .next t ∧ t.out.ring = g :: s.out.ring ∧ g.hops = f.hops + 1 ∧
      g.src = f.src ∧ crcOk g = true ∧
      g.payload = timePayload (payNat f 0 8) (payNat f 8 8 + residence) (payNat f 16 8)
        (payNat f 24 4 + jxLinkWt s) (payNat f 28 4) ∧
      t.jx.timeErr = (est - (s.tb.now : Rat)) / 800000000 ∧
      (2 < absR (est - (s.tb.now : Rat)) → t.jx.aligned = false ∧ t.jx.goodTimes = 0) ∧
      (absR (est - (s.tb.now : Rat)) ≤ 2 → t.jx.goodTimes = Nat.min (s.jx.goodTimes + 1) 16 ∧
        t.jx.aligned = decide (16 ≤ s.jx.goodTimes + 1)) ∧
      (s.jx.timed = true ∨ jxAutonomous s = true ∨ anyRunning s = true ∨ anyListActive s = true → t.tb = s.tb) ∧
      (s.jx.timed = false → jxAutonomous s = false → anyRunning s = false → anyListActive s = false →
        t.tb.now = (roundEven est).toNat ∧ t.tb.stepped = true) ∧
      t.mod = { s.mod with lifeAcc := t.mod.lifeAcc, lifeFrom := t.mod.lifeFrom } ∧ lifeSeconds t = lifeSeconds s ∧
      t.ch = s.ch ∧ t.flt = s.flt)

/-- Enumeration (R310, R311): in pass 1 a member with an id adds its bit and its share to the map it sends on, or
leaves the ring where the bit is taken; in pass 2 one without takes the lowest clear bit, and every member is
then FORMED; the master sends pass 2 when pass 1 returns and is FORMED when pass 2 does, unless the shares
exceed 10,000. A frame of id 0 that the master has not sent comes from another master: RING_LOSS, and the by-pass
closes (that it knows its own frames by their SEQ is the model's reading, A55). That ARG[0] tells the passes apart is the
model's reading (A23). -/
def Obligations.Enumeration : Prop :=
  (∀ (f : Frame) (i : Nat) (s : State), arrives s f 0x13 → jxMaster s = false → f.dst = 1023 → f.hops < 1022 →
    isPass1 f = true → claimedId s = some i →
    ∃ t g, exec (.enum f) s = .next t ∧ t.out.ring = g :: s.out.ring ∧ g.hops = f.hops + 1 ∧ crcOk g = true ∧
      ((payNat f 0 128).testBit i = false → t.jx.id = i ∧ t.jx.bypassed = false ∧
        g.payload = enumPayload (payNat f 0 128 + 2 ^ i) (payNat f 128 4 + s.jx.txShare.toNat)) ∧
      ((payNat f 0 128).testBit i = true → t.jx.bypassed = true ∧ t.jx.id = 1023 ∧ g.payload = f.payload) ∧
      t.ch = s.ch ∧ t.mod = s.mod) ∧
  (∀ (f : Frame) (s : State), arrives s f 0x13 → jxMaster s = false → f.dst = 1023 → f.hops < 1022 →
    isPass1 f = false → s.jx.id < 1023 →
    ∃ t, exec (.enum f) s = .next t ∧ t.jx.state = 3 ∧ t.jx.id = s.jx.id ∧ t.ch = s.ch) ∧
  (∀ (f : Frame) (i : Nat) (s : State), arrives s f 0x13 → jxMaster s = false → f.dst = 1023 → f.hops < 1022 →
    isPass1 f = false → s.jx.id = 1023 → lowestClear (payNat f 0 128) = some i →
    ∃ t g, exec (.enum f) s = .next t ∧ t.jx.state = 3 ∧ t.jx.id = i ∧ t.out.ring = g :: s.out.ring ∧
      g.payload = enumPayload (payNat f 0 128 + 2 ^ i) (payNat f 128 4)) ∧
  (∀ (c : Instr) (f : Frame) (residence : Nat) (s : State), jxMaster s = true → jxAutonomous s = false →
    isPresent s 0x15 0x404 = false → ownRound s f = false →
    c = .enum f ∧ comesBack s f 0x13 ∨ c = .time f residence ∧ comesBack s f 0x12 →
    ∃ t d, exec c s = .next t ∧ t.jx.bypassed = true ∧ t.jx.id = 1023 ∧ d % 16 = 4 ∧
      ⟨⟨0x15, 0x404, d⟩, s.tb.now⟩ ∈ t.flt.inbox ∧ t.ch = s.ch ∧ t.mod = s.mod) ∧
  (∀ (f : Frame) (s : State), comesBack s f 0x13 → jxMaster s = true → ownRound s f = true →
    (isPass1 f = true → s.jx.enumPass = 1 → payNat f 128 4 ≤ 10000 →
      ∃ t g, exec (.enum f) s = .next t ∧ t.out.ring = g :: s.out.ring ∧ g.type = 0x13 ∧ g.arg = 0 ∧
        g.payload = enumPayload (payNat f 0 128) (payNat f 128 4) ∧ t.jx.state = s.jx.state) ∧
    (isPass1 f = true → s.jx.enumPass = 1 → 10000 < payNat f 128 4 →
      ∃ t, exec (.enum f) s = .next t ∧ t.jx.overbooked = true ∧ t.out = s.out) ∧
    (isPass1 f = false → s.jx.enumPass = 2 →
      ∃ t, exec (.enum f) s = .next t ∧ t.jx.state = 3 ∧ t.jx.members = countBits (payNat f 0 128)))

/-- Ring events and system faults (R184, R278, R319, R320): an event of the future waits for its tick, copies merge,
before and after the event counts, a late one counts now and sets LATE_EVT; a system fault reaches the collector once
for each SRC and SEQ; both pass on with HOPS + 1; every own FAULT6 frame is sent again until a copy of it returns. -/
def Obligations.RingEvents : Prop :=
  (∀ (f : Frame) (e : RingEvent) (s : State), arrives s f 0x10 → f.dst = 1023 → f.hops < 1022 →
    e = ⟨payNat f 8 1 % 32, payNat f 0 8, payNat f 9 1 % 2 == 1⟩ →
    ∃ t, exec (.event f) s = .next t ∧ t.out.ring = sealFrame { f with hops := f.hops + 1 } :: s.out.ring ∧
      (knownEvent s e = true → t.seq = s.seq ∧ t.flt = s.flt) ∧
      (knownEvent s e = false → s.tb.now ≤ e.tick →
        t.seq = { s.seq with events := s.seq.events ++ [(e, e.tick)] } ∧ t.flt = s.flt) ∧
      (knownEvent s e = false → e.tick < s.tb.now →
        t.seq = { s.seq with lateEvt := true, events := s.seq.events ++ [(e, s.tb.now)] } ∧
        t.flt.inbox = s.flt.inbox ++ [⟨⟨0x49, 0x404, e.event⟩, s.tb.now⟩]) ∧ t.ch = s.ch ∧ t.mod = s.mod) ∧
  (∀ (f : Frame) (s : State), arrives s f 0x11 → f.dst = 1023 → f.hops < 1022 →
    ∃ t, exec (.fault6 f) s = .next t ∧ t.out.ring = sealFrame { f with hops := f.hops + 1 } :: s.out.ring ∧
      ((f.src, f.seq) ∈ s.jx.seen6 → t.flt = s.flt) ∧
      ((f.src, f.seq) ∉ s.jx.seen6 → (f.src, f.seq) ∈ t.jx.seen6 ∧ t.flt.inbox = s.flt.inbox ++
        [⟨⟨fieldN (payNat f 0 8) 63 56, 0x800 + f.src, fieldN (payNat f 0 8) 55 44⟩, s.tb.now⟩]) ∧
      t.ch = s.ch ∧ t.mod = s.mod) ∧
  (∀ (f : Frame) (s : State), comesBack s f 0x11 →
    ∃ t, exec (.fault6 f) s = .next t ∧ t.jx.sent6 = s.jx.sent6.filter (fun g => g.seq != f.seq) ∧
      t.flt = s.flt ∧ t.out = s.out) ∧
  (∀ s : State, onRing s = true →
    ∃ t, exec .fault6Resend s = .next t ∧ t.out.ring = s.jx.sent6.reverse ++ s.out.ring ∧
      t.jx.sent6 = s.jx.sent6 ∧ t.flt = s.flt ∧ t.ch = s.ch) ∧
  (∀ s : State, s.jx.sent6 = [] → exec .fault6Resend s = .next s)

/-- Remote accesses, the requester (R316, R318, R372): a READ or WRITE of a set in use sets REJ; a broadcast read
ends with status 5; one for another member goes out as one request and makes the set BUSY; the answer with its
SEQ ends it with the answer's status and, for a read that is OK, its words; the returned request means no
module, JX_RA_TMO a timeout; one for the own id runs at once as ring agent. The payload of a WR_REQ and this local access
are the model's readings (A25). -/
def Obligations.RemoteRequests : Prop :=
  (∀ (m : Fin 2) (two : Bool) (s : State), regsUp s = true → s.jx.ra[m].busy = true →
    exec (.read m two) s = .next { s with jx := { s.jx with ra := s.jx.ra.set m { s.jx.ra[m] with rej := true } } } ∧
    exec (.write m two) s = exec (.read m two) s) ∧
  (∀ (m : Fin 2) (two : Bool) (s : State), regsUp s = true → s.jx.ra[m].busy = false → s.jx.ra[m].id = 1023 →
    exec (.read m two) s = .next { s with
      jx := { s.jx with ra := s.jx.ra.set m { s.jx.ra[m] with busy := false, status := 5 } } }) ∧
  (∀ (c : Instr) (type n : Nat) (pay : List Byte) (m : Fin 2) (two : Bool) (s : State), regsUp s = true →
    onRing s = true → s.jx.ra[m].busy = false → s.jx.ra[m].id.toNat ≠ s.jx.id → n = (if two then 2 else 1) →
    c = .read m two ∧ s.jx.ra[m].id ≠ 1023 ∧ type = 1 ∧ pay = toBytes 8 s.jx.ra[m].addr.toNat ∨
      c = .write m two ∧ type = 3 ∧ pay = toBytes 8 s.jx.ra[m].addr.toNat ++ toBytes 4 s.jx.ra[m].data0.toNat ++
        toBytes 4 (if two then s.jx.ra[m].data1.toNat else 0) →
    ∃ t f, exec c s = .next t ∧ t.out.ring = f :: s.out.ring ∧ f.type = type ∧ f.dst = s.jx.ra[m].id.toNat ∧
      f.arg = n ∧ f.payload = pay ∧ f.seq = s.jx.seqNo ∧ crcOk f = true ∧ t.jx.ra[m].busy = true ∧
      t.jx.ra[m].seq = s.jx.seqNo ∧ t.jx.seqNo = (s.jx.seqNo + 1) % 4294967296 ∧ t.ch = s.ch ∧ t.sto = s.sto) ∧
  (∀ (f : Frame) (m : Fin 2) (s : State), arrives s f 2 → f.dst = s.jx.id → raOfSeq s f.seq = some m →
    ∃ t, exec (.rdRsp f) s = .next t ∧ t.jx.ra[m].busy = false ∧ t.jx.ra[m].status = f.arg % 8 ∧
      (f.arg % 16 = 0 → t.jx.ra[m].data0 = wordOf (payNat f 0 4) ∧
        (s.jx.ra[m].two = true → t.jx.ra[m].data1 = wordOf (payNat f 4 4))) ∧
      (f.arg % 16 ≠ 0 → t.jx.ra[m].data0 = s.jx.ra[m].data0 ∧ t.jx.ra[m].data1 = s.jx.ra[m].data1) ∧
      t.out = s.out ∧ t.ch = s.ch) ∧
  (∀ (f : Frame) (m : Fin 2) (s : State), arrives s f 4 → f.dst = s.jx.id → raOfSeq s f.seq = some m →
    ∃ t, exec (.wrRsp f) s = .next t ∧ t.jx.ra = s.jx.ra.set m { s.jx.ra[m] with busy := false, status := f.arg % 8 } ∧
      t.out = s.out ∧ t.ch = s.ch) ∧
  (∀ (f : Frame) (m : Fin 2) (s : State), f.dst ≠ 1023 → raOfSeq s f.seq = some m →
    (comesBack s f 1 → ∃ t, exec (.rdReq f) s = .next t ∧ t.jx.ra[m].busy = false ∧ t.jx.ra[m].status = 1) ∧
    (comesBack s f 3 → ∃ t, exec (.wrReq f) s = .next t ∧ t.jx.ra[m].busy = false ∧ t.jx.ra[m].status = 1)) ∧
  (∀ (m : Fin 2) (s u : State), regsUp s = true → s.jx.ra[m].busy = false → s.jx.id < 1023 →
    s.jx.ra[m].id.toNat = s.jx.id → s.jx.ra[m].addr.toNat < 0x04000000 →
    (u = (busRead s .ringAgent s.jx.ra[m].addr.toNat).2 →
      exec (.read m false) s = .next { u with jx := { u.jx with ra := u.jx.ra.set m { u.jx.ra[m] with
        busy := false, status := 0, data0 := (busRead s .ringAgent s.jx.ra[m].addr.toNat).1 } } }) ∧
    (s.jx.ra[m].addr.toNat < 0x90000 ∨ 0xA0000 ≤ s.jx.ra[m].addr.toNat →
      u = busWriteBase s .ringAgent s.jx.ra[m].addr.toNat s.jx.ra[m].data0 →
      exec (.write m false) s = .next { u with jx := { u.jx with ra := u.jx.ra.set m { u.jx.ra[m] with
        busy := false, status := 0 } } })) ∧
  (∀ (m : Fin 2) (s : State), s.jx.ra[m].busy = true →
    exec (.jxRaTimeout m) s = .next { s with
      jx := { s.jx with ra := s.jx.ra.set m { s.jx.ra[m] with busy := false, status := 4 } } })

/-- Writes of a remote-access set by its own master (R371, R372): while BUSY any write is ignored and sets REJ; so
does a JX_RAm_CMD with both of READ and WRITE or neither; the address, the id and the data words are registers
of 32 bits, taken at once, none staged. -/
def Obligations.RemoteRegisters : Prop :=
  ∀ (m : Master) (k : Fin 2) (base : Nat) (v : Word) (s : State), regsUp s = true → masterUp s m = true →
    (m = .host ∧ k = 0 ∧ base = 0x70100 ∨ m = .appCore ∧ k = 1 ∧ base = 0x70140) →
    (s.jx.ra[k].busy = true → ∀ o ∈ [0x00, 0x04, 0x08, 0x0C, 0x10, 0x14],
      exec (.registerWrite m ⟨base + o, 0xF⟩ v) s = .next { s with
        jx := { s.jx with ra := s.jx.ra.set k { s.jx.ra[k] with rej := true } } }) ∧
    (s.jx.ra[k].busy = false → bit v 0 = bit v 1 →
      exec (.registerWrite m ⟨base + 0x10, 0xF⟩ v) s = .next { s with
        jx := { s.jx with ra := s.jx.ra.set k { s.jx.ra[k] with rej := true } } }) ∧
    (s.jx.ra[k].busy = false →
      exec (.registerWrite m ⟨base, 0xF⟩ v) s = .next { s with
        jx := { s.jx with ra := s.jx.ra.set k { s.jx.ra[k] with addr := v } } } ∧
      exec (.registerWrite m ⟨base + 0x04, 0xF⟩ v) s = .next { s with
        jx := { s.jx with ra := s.jx.ra.set k { s.jx.ra[k] with id := v &&& 0x3FF } } } ∧
      exec (.registerWrite m ⟨base + 0x08, 0xF⟩ v) s = .next { s with
        jx := { s.jx with ra := s.jx.ra.set k { s.jx.ra[k] with data0 := v } } } ∧
      exec (.registerWrite m ⟨base + 0x0C, 0xF⟩ v) s = .next { s with
        jx := { s.jx with ra := s.jx.ra.set k { s.jx.ra[k] with data1 := v } } })

/-- Remote accesses, the member addressed (R317, R318): it runs a request of one or two words as ring agent and answers the
requester with the request's SEQ: a read with the words its registers give, a write with status 0; an address at
or above 0400_0000h, or a write of the boot and security block, changes nothing and is answered ADDR. A broadcast write
passes on, runs without an answer, and runs on its sender too when it returns, also where no set waits for it any more.
That the words lie in payload bytes 8 to 15, and that a reply goes out only while the member is on the ring, are the
model's readings (A25). -/
def Obligations.RemoteService : Prop :=
  (∀ (f : Frame) (s : State), arrives s f 1 → f.dst = s.jx.id → f.arg % 4 = 1 →
    ∃ t g, exec (.rdReq f) s = .next t ∧ g.type = 2 ∧ g.dst = f.src ∧ g.src = s.jx.id ∧ g.seq = f.seq ∧
      crcOk g = true ∧
      (payNat f 0 4 < 0x04000000 → t.out.ring = g :: (busRead (noteUpstream s f) .ringAgent (payNat f 0 4)).2.out.ring ∧
        g.arg = 0 ∧
        g.payload = toBytes 4 (busRead (noteUpstream s f) .ringAgent (payNat f 0 4)).1.toNat ++ toBytes 4 0) ∧
      (0x04000000 ≤ payNat f 0 4 → t.out.ring = g :: s.out.ring ∧ g.arg = 2 ∧ t.ch = s.ch ∧ t.sto = s.sto ∧
        t.mod = s.mod ∧ t.flt = s.flt)) ∧
  (∀ (f : Frame) (u : State) (s : State), arrives s f 3 → f.dst = s.jx.id → f.arg % 4 = 1 →
    payNat f 0 4 < 0x04000000 → payNat f 0 4 < 0x90000 ∨ 0xA0000 ≤ payNat f 0 4 →
    u = busWriteBase (noteUpstream s f) .ringAgent (payNat f 0 4) (wordOf (payNat f 8 4)) →
    (onRing u = true → ∃ g, exec (.wrReq f) s = .next (sendFrame u g) ∧ g.type = 4 ∧ g.dst = f.src ∧
      g.src = u.jx.id ∧ g.seq = f.seq ∧ g.arg = 0 ∧ g.payload = [] ∧ crcOk g = true) ∧
    (onRing u = false → exec (.wrReq f) s = .next u)) ∧
  (∀ (f : Frame) (s : State), arrives s f 3 → f.dst = s.jx.id → f.arg % 4 = 1 →
    0x04000000 ≤ payNat f 0 4 ∨ 0x90000 ≤ payNat f 0 4 ∧ payNat f 0 4 < 0xA0000 →
    ∃ g, exec (.wrReq f) s = .next (sendFrame (noteUpstream s f) g) ∧ g.type = 4 ∧ g.dst = f.src ∧
      g.src = s.jx.id ∧ g.seq = f.seq ∧ g.arg = 2 ∧ g.payload = [] ∧ crcOk g = true) ∧
  (∀ (f : Frame) (w0 w1 : Word) (u v s : State), arrives s f 1 → f.dst = s.jx.id → f.arg % 4 = 2 →
    payNat f 0 4 + 4 < 0x04000000 → (w0, u) = busRead (noteUpstream s f) .ringAgent (payNat f 0 4) →
    (w1, v) = busRead u .ringAgent (payNat f 0 4 + 4) →
    ∃ t g, exec (.rdReq f) s = .next t ∧ t.out.ring = g :: v.out.ring ∧ g.type = 2 ∧ g.dst = f.src ∧ g.seq = f.seq ∧
      g.arg = 0 ∧ g.payload = toBytes 4 w0.toNat ++ toBytes 4 w1.toNat) ∧
  (∀ (f : Frame) (u v s : State), f.dst = 1023 → payNat f 0 4 + 4 < 0x90000 →
    v = busWriteBase u .ringAgent (payNat f 0 4) (wordOf (payNat f 8 4)) →
    (arrives s f 3 → f.hops < 1022 →
      u = sendFrame (noteUpstream s f) (sealFrame { f with hops := f.hops + 1 }) →
      exec (.wrReq f) s = .next (if f.arg % 4 = 2
        then busWriteBase v .ringAgent (payNat f 0 4 + 4) (wordOf (payNat f 12 4)) else v)) ∧
    (comesBack s f 3 → u = noteUpstream s f → f.arg % 4 = 1 → raOfSeq v f.seq = none →
      exec (.wrReq f) s = .next v))

/-- Blocks and queue items from the ring (R264, R265, R321, R322): a whole block lies in the receive ring's next
block afterwards, a poisoned one is dropped and noted; the items of a frame are written to their queue in order
where its credits suffice, and the frame is dropped and counted, in a counter that saturates (A26), where they do not. -/
def Obligations.RingDeliveries : Prop :=
  (∀ (f : Frame) (n : Fin 31) (s : State), arrives s f 0x20 → f.dst = s.jx.id → f.payload.length = 4112 →
    f.poison = false → rxRing s (f.arg % 8) = some n → ringActive s n = true → ringBlocks s n ≠ 0 →
    s.sto.ring[n].wp - s.sto.ring[n].rp < ringBlocks s n →
    ∃ t, exec (.block f) s = .next t ∧ t.sto.ring[n].wp = s.sto.ring[n].wp + 1 ∧
      t.sto.ring[n].rp = s.sto.ring[n].rp ∧
      memReadN t.sto.mem (blockAddr s n s.sto.ring[n].wp).1 4096 = f.payload.drop 16 ∧
      (∀ a : Nat, (a < (blockAddr s n s.sto.ring[n].wp).1 ∨ (blockAddr s n s.sto.ring[n].wp).1 + 4096 ≤ a) →
        (a < (blockAddr s n s.sto.ring[n].wp).2 ∨ (blockAddr s n s.sto.ring[n].wp).2 + 16 ≤ a) →
        memRead t.sto.mem a = memRead s.sto.mem a) ∧ t.out = s.out ∧ t.ch = s.ch ∧ t.sq = s.sq) ∧
  (∀ (f : Frame) (s : State), arrives s f 0x20 → f.dst = s.jx.id → f.poison = true →
    ∃ t, exec (.block f) s = .next t ∧ t.sto = s.sto ∧ t.out = s.out ∧
      t.flt.inbox = s.flt.inbox ++ [⟨⟨0x4B, 0x404, 0⟩, s.tb.now⟩]) ∧
  (∀ (f : Frame) (q : Fin 32) (s : State), arrives s f 0x21 → f.dst = s.jx.id → q.val = f.arg % 32 →
    qProd s.sq[q].cfg = 7 → s.sq[q].en = true →
    (fieldN f.arg 24 16 ≤ s.sq[q].credit → ∃ t, exec (.qitems f) s = .next t ∧
      runs ((frameItems f f.poison).map fun i => .queueItemWrite q i) (noteUpstream s f) t) ∧
    (s.sq[q].credit < fieldN f.arg 24 16 → ∃ t, exec (.qitems f) s = .next t ∧ t.sq = s.sq ∧
      t.jx.qdropCnt = Nat.min (s.jx.qdropCnt + 1) 4294967295))

/-- Where the block and item commands complete, CAPTURE_BLOCK_CLOSE, BLOCK and QITEMS (R127, R245, R249, R251, R265,
R305, R321, R322): the block of an open stream that is due closes whatever its ring does, one that is not due stays; a
raw stream takes the codes of the instants since the last one; a whole block from the ring goes to its receive ring,
which on overrun drops it or its oldest block by its policy; the items of a frame whose check failed are written
marked CRC_BAD, and those of a whole packet stand last in their queue with VALID set. That the items of such a frame are
taken is one of two readings of R265 and R304 (A26), that an instant without a code reads 0 the model's choice (A14), as
is the count at the age's tick (A4). -/
def Obligations.BlockCommandsComplete : Prop :=
  (∀ (n : Fin 2048) (raw : List Nat) (s : State), s.sto.stream[n].opened = true →
    strSrc s.sto.stream[n].cfg < 6 →
    (s.sto.stream[n].block ≠ [] → s.sto.stream[n].raw = [] →
      s.sto.stream[n].openedAt + field s.sto.stream[n].age 13 0 * 800000 ≤ nextBoundary s →
      ∃ t, exec (.captureBlockClose n raw) s = .next t ∧
        t.sto.stream = s.sto.stream.set n { s.sto.stream[n] with block := [], ts := 0 } ∧
        t.tb.now = Nat.max s.tb.now (s.sto.stream[n].openedAt + field s.sto.stream[n].age 13 0 * 800000) ∧
        t.sto.parts = s.sto.parts ∧ t.ch = s.ch ∧ t.sq = s.sq ∧ t.flt = s.flt ∧ t.mod = s.mod) ∧
    (nextBoundary s < s.sto.stream[n].openedAt + field s.sto.stream[n].age 13 0 * 800000 →
      exec (.captureBlockClose n raw) s = .next s)) ∧
  (∀ (n : Fin 2048) (raw : List Nat) (gap k : Nat) (s : State), s.sto.stream[n].opened = true →
    6 ≤ strSrc s.sto.stream[n].cfg → s.ch[strCh s.sto.stream[n].cfg].cfg.func ≠ .off → s.sto.stream[n].raw ≠ [] →
    gap = (if strSrc s.sto.stream[n].cfg = 9 then 800 else 10) →
    k = (s.tb.now + gap - 1 - s.sto.stream[n].nextCode) / gap →
    s.sto.stream[n].raw.length + k < (if strSrc s.sto.stream[n].cfg = 9 then 1820 else 5461) →
    nextBoundary s < s.sto.stream[n].openedAt + field s.sto.stream[n].age 13 0 * 800000 →
    exec (.captureBlockClose n raw) s = .next { s with sto := { s.sto with
      stream := s.sto.stream.set n { s.sto.stream[n] with
        raw := s.sto.stream[n].raw ++ (List.range k).map fun i => raw[i]?.getD 0
        nextCode := s.sto.stream[n].nextCode + k * gap } } }) ∧
  (∀ (f : Frame) (n : Fin 31) (s : State), arrives s f 0x20 → f.dst = s.jx.id → f.poison = false →
    rxRing s (f.arg % 8) = some n → ringActive s n = true → ringBlocks s n ≠ 0 →
    ringBlocks s n ≤ s.sto.ring[n].wp - s.sto.ring[n].rp →
    (ringOverwrites s.sto.ring[n].cfg = false → ∃ t, exec (.block f) s = .next t ∧ t.sto.mem = s.sto.mem ∧
      t.sto.ring = s.sto.ring.set n { s.sto.ring[n] with
        drop := Nat.min (s.sto.ring[n].drop + 1) 4294967295, overrun := true } ∧ t.ch = s.ch ∧ t.sq = s.sq) ∧
    (ringOverwrites s.sto.ring[n].cfg = true → ∃ t, exec (.block f) s = .next t ∧
      t.sto.ring[n].wp = s.sto.ring[n].wp + 1 ∧ t.sto.ring[n].rp = s.sto.ring[n].rp + 1 ∧
      t.sto.ring[n].ovwr = Nat.min (s.sto.ring[n].ovwr + 1) 4294967295 ∧ t.sto.ring[n].overrun = true ∧
      t.ch = s.ch ∧ t.sq = s.sq)) ∧
  (∀ (f : Frame) (s : State), arrives s f 0x20 → f.dst = s.jx.id → f.poison = false →
    rxRing s (f.arg % 8) = none → exec (.block f) s = .next (noteUpstream s f)) ∧
  (∀ (f : Frame) (q : Fin 32) (items : List QItem) (s : State), receives s = true → isMine s f = true →
    isOwn s f = false → frameKnown f = true → f.type = 0x21 → q.val = f.arg % 32 → qProd s.sq[q].cfg = 7 →
    s.sq[q].en = true → fieldN f.arg 24 16 ≤ s.sq[q].credit → s.sq[q].dropping = false →
    s.sq[q].pktOpen = false → s.sq[q].flushPend = false → items = frameItems f (!crcOk f || f.poison) →
    (∀ (k : Nat) (i : QItem), items[k]? = some i → i.sop = decide (k = 0) ∧ i.eop = decide (k + 1 = items.length)) →
    ∃ t, exec (.qitems f) s = .next t ∧ t.sq[q].items = s.sq[q].items ++ items.map QItem.held ∧
      t.sq[q].credit = s.sq[q].credit - fieldN f.arg 24 16 ∧ t.sq[q].pktOpen = false ∧
      (∀ k : Fin 32, k ≠ q → t.sq[k] = s.sq[k]) ∧ t.ch = s.ch ∧ t.sto = s.sto ∧ t.flt = s.flt)

/-- Where the DMA commands complete, DMA_EN, ABORT, DMA_TAIL_WRITE and DMA_DESCRIPTOR_DONE (R247, R264, R329 to R334,
R373): EN off as written, and on, clearing the halt, where the ledger admits it; ABORT clears EN whatever the engine does,
the descriptor in progress at HEAD completing with its own command (the model's reading, A20); TAIL inside the ring, else
CFG_REJ. A descriptor that the engine takes: a malformed one is answered BAD_DESC; HOST_TO_QUEUE writes its items to their
queue in order where the credits suffice, and waits, nothing moved, without a credit; QUEUE_TO_HOST moves the items that
are visible; RING_TO_HOST the blocks that are written, each with its descriptor at its place in host memory, POISON in the
descriptor of one whose CRC fails, with STATUS POISON. STATUS and DONE_LEN go to the descriptor last, HEAD moves on, and
the MSI-X message goes by the flag, for each of them. -/
def Obligations.DmaCommandsComplete : Prop :=
  (∀ (e : Fin 8) (s : State), regsUp s = true → s.dma[e].en = true →
    exec (.dmaEn e true) s = .next { s with dma := s.dma.set e { s.dma[e] with stopped := false } }) ∧
  (∀ (e : Fin 8) (u s : State), regsUp s = true → s.dma[e].en = false →
    u = updDma s e (fun d => { d with stopped := false }) →
    ∃ t, exec (.dmaEn e true) s = .next t ∧ t.ch = s.ch ∧ t.sto = s.sto ∧ t.sq = s.sq ∧
      t.dma = s.dma.set e (if (admitDma u e).1 = true then { s.dma[e] with stopped := false, en := true }
        else { s.dma[e] with stopped := false, admitDenied := true })) ∧
  (∀ (e : Fin 8) (s : State), regsUp s = true →
    ∃ t, exec (.abort e) s = .next t ∧ t.dma[e].en = false ∧ (∀ k : Fin 8, k ≠ e → t.dma[k] = s.dma[k]) ∧
      t.sto = s.sto ∧ t.sq = s.sq ∧ t.ch = s.ch ∧ t.flt = s.flt) ∧
  (∀ (e : Fin 8) (v : Word) (s : State), regsUp s = true →
    exec (.dmaTailWrite e v) s = .next { s with dma := s.dma.set e (if field v 15 0 < s.dma[e].len.toNat
      then { s.dma[e] with tail := field v 15 0 } else { s.dma[e] with cfgRej := true }) }) ∧
  (∀ (e : Fin 8) (d : Desc) (bytes : List Byte) (reads : DmaRead) (q : Fin 32) (s : State), dmaRuns s e = true →
    s.dma[e].cur = none → s.dma[e].aborting = false → reads ≠ .descError → queueTaken s e d = false →
    q.val = d.maddr % 32 →
    ∃ t, exec (.dmaDescriptorDone e d bytes reads) s = .next t ∧
      (descOk d = true → d.op = 2 → qProd s.sq[q].cfg = 1 → s.sq[q].en = true → s.dma[e].moved = 0 →
        (s.sq[q].credit = 0 → reads = .ok → t = { s with dma := s.dma.set e { s.dma[e] with
          queue := some q, cur := some (s.dma[e].head, d), moved := 0 } }) ∧
        (reads = .ok → bytes.length = d.len → d.len / 16 ≤ s.sq[q].credit →
          ∃ v, runs ((itemsOf (d.len / 16) bytes).map fun i => .queueItemWrite q i)
              { s with dma := s.dma.set e { s.dma[e] with queue := some q } } v ∧
            t.sq = v.sq ∧ t.flt = v.flt ∧ t.sto = s.sto ∧ t.dma[e].cur = none ∧
            t.dma[e].head = (s.dma[e].head + 1) % Nat.max s.dma[e].len.toNat 1 ∧
            t.out.msix = (if d.flags % 2 = 1 then e.val :: s.out.msix else s.out.msix) ∧
            t.out.host = (s.dma[e].base.toNat + 32 * s.dma[e].head + 24, toBytes 4 1 ++ toBytes 4 d.len) ::
              s.out.host)) ∧
      (descOk d = true → d.op = 3 → qCons s.sq[q].cfg = 1 → s.sq[q].en = true →
        s.sq[q].visible ≤ s.sq[q].items.length → ∀ m, m = Nat.min (d.len / 16) s.sq[q].visible →
        t.sto = s.sto ∧ t.sq[q].items = s.sq[q].items.drop m ∧ (∀ k : Fin 32, k ≠ q → t.sq[k] = s.sq[k]) ∧
        t.dma[e].head = (s.dma[e].head + 1) % Nat.max s.dma[e].len.toNat 1 ∧
        t.out.msix = (if d.flags % 2 = 1 then e.val :: s.out.msix else s.out.msix) ∧
        t.out.host = (s.dma[e].base.toNat + 32 * s.dma[e].head + 24, toBytes 4 1 ++ toBytes 4 (16 * m)) ::
          (if m = 0 then s.out.host else (d.haddr, (s.sq[q].items.take m).flatMap itemHost) :: s.out.host)) ∧
      (descOk d = true → d.op = 4 → ∀ (r : Fin 31) (m : Nat) (blk : Nat → List Byte × List Byte × Bool),
        engineRing s e = some r → m = Nat.min (d.len / 4112) (s.sto.ring[r].wp - s.sto.ring[r].rp) →
        (∀ k, blk k = readBlock (updRing s r fun x => { x with rp := x.rp + k }) r) →
        t.sto = { s.sto with ring := s.sto.ring.set r { s.sto.ring[r] with rp := s.sto.ring[r].rp + m } } ∧
        t.dma[e].head = (s.dma[e].head + 1) % Nat.max s.dma[e].len.toNat 1 ∧
        t.out.msix = (if d.flags % 2 = 1 then e.val :: s.out.msix else s.out.msix) ∧
        ((∀ k < m, (blk k).2.2 = true) → t.flt = s.flt) ∧
        t.out.host = (s.dma[e].base.toNat + 32 * s.dma[e].head + 24,
            toBytes 4 (if ∀ k < m, (blk k).2.2 = true then 1 else 5) ++ toBytes 4 (4112 * m)) ::
          (((List.range m).map fun k => (d.haddr + 4112 * k,
            (blk k).1 ++ if (blk k).2.2 then (blk k).2.1 else poisonDesc (blk k).2.1)).reverse ++ s.out.host)) ∧
      (descOk d = false → t.sto = s.sto ∧ t.sq = s.sq ∧
        t.out.host = (s.dma[e].base.toNat + 32 * s.dma[e].head + 24, toBytes 4 9 ++ toBytes 4 0) :: s.out.host ∧
        t.out.msix = (if d.flags % 2 = 1 then e.val :: s.out.msix else s.out.msix) ∧
        t.dma[e].head = (s.dma[e].head + 1) % Nat.max s.dma[e].len.toNat 1))

/-- Forwarding (R302, R304, R305): a frame that this member does not consume leaves with HOPS + 1 and a right CRC, or a
stomped one where its check failed, which is counted; the own frame is removed, with no more effect where its type has
none; the 1,023rd hop removes a frame and counts an orphan; a port by-passed or disabled takes nothing. That the counters
saturate is the model's reading (A26). -/
def Obligations.Forwarding : Prop :=
  (∀ (f : Frame) (n : Nat) (s : State), receives s = false → exec (.jxFrameForward ⟨f, n⟩) s = .next s) ∧
  (∀ (f : Frame) (n : Nat) (s : State), receives s = true → isOwn s f = false → consumes s f = false →
    f.hops < 1022 →
    (crcOk f = true → ∃ t, exec (.jxFrameForward ⟨f, n⟩) s = .next t ∧
      t.out.ring = sealFrame { f with hops := f.hops + 1 } :: s.out.ring ∧ t.jx.crcCnt = s.jx.crcCnt ∧
      t = { s with out := t.out, jx := t.jx }) ∧
    (crcOk f = false → ∃ t g, exec (.jxFrameForward ⟨f, n⟩) s = .next t ∧ t.out.ring = g :: s.out.ring ∧
      g.hops = f.hops + 1 ∧ stomped g = true ∧
      (stomped f = true → t.jx.stompCnt = Nat.min (s.jx.stompCnt + 1) 4294967295 ∧ t.jx.crcCnt = s.jx.crcCnt) ∧
      (stomped f = false → t.jx.crcCnt = Nat.min (s.jx.crcCnt + 1) 4294967295 ∧ t.jx.stompCnt = s.jx.stompCnt) ∧
      t = { s with out := t.out, jx := t.jx })) ∧
  (∀ (f : Frame) (n : Nat) (s : State), receives s = true → isOwn s f = true → crcOk f = true → f.hops ≠ 0 →
    frameKnown f = false ∨ f.type ∈ [0x02, 0x04, 0x10, 0x20, 0x21] →
    exec (.jxFrameForward ⟨f, n⟩) s = .next s) ∧
  (∀ (f : Frame) (n : Nat) (s : State), receives s = true → isOwn s f = false → consumes s f = false →
    crcOk f = true → f.hops = 1022 →
    exec (.jxFrameForward ⟨f, n⟩) s = .next { s with
      jx := { s.jx with orphanCnt := Nat.min (s.jx.orphanCnt + 1) 4294967295 } })

/-- Registers (R9, R10, R13, R14, R38, R328): an access narrower than a dword has no effect and reads 0; a read of a LO
register returns its low word and latches the high word for
the same master's read of HI; a write of LO is staged and a write of HI commits both words, here SEQ_RINGLEAD,
out of its range setting SET_REJ; a read of HI without a latch returns the present high word; SCRATCH takes a word in
every mode but BYPASS, where no access has an effect (the model's reading of R48, A21); a reserved address and one that is
not aligned take nothing. -/
def Obligations.Registers : Prop :=
  (∀ (m : Master) (a : Nat) (be : BitVec 4) (v : Word) (s : State), be ≠ 0xF →
    exec (.loReadLatch m ⟨a, be⟩) s = .next { s with bus := { s.bus with read := 0 } } ∧
    exec (.loWriteStage m ⟨a, be⟩ v) s = .next s ∧ exec (.hiWriteCommit m ⟨a, be⟩ v) s = .next s ∧
    exec (.registerWrite m ⟨a, be⟩ v) s = .next s) ∧
  (∀ (m : Master) (a : Nat) (v : DWord) (s : State), answers s m a = true → lo64 s a = some v →
    exec (.loReadLatch m ⟨a, 0xF⟩) s = .next { s with
      bus := { s.bus with read := loHalf v, latches := holdNew s.bus.latches m.id a (hiHalf v) } }) ∧
  (∀ (m : Master) (a : Nat) (v w : DWord) (s : State), answers s m (a + 4) = true → lo64 s (a + 4) = none →
    lo64 s a = some w → heldOf s.bus.latches m.id a = some (hiHalf v) →
    exec (.loReadLatch m ⟨a + 4, 0xF⟩) s = .next { s with bus := { s.bus with read := hiHalf v } }) ∧
  (∀ (m : Master) (a : Nat) (w : DWord) (s : State), answers s m (a + 4) = true → lo64 s (a + 4) = none →
    lo64 s a = some w → heldOf s.bus.latches m.id a = none →
    exec (.loReadLatch m ⟨a + 4, 0xF⟩) s = .next { s with bus := { s.bus with read := hiHalf w } }) ∧
  (∀ (m : Master) (a : Nat) (v : Word) (s : State), a % 4 ≠ 0 →
    exec (.loReadLatch m ⟨a, 0xF⟩) s = .next { s with bus := { s.bus with read := 0 } } ∧
    exec (.registerWrite m ⟨a, 0xF⟩ v) s = .next s) ∧
  (∀ (m : Master) (v w : Word) (s : State), regsUp s = true →
    masterUp s m = true →
    exec (.loWriteStage m ⟨0xB0008, 0xF⟩ v) s = .next { s with
      bus := { s.bus with stages := holdNew s.bus.stages m.id 0xB0008 v } } ∧
    (heldOf s.bus.stages m.id 0xB0008 = some w →
      ((joinHalves v w).toNat ≤ 1600000 →
        exec (.hiWriteCommit m ⟨0xB000C, 0xF⟩ v) s = .next { s with seq := { s.seq with ringLead := joinHalves v w } }) ∧
      (1600000 < (joinHalves v w).toNat →
        exec (.hiWriteCommit m ⟨0xB000C, 0xF⟩ v) s = .next { s with seq := { s.seq with setRej := true } }))) ∧
  (∀ (m : Master) (v : Word) (s : State), masterUp s m = true →
    (s.mod.mode ≠ .bypass →
      exec (.registerWrite m ⟨0x50, 0xF⟩ v) s = .next { s with mod := { s.mod with scratch := v } }) ∧
    (s.mod.mode = .bypass → ∀ a : Nat, exec (.registerWrite m ⟨a, 0xF⟩ v) s = .next s) ∧
    exec (.registerWrite m ⟨0x54, 0xF⟩ v) s = .next s)
end

