-- ==== Sys2Proof/Laws/Memory.lean ====
section
/-!
SUPPORT. The store's byte list: a write keeps the canonical form, is read back, and leaves every other byte
alone (R238, A5).
-/

namespace Sys2Proof.Machine

theorem Memory.wfFrom_mono {lo lo' : Nat} {m : List Host.Cell} (h : Memory.wfFrom lo m = true)
    (hl : lo' ≤ lo) : Memory.wfFrom lo' m = true := by
  cases m with
  | nil => rfl
  | cons p m =>
    obtain ⟨a, b⟩ := p
    simp only [Memory.wfFrom, Bool.and_eq_true, decide_eq_true_eq] at h ⊢
    exact ⟨⟨by omega, h.1.2⟩, h.2⟩

theorem memWrite_wfFrom {m : List Host.Cell} {lo a : Nat} {v : Byte} (h : Memory.wfFrom lo m = true)
    (ha : lo ≤ a) : Memory.wfFrom lo (memWrite m a v) = true := by
  induction m generalizing lo with
  | nil => by_cases hv : v = 0#8 <;> simp [memWrite, Memory.wfFrom, hv, ha]
  | cons p m ih =>
    obtain ⟨x, b⟩ := p
    simp only [Memory.wfFrom, Bool.and_eq_true, decide_eq_true_eq] at h
    obtain ⟨⟨hx, hb⟩, hm⟩ := h
    rcases Nat.lt_trichotomy a x with hlt | heq | hgt
    · by_cases hv : v = 0#8
      · simp [memWrite, hlt, hv, Memory.wfFrom, hx, hm]
        simpa using hb
      · have h1 : a + 1 ≤ x := hlt
        simp [memWrite, hlt, hv, Memory.wfFrom, hm, ha, h1]
        simpa using hb
    · subst heq
      by_cases hv : v = 0#8
      · simpa [memWrite, hv] using Memory.wfFrom_mono hm (by omega : lo ≤ a + 1)
      · simp [memWrite, hv, Memory.wfFrom, hm, ha]
    · have h1 : ¬ a < x := by omega
      have h2 : ¬ a = x := by omega
      simp only [memWrite, h1, h2, if_false, Memory.wfFrom, Bool.and_eq_true, decide_eq_true_eq]
      exact ⟨⟨hx, hb⟩, ih hm (by omega)⟩

/-- A write keeps the canonical form. -/
theorem memWrite_wf {m : List Host.Cell} {a : Nat} {v : Byte} (h : Memory.wf m = true) :
    Memory.wf (memWrite m a v) = true := memWrite_wfFrom h (Nat.zero_le a)

/-- A write of several bytes keeps the canonical form. -/
theorem memWriteN_wf {bs : List Byte} {m : List Host.Cell} {a : Nat} (h : Memory.wf m = true) :
    Memory.wf (memWriteN m a bs) = true := by
  induction bs generalizing m a with
  | nil => exact h
  | cons b bs ih => exact ih (memWrite_wf h)

theorem memRead_below {m : List Host.Cell} {lo a : Nat} (h : Memory.wfFrom lo m = true) (ha : a < lo) :
    memRead m a = 0 := by
  induction m generalizing lo with
  | nil => rfl
  | cons p m ih =>
    obtain ⟨x, b⟩ := p
    simp only [Memory.wfFrom, Bool.and_eq_true, decide_eq_true_eq] at h
    have h1 : ¬ a = x := by omega
    simp only [memRead, h1, if_false]
    exact ih h.2 (by omega)

theorem memRead_memWrite_from {m : List Host.Cell} {lo a x : Nat} {v : Byte}
    (h : Memory.wfFrom lo m = true) :
    memRead (memWrite m a v) x = if x = a then v else memRead m x := by
  induction m generalizing lo with
  | nil =>
    by_cases hv : v = 0#8 <;> by_cases hx : x = a <;> simp [memWrite, memRead, hv, hx]
  | cons p m ih =>
    obtain ⟨y, b⟩ := p
    simp only [Memory.wfFrom, Bool.and_eq_true, decide_eq_true_eq] at h
    obtain ⟨-, hm⟩ := h
    by_cases h1 : a < y
    · by_cases hv : v = 0#8
      · by_cases hx : x = a
        · subst hx
          have : ¬ x = y := by omega
          simp [memWrite, h1, hv, memRead, this, memRead_below hm (by omega : x < y + 1)]
        · simp [memWrite, h1, hv, hx]
      · by_cases hx : x = a <;> simp [memWrite, h1, hv, hx, memRead]
    · by_cases h2 : a = y
      · subst h2
        by_cases hv : v = 0#8
        · by_cases hx : x = a
          · subst hx
            simp [memWrite, hv, memRead_below hm (by omega : x < x + 1)]
          · simp [memWrite, hv, hx, memRead]
        · by_cases hx : x = a <;> simp [memWrite, hv, hx, memRead]
      · simp only [memWrite, h1, h2, if_false, memRead, ih hm]
        by_cases hx : x = y
        · have : ¬ x = a := by omega
          simp [hx, Ne.symm h2]
        · simp [hx]

/-- A byte reads back, and a write leaves every other byte alone. -/
theorem memRead_memWrite {m : List Host.Cell} {a x : Nat} {v : Byte} (h : Memory.wf m = true) :
    memRead (memWrite m a v) x = if x = a then v else memRead m x := memRead_memWrite_from h

/-- Bytes written at ascending addresses leave every address outside them alone. -/
theorem memRead_memWriteN_out {bs : List Byte} {m : List Host.Cell} {a x : Nat} (h : Memory.wf m = true)
    (hx : x < a ∨ a + bs.length ≤ x) : memRead (memWriteN m a bs) x = memRead m x := by
  induction bs generalizing m a with
  | nil => rfl
  | cons b bs ih =>
    simp only [List.length_cons] at hx
    rw [memWriteN, ih (memWrite_wf h) (by omega), memRead_memWrite h, if_neg (by omega)]

/-- Bytes written at ascending addresses read back. -/
theorem memRead_memWriteN_in {bs : List Byte} {m : List Host.Cell} {a i : Nat} (h : Memory.wf m = true)
    (hi : i < bs.length) : memRead (memWriteN m a bs) (a + i) = bs[i] := by
  induction bs generalizing m a i with
  | nil => simp at hi
  | cons b bs ih =>
    cases i with
    | zero =>
      rw [memWriteN, memRead_memWriteN_out (memWrite_wf h) (by omega), memRead_memWrite h]
      simp
    | succ i =>
      have : a + (i + 1) = a + 1 + i := by omega
      rw [this, memWriteN, ih (memWrite_wf h) (by simpa using hi)]
      simp

/-- Reading back a whole span. -/
theorem memReadN_memWriteN {bs : List Byte} {m : List Host.Cell} {a : Nat} (h : Memory.wf m = true) :
    memReadN (memWriteN m a bs) a bs.length = bs := by
  induction bs generalizing m a with
  | nil => rfl
  | cons b bs ih =>
    have h0 := memRead_memWriteN_in (bs := b :: bs) (a := a) (i := 0) h (by simp)
    simp only [List.length_cons, memReadN]
    refine congr (congrArg _ (by simpa using h0)) ?_
    simpa [memWriteN] using ih (memWrite_wf (a := a) (v := b) h)

end Sys2Proof.Machine
end

