-- ==== Sys2Proof/Laws/Queues.lean ====
section
/-!
SUPPORT. What the queue operations do to a queue's account: each keeps it balanced (R254 to R263).
-/

namespace Sys2Proof.Machine

theorem emptyQueue_balanced {q : Queue} (h : q.balanced) : (emptyQueue q).balanced := by
  simp only [Queue.balanced, emptyQueue, List.length_nil] at h ⊢
  omega

theorem flushNow_balanced {q : Queue} (h : q.balanced) : (flushNow q).balanced := emptyQueue_balanced (q := q) h

theorem flushReq_balanced {q : Queue} (h : q.balanced) : (flushReq q).balanced := by
  unfold flushReq
  split
  · exact h
  · exact flushNow_balanced h

theorem discardQueue_balanced {q : Queue} (h : q.balanced) : (discardQueue q).balanced :=
  emptyQueue_balanced (q := q) h

theorem dropItem_balanced {q : Queue} {i : QItem} (h : q.balanced) : (dropItem q i).balanced := by
  simp only [dropItem]
  split
  · exact flushNow_balanced h
  · exact h

/-- An item takes the place of a credit. -/
theorem pushItem_balanced {q : Queue} {i : QItem} (h : q.balanced) (hc : q.credit ≠ 0) :
    (pushItem q i).balanced := by
  have hb : Queue.balanced { q with items := q.items ++ [i.held], credit := q.credit - 1, pktOpen := !i.eop
                                    pktLen := if i.eop then 0 else if i.sop then 1 else q.pktLen + 1 } := by
    simp only [Queue.balanced, List.length_append, List.length_cons, List.length_nil] at h ⊢
    omega
  simp only [pushItem]
  split
  · exact flushNow_balanced hb
  · exact hb

/-- The items of a broken packet become credits on their way back. -/
theorem breakPacket_balanced {q : Queue} (h : q.balanced) : (breakPacket q).balanced := by
  simp only [Queue.balanced, breakPacket, List.length_take, Nat.min_def] at h ⊢
  repeat' split
  all_goals omega

/-- The item the consumer takes becomes a credit on its way back. -/
theorem takeHead_balanced {q : Queue} {i : QItem} {l : List QItem} (h : q.balanced) (hv : 0 < q.visible)
    (hi : q.items = i :: l) :
    Queue.balanced { q with items := l, visible := q.visible - 1, returning := q.returning + 1 } := by
  simp only [Queue.balanced, hi, List.length_cons] at h ⊢
  omega

theorem Queue.reset_balanced : Queue.reset.balanced := by constructor <;> decide

end Sys2Proof.Machine
end

