-- ==== Sys2Proof/Laws/Keeps.lean ====
section
/-!
SUPPORT. What every operation keeps: the queue of waiting commands, and the invariants of Sound. One lemma
per operation, in the form that composes: from Keeps a s to Keeps a (operation s).
-/

namespace Sys2Proof.Machine

/-- From `a`, the state `b` has the same waiting commands, and is sound where `a` is. -/
structure Keeps (a b : State) : Prop where
  pending : b.pending = a.pending
  sound : Sound a → Sound b

variable {a b s : State}

theorem Keeps.refl : Keeps s s := ⟨rfl, id⟩

theorem keeps_ite {p : Prop} [Decidable p] {x y : State} (hx : Keeps a x) (hy : Keeps a y) :
    Keeps a (if p then x else y) := by
  split
  · exact hx
  · exact hy

theorem keeps_foldl {α : Type} {l : List α} {g : State → α → State}
    (hg : ∀ s x, Keeps a s → Keeps a (g s x)) (h : Keeps a s) : Keeps a (l.foldl g s) := by
  induction l generalizing s with
  | nil => exact h
  | cons x l ih => exact ih (hg s x h)

theorem keeps_forCh {g : State → Fin 128 → State} (hg : ∀ s x, Keeps a s → Keeps a (g s x)) (h : Keeps a s) :
    Keeps a (forCh s g) := keeps_foldl hg h

theorem keeps_forComb {g : State → Fin 16 → State} (hg : ∀ s x, Keeps a s → Keeps a (g s x))
    (h : Keeps a s) : Keeps a (forComb s g) := keeps_foldl hg h

/-- The second part of a pair. -/
theorem keeps_snd {α : Type} {p : α × State} {x : α} {t : State} (h : Keeps a p.2) (e : p = (x, t)) :
    Keeps a t := by
  subst e
  exact h

/-- A state that shares the parts Sound speaks of. -/
theorem keeps_same (h : Keeps a b) (h0 : s.pending = b.pending) (h1 : s.sq = b.sq) (h2 : s.lock = b.lock)
    (h3 : s.sto.mem = b.sto.mem) (h4 : s.pins.toggling = b.pins.toggling)
    (h5 : s.pins.waggle = b.pins.waggle) (h6 : s.flt.stopCause = b.flt.stopCause)
    (h7 : s.comb = b.comb) : Keeps a s := by
  refine ⟨h0.trans h.pending, fun ha => ?_⟩
  obtain ⟨hq, hl, hs, hw, hk⟩ := h.sound ha
  refine ⟨?_, ?_, ?_, ?_, ?_⟩
  · simpa only [queuesBalanced, h1] using hq
  · simpa only [locksLegal, h2] using hl
  · simpa only [storeCanonical, h3] using hs
  · simpa only [waggleLegal, h4, h5, h6] using hw
  · simpa only [combsLegal, h7] using hk

/-- A record update that leaves the parts Sound speaks of. -/
theorem keeps_mk {x1 : Nat} {x2 : Mod} {x3 : Pins} {x4 : Timebase} {x5 : Ledger} {x6 : Power} {x7 :
    Collector} {x8 : Vector Channel 128} {x9 : Vector CalUnit 144} {x11 : CalGlobal} {x12 : SeqBlock} {x14
    : Store} {x15 : Jx} {x16 : Hst} {x17 : Vector Dma 8} {x18 : Vector MbxChan 20} {x20 : Boot} {x21 : Sec}
    {x22 : Bus} {x23 : Outputs}
    (h : Keeps a b) (h1 : x14.mem = b.sto.mem) (h2 : x3.toggling = b.pins.toggling)
    (h3 : x3.waggle = b.pins.waggle) (h4 : x7.stopCause = b.flt.stopCause) :
    Keeps a ⟨b.pending, x1, x2, x3, x4, x5, x6, x7, x8, x9, b.comb, x11, x12, b.sq, x14, x15, x16, x17,
        x18, b.lock, x20, x21, x22, x23⟩ :=
  keeps_same h rfl rfl rfl h1 h2 h3 h4 rfl

/-- A state that differs in the queues alone, each kept balanced. -/
theorem keeps_sq (h : Keeps a b) (hq : queuesBalanced b → queuesBalanced s) (h0 : s.pending = b.pending)
    (h2 : s.lock = b.lock) (h3 : s.sto.mem = b.sto.mem) (h4 : s.pins.toggling = b.pins.toggling)
    (h5 : s.pins.waggle = b.pins.waggle) (h6 : s.flt.stopCause = b.flt.stopCause)
    (h7 : s.comb = b.comb) : Keeps a s := by
  refine ⟨h0.trans h.pending, fun ha => ?_⟩
  obtain ⟨hq', hl, hs, hw, hk⟩ := h.sound ha
  refine ⟨hq hq', ?_, ?_, ?_, ?_⟩
  · simpa only [locksLegal, h2] using hl
  · simpa only [storeCanonical, h3] using hs
  · simpa only [waggleLegal, h4, h5, h6] using hw
  · simpa only [combsLegal, h7] using hk

theorem updQ_keeps {n : Fin 32} {f : Queue → Queue} (h : Keeps a s)
    (hf : s.sq[n].balanced → (f s.sq[n]).balanced) : Keeps a (updQ s n f) := by
  refine keeps_sq h (fun hq => ?_) rfl rfl rfl rfl rfl rfl rfl
  intro q
  by_cases hn : n = q
  · subst hn
    simpa [updQ] using hf (hq n)
  · have : n.val ≠ q.val := fun e => hn (Fin.ext e)
    simpa [updQ, Vector.getElem_set, this] using hq q

/-- An update of a queue that leaves its account alone. -/
theorem updQ_keeps' {n : Fin 32} {f : Queue → Queue} (h : Keeps a s)
    (hf : ∀ q, q.balanced → (f q).balanced) : Keeps a (updQ s n f) := updQ_keeps h (hf _)

/-- An update of a queue that leaves its places alone. -/
theorem updQ_same {n : Fin 32} {f : Queue → Queue} (h : Keeps a s) (h1 : ∀ q, (f q).items = q.items)
    (h2 : ∀ q, (f q).credit = q.credit) (h3 : ∀ q, (f q).returning = q.returning)
    (h4 : ∀ q, (f q).visible = q.visible) : Keeps a (updQ s n f) :=
  updQ_keeps' h fun q hq => by simpa only [Queue.balanced, h1, h2, h3, h4] using hq

theorem mapQ_keeps {f : Queue → Queue} (h : Keeps a s) (hf : ∀ q, q.balanced → (f q).balanced) :
    Keeps a { s with sq := s.sq.map f } := by
  refine keeps_sq h (fun hq => ?_) rfl rfl rfl rfl rfl rfl rfl
  intro q
  simpa using hf _ (hq q)

theorem updSto_keeps {f : Store → Store} (h : Keeps a s)
    (hf : Memory.wf s.sto.mem = true → Memory.wf (f s.sto).mem = true) : Keeps a (updSto s f) := by
  refine ⟨h.pending, fun ha => ?_⟩
  obtain ⟨hq, hl, hs, hw, hk⟩ := h.sound ha
  exact ⟨hq, hl, hf hs, hw, hk⟩

theorem updSto_same {f : Store → Store} (h : Keeps a s) (h1 : (f s.sto).mem = s.sto.mem) :
    Keeps a (updSto s f) := updSto_keeps h fun hm => by rw [h1]; exact hm

theorem updComb_keeps {c : Fin 16} {f : Comb → Comb} (h : Keeps a s)
    (hf : s.comb[c].legal → (f s.comb[c]).legal) : Keeps a (updComb s c f) := by
  refine ⟨h.pending, fun ha => ?_⟩
  obtain ⟨hq, hl, hs, hw, hk⟩ := h.sound ha
  refine ⟨hq, hl, hs, hw, fun d => ?_⟩
  by_cases hn : c = d
  · subst hn
    simpa [updComb] using hf (hk c)
  · have : c.val ≠ d.val := fun e => hn (Fin.ext e)
    simpa [updComb, Vector.getElem_set, this] using hk d

/-- An update of a comb that leaves its map, assignment and repair marks alone. -/
theorem updComb_same {c : Fin 16} {f : Comb → Comb} (h : Keeps a s) (h1 : ∀ k, (f k).map = k.map)
    (h2 : ∀ k, (f k).assigned = k.assigned) (h3 : ∀ k, (f k).mapPend = k.mapPend)
    (h4 : ∀ k, (f k).repairPend = k.repairPend) (h5 : ∀ k, (f k).repairCommit = k.repairCommit) :
    Keeps a (updComb s c f) :=
  updComb_keeps h fun hk => by simpa only [Comb.legal, Comb.oneRepair, h1, h2, h3, h4, h5] using hk

theorem setLock_keeps {l : Fin 64} {o : Nat} (h : Keeps a s) (ho : o ≤ 8) :
    Keeps a { s with lock := s.lock.set l o } := by
  refine ⟨h.pending, fun ha => ?_⟩
  obtain ⟨hq, hl, hs, hw, hk⟩ := h.sound ha
  refine ⟨hq, fun m => ?_, hs, hw, hk⟩
  by_cases hn : l = m
  · subst hn
    simpa using ho
  · have : l.val ≠ m.val := fun e => hn (Fin.ext e)
    simpa [Vector.getElem_set, this] using hl m

theorem stopWaggle_keeps {c : Nat} (hc : c ≠ 0) (h : Keeps a s) : Keeps a (stopWaggle s c) := by
  refine ⟨h.pending, fun ha => ?_⟩
  obtain ⟨hq, hl, hs, -, hk⟩ := h.sound ha
  exact ⟨hq, hl, hs, ⟨by simp [stopWaggle, hc], fun _ => rfl⟩, hk⟩

theorem startWaggle_keeps (h : Keeps a s) : Keeps a (startWaggle s) := by
  refine ⟨h.pending, fun ha => ?_⟩
  obtain ⟨hq, hl, hs, -, hk⟩ := h.sound ha
  exact ⟨hq, hl, hs, ⟨by simp [startWaggle], fun e => by simp [startWaggle] at e⟩, hk⟩

theorem waggleToggle_keeps (h : Keeps a s) : Keeps a (waggleToggle s) := by
  unfold waggleToggle
  split
  · rename_i ht
    refine ⟨h.pending, fun ha => ?_⟩
    obtain ⟨hq, hl, hs, hw, hk⟩ := h.sound ha
    exact ⟨hq, hl, hs, ⟨hw.1, fun e => by simp [updPins, ht] at e⟩, hk⟩
  · exact h

/-- A comb with the same map, assignment and repair marks. -/
theorem Comb.legal_same {k k' : Comb} (h : k.legal) (h1 : k'.map = k.map) (h2 : k'.assigned = k.assigned)
    (h3 : k'.mapPend = k.mapPend) (h4 : k'.repairPend = k.repairPend)
    (h5 : k'.repairCommit = k.repairCommit) : k'.legal := by
  simpa only [Comb.legal, Comb.oneRepair, h1, h2, h3, h4, h5] using h

/-- Where a map is pending, the comb has no repair yet. -/
theorem takeMap_legal {k : Comb} {i : Fin 8} (h : k.legal) (hm : k.mapPend = some i) :
    Comb.legal { k with map := k.map.set i 8, assigned := i.val, calNoSpare := true, mapPend := none } := by
  rcases h with ⟨-, h2, -, h3⟩ | ⟨j, -, -, h3, -⟩
  · rw [hm] at h3
    obtain ⟨h4, h5⟩ := h3.resolve_left (by simp)
    exact Or.inr ⟨i, rfl, by simp [h2], rfl, h4, h5⟩
  · rw [hm] at h3
    cases h3

/-- A repair that waits, with no other on its way, goes on to its commit. -/
theorem startRepair_legal {k : Comb} {i : Fin 8} (h : k.legal) (hp : k.repairPend = some i) :
    Comb.legal { k with repairPend := none, repairCommit := some i } := by
  rcases h with ⟨h1, h2, h3, h4⟩ | ⟨j, -, -, -, h4, -⟩
  · rw [hp] at h4
    exact Or.inl ⟨h1, h2, Or.inl rfl, Or.inl (h4.resolve_right (by simp))⟩
  · rw [hp] at h4
    cases h4

/-- A repair's commit has ended: its map change is due. -/
theorem commitRepair_legal {k : Comb} {m : Option (Fin 8)} (h : k.legal) (hm : k.repairCommit = m)
    (hs : m.isSome = true) : Comb.legal { k with repairCommit := none, mapPend := m } := by
  rcases h with ⟨h1, h2, h3, -⟩ | ⟨j, -, -, -, -, h5⟩
  · have h4 : k.repairPend = none := h3.resolve_right fun e => by simp [e] at hm; simp [← hm] at hs
    exact Or.inl ⟨h1, h2, Or.inr rfl, Or.inr ⟨h4, rfl⟩⟩
  · simp [h5] at hm
    simp [← hm] at hs

theorem takeRelease_legal {k : Comb} (h : k.legal) :
    Comb.legal { k with map := Vector.ofFn fun i => i.castSucc, assigned := 15, calNoSpare := false
                        releasePend := false } := by
  refine Or.inl ⟨rfl, rfl, ?_⟩
  rcases h with ⟨-, -, h3⟩ | ⟨j, -, -, h3, h4, -⟩
  · exact h3
  · exact ⟨Or.inl h4, Or.inl h3⟩

theorem Comb.reset_legal : Comb.reset.legal := Or.inl ⟨rfl, rfl, Or.inl rfl, Or.inl rfl⟩

end Sys2Proof.Machine
end

