-- ==== Sys2Proof/Laws/KeepsChannels.lean ====
section
/-!
SUPPORT. What the operations of the channels, the ledger, the lists and the capture store keep: each takes a state that Keeps relates to `s₀` to another.
-/

namespace Sys2Proof.Machine

variable {s₀ s : State}

theorem updCh_keeps {c : Fin 128} {f : Channel → Channel} (h : Keeps s₀ s) : Keeps s₀ (updCh s c f) := by
  unfold updCh
  exact keeps_same h rfl rfl rfl rfl rfl rfl rfl rfl

theorem mapCh_keeps {f : Fin 128 → Channel → Channel} (h : Keeps s₀ s) : Keeps s₀ (mapCh s f) := by
  unfold mapCh
  exact keeps_same h rfl rfl rfl rfl rfl rfl rfl rfl

theorem updUnit_keeps {p : Fin 144} {f : CalUnit → CalUnit} (h : Keeps s₀ s) : Keeps s₀ (updUnit s p f) := by
  unfold updUnit
  exact keeps_same h rfl rfl rfl rfl rfl rfl rfl rfl

theorem updSeq_keeps {f : SeqBlock → SeqBlock} (h : Keeps s₀ s) : Keeps s₀ (updSeq s f) := by
  unfold updSeq
  exact keeps_same h rfl rfl rfl rfl rfl rfl rfl rfl

theorem updEnc_keeps {n : Fin 32} {f : Encoder → Encoder} (h : Keeps s₀ s) : Keeps s₀ (updEnc s n f) := by
  unfold updEnc
  exact keeps_same h rfl rfl rfl rfl rfl rfl rfl rfl

theorem updTimer_keeps {n : Fin 64} {f : Timer → Timer} (h : Keeps s₀ s) : Keeps s₀ (updTimer s n f) := by
  unfold updTimer
  exact keeps_same h rfl rfl rfl rfl rfl rfl rfl rfl

theorem updTrig_keeps {n : Fin 16} {f : TrigPin → TrigPin} (h : Keeps s₀ s) : Keeps s₀ (updTrig s n f) := by
  unfold updTrig
  exact keeps_same h rfl rfl rfl rfl rfl rfl rfl rfl

theorem updRing_keeps {n : Fin 31} {f : CapRing → CapRing} (h : Keeps s₀ s) : Keeps s₀ (updRing s n f) := by
  unfold updRing
  exact keeps_same h rfl rfl rfl rfl rfl rfl rfl rfl

theorem updStream_keeps {n : Fin 2048} {f : Stream → Stream} (h : Keeps s₀ s) : Keeps s₀ (updStream s n f) := by
  unfold updStream
  exact keeps_same h rfl rfl rfl rfl rfl rfl rfl rfl

theorem updDma_keeps {e : Fin 8} {f : Dma → Dma} (h : Keeps s₀ s) : Keeps s₀ (updDma s e f) := by
  unfold updDma
  exact keeps_same h rfl rfl rfl rfl rfl rfl rfl rfl

theorem updMbx_keeps {n : Fin 20} {d : Bool} {f : Mbx → Mbx} (h : Keeps s₀ s) : Keeps s₀ (updMbx s n d f) := by
  unfold updMbx
  exact keeps_same h rfl rfl rfl rfl rfl rfl rfl rfl

theorem updRa_keeps {m : Fin 2} {f : RaSet → RaSet} (h : Keeps s₀ s) : Keeps s₀ (updRa s m f) := by
  unfold updRa
  exact keeps_same h rfl rfl rfl rfl rfl rfl rfl rfl

theorem updMod_keeps {f : Mod → Mod} (h : Keeps s₀ s) : Keeps s₀ (updMod s f) := by
  unfold updMod
  exact keeps_same h rfl rfl rfl rfl rfl rfl rfl rfl

theorem updTb_keeps {f : Timebase → Timebase} (h : Keeps s₀ s) : Keeps s₀ (updTb s f) := by
  unfold updTb
  exact keeps_same h rfl rfl rfl rfl rfl rfl rfl rfl

theorem updLdg_keeps {f : Ledger → Ledger} (h : Keeps s₀ s) : Keeps s₀ (updLdg s f) := by
  unfold updLdg
  exact keeps_same h rfl rfl rfl rfl rfl rfl rfl rfl

theorem updPwr_keeps {f : Power → Power} (h : Keeps s₀ s) : Keeps s₀ (updPwr s f) := by
  unfold updPwr
  exact keeps_same h rfl rfl rfl rfl rfl rfl rfl rfl

theorem updFlt_keeps {f : Collector → Collector} (h : Keeps s₀ s)
    (h1 : (f s.flt).stopCause = s.flt.stopCause) : Keeps s₀ (updFlt s f) := by
  unfold updFlt
  exact keeps_same h rfl rfl rfl rfl rfl rfl h1 rfl

theorem updJx_keeps {f : Jx → Jx} (h : Keeps s₀ s) : Keeps s₀ (updJx s f) := by
  unfold updJx
  exact keeps_same h rfl rfl rfl rfl rfl rfl rfl rfl

theorem updSec_keeps {f : Sec → Sec} (h : Keeps s₀ s) : Keeps s₀ (updSec s f) := by
  unfold updSec
  exact keeps_same h rfl rfl rfl rfl rfl rfl rfl rfl

theorem updBoot_keeps {f : Boot → Boot} (h : Keeps s₀ s) : Keeps s₀ (updBoot s f) := by
  unfold updBoot
  exact keeps_same h rfl rfl rfl rfl rfl rfl rfl rfl

theorem updHst_keeps {f : Hst → Hst} (h : Keeps s₀ s) : Keeps s₀ (updHst s f) := by
  unfold updHst
  exact keeps_same h rfl rfl rfl rfl rfl rfl rfl rfl

theorem updPins_keeps {f : Pins → Pins} (h : Keeps s₀ s) (h1 : (f s.pins).toggling = s.pins.toggling)
    (h2 : (f s.pins).waggle = s.pins.waggle) : Keeps s₀ (updPins s f) := by
  unfold updPins
  exact keeps_same h rfl rfl rfl rfl h1 h2 rfl rfl

theorem updBus_keeps {f : Bus → Bus} (h : Keeps s₀ s) : Keeps s₀ (updBus s f) := by
  unfold updBus
  exact keeps_same h rfl rfl rfl rfl rfl rfl rfl rfl

theorem updRange_keeps {c : Fin 128} {f : ChRange → ChRange} (h : Keeps s₀ s) : Keeps s₀ (updRange s c f) := by
  unfold updRange updCh
  exact keeps_same h rfl rfl rfl rfl rfl rfl rfl rfl

theorem updSw_keeps {c : Fin 128} {f : Sweep → Sweep} (h : Keeps s₀ s) : Keeps s₀ (updSw s c f) := by
  unfold updSw updCh
  exact keeps_same h rfl rfl rfl rfl rfl rfl rfl rfl

theorem updEng_keeps {c : Fin 128} {f : Engine → Engine} (h : Keeps s₀ s) : Keeps s₀ (updEng s c f) := by
  unfold updEng updCh
  exact keeps_same h rfl rfl rfl rfl rfl rfl rfl rfl

theorem updPg_keeps {c : Fin 128} {f : Profile → Profile} (h : Keeps s₀ s) : Keeps s₀ (updPg s c f) := by
  unfold updPg updCh
  exact keeps_same h rfl rfl rfl rfl rfl rfl rfl rfl

theorem updMs_keeps {c : Fin 128} {f : Measure → Measure} (h : Keeps s₀ s) : Keeps s₀ (updMs s c f) := by
  unfold updMs updCh
  exact keeps_same h rfl rfl rfl rfl rfl rfl rfl rfl

theorem sendMsix_keeps {v : Nat} (h : Keeps s₀ s) :
    Keeps s₀ (sendMsix s v) := by
  unfold sendMsix
  repeat' first
    | with_reducible assumption
    | intro _
    | with_reducible apply keeps_ite
    | split
    | dsimp only
    | with_reducible refine keeps_mk ?_ rfl rfl rfl rfl

theorem tickLine_keeps (h : Keeps s₀ s) :
    Keeps s₀ (tickLine s) := by
  unfold tickLine
  repeat' first
    | with_reducible assumption
    | intro _
    | with_reducible apply updJx_keeps
    | with_reducible apply keeps_ite
    | split
    | dsimp only

theorem sendFrame_keeps {f : Frame} (h : Keeps s₀ s) :
    Keeps s₀ (sendFrame s f) := by
  unfold sendFrame
  repeat' first
    | with_reducible assumption
    | intro _
    | with_reducible apply keeps_ite
    | split
    | dsimp only
    | with_reducible refine keeps_mk ?_ rfl rfl rfl rfl

theorem sendAvs_keeps {mv : Nat} (h : Keeps s₀ s) :
    Keeps s₀ (sendAvs s mv) := by
  unfold sendAvs
  repeat' first
    | with_reducible assumption
    | intro _
    | with_reducible apply keeps_ite
    | split
    | dsimp only
    | with_reducible refine keeps_mk ?_ rfl rfl rfl rfl

theorem sendHost_keeps {a : Nat} {bs : List Byte} (h : Keeps s₀ s) :
    Keeps s₀ (sendHost s a bs) := by
  unfold sendHost
  repeat' first
    | with_reducible assumption
    | intro _
    | with_reducible apply keeps_ite
    | split
    | dsimp only
    | with_reducible refine keeps_mk ?_ rfl rfl rfl rfl

theorem send_keeps {kind source detail : Nat} (h : Keeps s₀ s) :
    Keeps s₀ (send s kind source detail) := by
  unfold send
  repeat' first
    | with_reducible assumption
    | intro _
    | with_reducible apply keeps_ite
    | split
    | dsimp only
    | with_reducible refine keeps_mk ?_ rfl rfl rfl rfl

theorem raiseState_keeps {kind source detail : Nat} (h : Keeps s₀ s) :
    Keeps s₀ (raiseState s kind source detail) := by
  unfold raiseState
  repeat' first
    | with_reducible assumption
    | intro _
    | with_reducible apply send_keeps
    | with_reducible apply keeps_ite
    | split
    | dsimp only

theorem endWith_keeps {kind source detail : Nat} (h : Keeps s₀ s) :
    Keeps s₀ (endWith s kind source detail) := by
  unfold endWith
  repeat' first
    | with_reducible assumption
    | intro _
    | with_reducible apply send_keeps
    | with_reducible apply keeps_ite
    | split
    | dsimp only

theorem endState_keeps {kind source : Nat} (h : Keeps s₀ s) :
    Keeps s₀ (endState s kind source) := by
  unfold endState
  repeat' first
    | with_reducible assumption
    | intro _
    | with_reducible apply endWith_keeps
    | with_reducible apply keeps_ite
    | split
    | dsimp only

theorem sendUnit_keeps {c : Fin 128} {kind d : Nat} (h : Keeps s₀ s) :
    Keeps s₀ (sendUnit s c kind d) := by
  unfold sendUnit
  repeat' first
    | with_reducible assumption
    | intro _
    | with_reducible apply send_keeps
    | with_reducible apply keeps_ite
    | split
    | dsimp only

theorem raiseUnit_keeps {c : Fin 128} {kind d : Nat} (h : Keeps s₀ s) :
    Keeps s₀ (raiseUnit s c kind d) := by
  unfold raiseUnit
  repeat' first
    | with_reducible assumption
    | intro _
    | with_reducible apply raiseState_keeps
    | with_reducible apply keeps_ite
    | split
    | dsimp only

theorem endUnit_keeps {c : Fin 128} {kind : Nat} (h : Keeps s₀ s) :
    Keeps s₀ (endUnit s c kind) := by
  unfold endUnit
  repeat' first
    | with_reducible assumption
    | intro _
    | with_reducible apply endWith_keeps
    | with_reducible apply keeps_ite
    | split
    | dsimp only

theorem cmdRej_keeps (h : Keeps s₀ s) :
    Keeps s₀ (cmdRej s) := by
  unfold cmdRej
  repeat' first
    | with_reducible assumption
    | intro _
    | with_reducible apply updMod_keeps
    | with_reducible apply keeps_ite
    | split
    | dsimp only

theorem setMode_keeps {m : Mode} (h : Keeps s₀ s) :
    Keeps s₀ (setMode s m) := by
  unfold setMode
  repeat' first
    | with_reducible assumption
    | intro _
    | with_reducible apply sendMsix_keeps
    | with_reducible apply updMod_keeps
    | with_reducible apply keeps_ite
    | split
    | dsimp only

theorem storePerm_keeps {a : Nat} (h : Keeps s₀ s) :
    Keeps s₀ (storePerm s a) := by
  unfold storePerm
  repeat' first
    | with_reducible assumption
    | intro _
    | with_reducible refine updSto_same ?_ rfl
    | with_reducible apply keeps_ite
    | split
    | dsimp only
    | with_reducible refine keeps_mk ?_ rfl rfl rfl rfl

theorem storeWrite_keeps {x : Nat} {bs : List Byte} (h : Keeps s₀ s) :
    Keeps s₀ (storeWrite s x bs) := updSto_keeps h memWriteN_wf

theorem idle_keeps (h : Keeps s₀ s) :
    Keeps s₀ (idle s) := by
  unfold idle
  repeat' first
    | with_reducible assumption
    | intro _
    | with_reducible apply tickLine_keeps
    | with_reducible apply updTb_keeps
    | with_reducible apply keeps_ite
    | split
    | dsimp only
    | with_reducible refine keeps_mk ?_ rfl rfl rfl rfl

theorem engineFrame_keeps {c : Fin 128} {T f : Rat} (h : Keeps s₀ s) :
    Keeps s₀ (engineFrame s c T f) := by
  unfold engineFrame
  repeat' first
    | with_reducible assumption
    | intro _
    | with_reducible apply updCh_keeps
    | with_reducible apply raiseUnit_keeps
    | with_reducible apply endUnit_keeps
    | with_reducible apply keeps_ite
    | split
    | dsimp only

theorem sendNew_keeps {type dst arg : Nat} {payload : List Byte} (h : Keeps s₀ s) :
    Keeps s₀ (sendNew s type dst arg payload) := by
  unfold sendNew
  repeat' first
    | with_reducible assumption
    | intro _
    | with_reducible apply sendFrame_keeps
    | with_reducible apply updJx_keeps
    | with_reducible apply keeps_ite
    | split
    | dsimp only

theorem sendReply_keeps {type : Nat} {req : Frame} {arg : Nat} {payload : List Byte} (h : Keeps s₀ s) :
    Keeps s₀ (sendReply s type req arg payload) := by
  unfold sendReply
  repeat' first
    | with_reducible assumption
    | intro _
    | with_reducible apply sendFrame_keeps
    | with_reducible apply keeps_ite
    | split
    | dsimp only

theorem freeLocks_keeps {id : Nat} (h : Keeps s₀ s) : Keeps s₀ (freeLocks s id) := by
  refine ⟨h.pending, fun ha => ?_⟩
  obtain ⟨hq, hl, hs, hw, hk⟩ := h.sound ha
  refine ⟨hq, fun l => ?_, hs, hw, hk⟩
  simp only [freeLocks, Fin.getElem_fin, Vector.getElem_map]
  split
  · exact Nat.zero_le _
  · exact hl l

theorem leaveFormed_keeps (h : Keeps s₀ s) :
    Keeps s₀ (leaveFormed s) := by
  unfold leaveFormed
  repeat' first
    | with_reducible assumption
    | intro _
    | with_reducible apply freeLocks_keeps
    | with_reducible apply keeps_ite
    | split
    | dsimp only

theorem closeBypass_keeps (h : Keeps s₀ s) :
    Keeps s₀ (closeBypass s) := by
  unfold closeBypass
  repeat' first
    | with_reducible assumption
    | intro _
    | with_reducible apply updJx_keeps
    | with_reducible apply leaveFormed_keeps
    | with_reducible apply keeps_ite
    | split
    | dsimp only

theorem openBypass_keeps (h : Keeps s₀ s) :
    Keeps s₀ (openBypass s) := by
  unfold openBypass
  repeat' first
    | with_reducible assumption
    | intro _
    | with_reducible apply updJx_keeps
    | with_reducible apply keeps_ite
    | split
    | dsimp only

theorem tryJoin_keeps (h : Keeps s₀ s) :
    Keeps s₀ (tryJoin s) := by
  unfold tryJoin
  repeat' first
    | with_reducible assumption
    | intro _
    | with_reducible apply openBypass_keeps
    | with_reducible apply keeps_ite
    | split
    | dsimp only

theorem ringAtSafe_keeps (h : Keeps s₀ s) :
    Keeps s₀ (ringAtSafe s) := by
  unfold ringAtSafe
  repeat' first
    | with_reducible assumption
    | intro _
    | with_reducible apply updJx_keeps
    | with_reducible apply keeps_ite
    | split
    | dsimp only

theorem takeRingEvent_keeps {e : RingEvent} (h : Keeps s₀ s) :
    Keeps s₀ (takeRingEvent s e) := by
  unfold takeRingEvent
  repeat' first
    | with_reducible assumption
    | intro _
    | with_reducible apply updSeq_keeps
    | with_reducible apply send_keeps
    | with_reducible apply keeps_ite
    | split
    | dsimp only

theorem sendRingEvent_keeps {event tick : Nat} {hold : Bool} (h : Keeps s₀ s) :
    Keeps s₀ (sendRingEvent s event tick hold) := by
  unfold sendRingEvent
  repeat' first
    | with_reducible assumption
    | intro _
    | with_reducible apply takeRingEvent_keeps
    | with_reducible apply updJx_keeps
    | with_reducible apply sendFrame_keeps
    | with_reducible apply keeps_ite
    | split
    | dsimp only

theorem requestVcore_keeps {mv : Nat} (h : Keeps s₀ s) :
    Keeps s₀ (requestVcore s mv) := by
  unfold requestVcore
  repeat' first
    | with_reducible assumption
    | intro _
    | with_reducible apply sendAvs_keeps
    | with_reducible apply updLdg_keeps
    | with_reducible apply keeps_ite
    | split
    | dsimp only

theorem steer_keeps (h : Keeps s₀ s) :
    Keeps s₀ (steer s) := by
  unfold steer
  repeat' first
    | with_reducible assumption
    | intro _
    | with_reducible apply requestVcore_keeps
    | with_reducible apply keeps_ite
    | split
    | dsimp only

theorem trackMargin_keeps (h : Keeps s₀ s) :
    Keeps s₀ (trackMargin s) := by
  unfold trackMargin
  repeat' first
    | with_reducible assumption
    | intro _
    | with_reducible apply updLdg_keeps
    | with_reducible apply keeps_ite
    | split
    | dsimp only

theorem refreshRates_keeps (h : Keeps s₀ s) :
    Keeps s₀ (refreshRates s) := by
  unfold refreshRates
  repeat' first
    | with_reducible assumption
    | intro _
    | with_reducible refine updSto_same ?_ rfl
    | with_reducible apply keeps_ite
    | split
    | dsimp only

theorem underPeriod_keeps {n : Nat} (h : Keeps s₀ s) :
    Keeps s₀ (underPeriod s n) := by
  unfold underPeriod
  repeat' first
    | with_reducible assumption
    | intro _
    | with_reducible apply refreshRates_keeps
    | with_reducible apply updTb_keeps
    | with_reducible apply keeps_ite
    | split
    | dsimp only

theorem noteDecision_keeps {t : State} {as : List Account} {v : Verdict} (h : Keeps s₀ s) :
    Keeps s₀ (noteDecision s t as v) := by
  unfold noteDecision
  repeat' first
    | with_reducible assumption
    | with_reducible apply steer_keeps
    | with_reducible apply updLdg_keeps
    | split
    | dsimp only

theorem decideReq_keeps {t : State} {as : List Account} {bw : Bool} (h : Keeps s₀ s) (ht : Keeps s₀ t) :
    Keeps s₀ (decideReq s t as bw).2 := by
  unfold decideReq
  repeat' first
    | with_reducible assumption
    | intro _
    | with_reducible apply noteDecision_keeps
    | with_reducible apply keeps_ite
    | split
    | dsimp only

theorem admitStart_keeps {c : Fin 128} (h : Keeps s₀ s) :
    Keeps s₀ (admitStart s c).2 := by
  unfold admitStart
  repeat' first
    | with_reducible assumption
    | intro _
    | with_reducible apply updCh_keeps
    | with_reducible apply decideReq_keeps
    | with_reducible apply updLdg_keeps
    | with_reducible apply keeps_ite
    | with_reducible refine keeps_snd ?_ ‹_ = (_, _)›
    | split
    | dsimp only

theorem admitArm_keeps {c : Fin 128} (h : Keeps s₀ s) :
    Keeps s₀ (admitArm s c).2 := by
  unfold admitArm
  repeat' first
    | with_reducible assumption
    | intro _
    | with_reducible apply decideReq_keeps
    | with_reducible apply updSw_keeps
    | with_reducible apply keeps_ite
    | with_reducible refine keeps_snd ?_ ‹_ = (_, _)›
    | split
    | dsimp only

theorem admitStream_keeps {n : Fin 2048} (h : Keeps s₀ s) :
    Keeps s₀ (admitStream s n).2 := by
  unfold admitStream
  repeat' first
    | with_reducible assumption
    | intro _
    | with_reducible apply decideReq_keeps
    | with_reducible apply updStream_keeps
    | with_reducible apply keeps_ite
    | with_reducible refine keeps_snd ?_ ‹_ = (_, _)›
    | split
    | dsimp only

theorem admitQueue_keeps {q : Fin 32} (h : Keeps s₀ s) :
    Keeps s₀ (admitQueue s q).2 := by
  unfold admitQueue
  repeat' first
    | with_reducible assumption
    | intro _
    | with_reducible apply decideReq_keeps
    | with_reducible refine updQ_same ?_ ?_ ?_ ?_ ?_
    | with_reducible apply keeps_ite
    | with_reducible refine keeps_snd ?_ ‹_ = (_, _)›
    | split
    | dsimp only
    | rfl

theorem admitDma_keeps {e : Fin 8} (h : Keeps s₀ s) :
    Keeps s₀ (admitDma s e).2 := by
  unfold admitDma
  repeat' first
    | with_reducible assumption
    | intro _
    | with_reducible apply updDma_keeps
    | with_reducible apply updLdg_keeps
    | with_reducible apply decideReq_keeps
    | with_reducible apply keeps_ite
    | with_reducible refine keeps_snd ?_ ‹_ = (_, _)›
    | split
    | dsimp only

theorem admitFrame_keeps {n : Nat} (h : Keeps s₀ s) :
    Keeps s₀ (admitFrame s n).2 := by
  unfold admitFrame
  repeat' first
    | with_reducible assumption
    | intro _
    | with_reducible apply underPeriod_keeps
    | with_reducible apply noteDecision_keeps
    | with_reducible apply keeps_ite
    | split
    | dsimp only

theorem speedMargins_keeps (h : Keeps s₀ s) :
    Keeps s₀ (speedMargins s) := by
  unfold speedMargins
  repeat' first
    | with_reducible assumption
    | intro _
    | with_reducible apply raiseState_keeps
    | with_reducible apply endWith_keeps
    | with_reducible refine keeps_foldl ?_ ?_
    | with_reducible apply keeps_ite
    | split
    | dsimp only

theorem reachTick_keeps {t : Nat} (h : Keeps s₀ s) :
    Keeps s₀ (reachTick s t) := by
  unfold reachTick
  repeat' first
    | with_reducible assumption
    | intro _
    | with_reducible apply tickLine_keeps
    | with_reducible apply updTb_keeps
    | with_reducible apply keeps_ite
    | split
    | dsimp only

theorem writePair_keeps {c : Fin 128} {hi lo : DWord} (h : Keeps s₀ s) :
    Keeps s₀ (writePair s c hi lo) := by
  unfold writePair
  repeat' first
    | with_reducible assumption
    | intro _
    | with_reducible apply updCh_keeps
    | with_reducible apply keeps_ite
    | split
    | dsimp only

theorem ownedBy_keeps {c : Fin 128} {k : State → State} (h : Keeps s₀ s) (hk : ∀ s, Keeps s₀ s → Keeps s₀ (k s)) :
    Keeps s₀ (ownedBy s c k) := by
  unfold ownedBy
  repeat' first
    | with_reducible assumption
    | intro _
    | with_reducible apply keeps_ite
    | with_reducible apply updSw_keeps
    | apply hk
    | split
    | dsimp only

theorem writeComp_keeps {c : Fin 128} {hi : Bool} {v : DWord} (h : Keeps s₀ s) :
    Keeps s₀ (writeComp s c hi v) := by
  unfold writeComp
  repeat' first
    | with_reducible assumption
    | intro _
    | with_reducible apply ownedBy_keeps
    | with_reducible apply writePair_keeps
    | with_reducible apply keeps_ite
    | split
    | dsimp only

theorem writeTarget_keeps {c : Fin 128} {v : DWord} (h : Keeps s₀ s) :
    Keeps s₀ (writeTarget s c v) := by
  unfold writeTarget
  repeat' first
    | with_reducible assumption
    | intro _
    | with_reducible apply ownedBy_keeps
    | with_reducible apply updPg_keeps
    | with_reducible apply keeps_ite
    | split
    | dsimp only

theorem requestRanges_keeps {c : Fin 128} {v i : Nat} (h : Keeps s₀ s) :
    Keeps s₀ (requestRanges s c v i) := by
  unfold requestRanges
  repeat' first
    | with_reducible assumption
    | intro _
    | with_reducible apply updRange_keeps
    | with_reducible apply keeps_ite
    | split
    | dsimp only

theorem writeRange_keeps {c : Fin 128} {w : Word} (h : Keeps s₀ s) :
    Keeps s₀ (writeRange s c w) := by
  unfold writeRange
  repeat' first
    | with_reducible assumption
    | intro _
    | with_reducible apply ownedBy_keeps
    | with_reducible apply updRange_keeps
    | with_reducible apply requestRanges_keeps
    | with_reducible apply keeps_ite
    | split
    | dsimp only

theorem fetchStep_keeps {c : Fin 128} {pos b : Nat} {first : Bool} (h : Keeps s₀ s) :
    Keeps s₀ (fetchStep s c pos b first) := by
  unfold fetchStep
  repeat' first
    | with_reducible assumption
    | intro _
    | with_reducible apply updSw_keeps
    | with_reducible apply send_keeps
    | with_reducible apply keeps_ite
    | split
    | dsimp only

theorem setBase_keeps {c : Fin 128} {b : Nat} (h : Keeps s₀ s) :
    Keeps s₀ (setBase s c b) := by
  unfold setBase
  repeat' first
    | with_reducible assumption
    | intro _
    | with_reducible apply updSw_keeps
    | with_reducible apply keeps_ite
    | split
    | dsimp only

theorem startStep_keeps {c : Fin 128} {b : Nat} (h : Keeps s₀ s) :
    Keeps s₀ (startStep s c b) := by
  unfold startStep
  repeat' first
    | with_reducible assumption
    | intro _
    | with_reducible apply updSw_keeps
    | with_reducible apply requestRanges_keeps
    | with_reducible apply writePair_keeps
    | with_reducible apply updCh_keeps
    | with_reducible apply setBase_keeps
    | with_reducible apply keeps_ite
    | split
    | dsimp only

theorem leaveArmed_keeps {c : Fin 128} {b : Nat} (h : Keeps s₀ s) :
    Keeps s₀ (leaveArmed s c b) := by
  unfold leaveArmed
  repeat' first
    | with_reducible assumption
    | intro _
    | with_reducible apply fetchStep_keeps
    | with_reducible apply keeps_ite
    | split
    | dsimp only

theorem armList_keeps {c : Fin 128} (h : Keeps s₀ s) :
    Keeps s₀ (armList s c) := by
  unfold armList
  repeat' first
    | with_reducible assumption
    | intro _
    | with_reducible apply updSw_keeps
    | with_reducible apply keeps_ite
    | split
    | dsimp only

theorem decideArm_keeps {c : Fin 128} (h : Keeps s₀ s) :
    Keeps s₀ (decideArm s c) := by
  unfold decideArm
  repeat' first
    | with_reducible assumption
    | intro _
    | with_reducible apply updSw_keeps
    | with_reducible apply admitArm_keeps
    | with_reducible apply keeps_ite
    | with_reducible refine keeps_snd ?_ ‹_ = (_, _)›
    | split
    | dsimp only

theorem deliver_keeps {region : Option (Fin 4)} {src idx edge t : Nat} (h : Keeps s₀ s) :
    Keeps s₀ (deliver s region src idx edge t) := by
  unfold deliver
  repeat' first
    | with_reducible assumption
    | intro _
    | with_reducible apply mapCh_keeps
    | with_reducible apply keeps_ite
    | split
    | dsimp only

theorem startPulse_keeps {pin : Fin 16} {t : Nat} (h : Keeps s₀ s) :
    Keeps s₀ (startPulse s pin t) := by
  unfold startPulse
  repeat' first
    | with_reducible assumption
    | intro _
    | with_reducible apply updTrig_keeps
    | with_reducible apply keeps_ite
    | split
    | dsimp only

theorem emitTo_keeps {region : Fin 4} {dest idx t : Nat} (h : Keeps s₀ s) :
    Keeps s₀ (emitTo s region dest idx t) := by
  unfold emitTo
  repeat' first
    | with_reducible assumption
    | intro _
    | with_reducible apply startPulse_keeps
    | with_reducible apply sendRingEvent_keeps
    | with_reducible apply deliver_keeps
    | with_reducible apply keeps_ite
    | split
    | dsimp only

theorem emitOut_keeps {c : Fin 128} {t trigOut : Nat} (h : Keeps s₀ s) :
    Keeps s₀ (emitOut s c t trigOut) := by
  unfold emitOut
  repeat' first
    | with_reducible assumption
    | intro _
    | with_reducible apply emitTo_keeps
    | with_reducible apply keeps_ite
    | split
    | dsimp only

theorem endStep_keeps {c : Fin 128} {p : SweepStep} {b : Nat} (h : Keeps s₀ s) :
    Keeps s₀ (endStep s c p b) := by
  unfold endStep
  repeat' first
    | with_reducible assumption
    | intro _
    | with_reducible apply emitOut_keeps
    | with_reducible apply updSw_keeps
    | with_reducible apply fetchStep_keeps
    | with_reducible apply startStep_keeps
    | with_reducible apply keeps_ite
    | split
    | dsimp only

theorem endLateStep_keeps {c : Fin 128} {b : Nat} (h : Keeps s₀ s) :
    Keeps s₀ (endLateStep s c b) := by
  unfold endLateStep
  repeat' first
    | with_reducible assumption
    | intro _
    | with_reducible apply endStep_keeps
    | with_reducible apply keeps_ite
    | split
    | dsimp only

theorem listBoundary_keeps {c : Fin 128} {b : Nat} (h : Keeps s₀ s) :
    Keeps s₀ (listBoundary s c b) := by
  unfold listBoundary
  repeat' first
    | with_reducible assumption
    | intro _
    | with_reducible apply updSw_keeps
    | with_reducible apply idle_keeps
    | with_reducible apply leaveArmed_keeps
    | with_reducible apply endLateStep_keeps
    | with_reducible apply startStep_keeps
    | with_reducible apply setBase_keeps
    | with_reducible apply keeps_ite
    | split
    | dsimp only

theorem endTests_keeps {c : Fin 128} (h : Keeps s₀ s) :
    Keeps s₀ (endTests s c) := by
  unfold endTests
  repeat' first
    | with_reducible assumption
    | intro _
    | with_reducible apply endUnit_keeps
    | with_reducible refine keeps_foldl ?_ ?_
    | with_reducible apply keeps_ite
    | split
    | dsimp only

theorem reachStopped_keeps {c : Fin 128} (h : Keeps s₀ s) :
    Keeps s₀ (reachStopped s c) := by
  unfold reachStopped
  repeat' first
    | with_reducible assumption
    | intro _
    | with_reducible apply endTests_keeps
    | with_reducible apply updCh_keeps
    | with_reducible apply keeps_ite
    | split
    | dsimp only

theorem connectAtEntry_keeps (h : Keeps s₀ s) :
    Keeps s₀ (connectAtEntry s) := by
  unfold connectAtEntry
  repeat' first
    | with_reducible assumption
    | intro _
    | with_reducible apply mapCh_keeps
    | with_reducible apply keeps_ite
    | split
    | dsimp only

theorem releaseAll_keeps (h : Keeps s₀ s) :
    Keeps s₀ (releaseAll s) := by
  unfold releaseAll
  repeat' first
    | with_reducible assumption
    | intro _
    | with_reducible apply mapCh_keeps
    | with_reducible apply keeps_ite
    | split
    | dsimp only

theorem completeSafe_keeps (h : Keeps s₀ s) :
    Keeps s₀ (completeSafe s) := by
  unfold completeSafe
  repeat' first
    | with_reducible assumption
    | intro _
    | with_reducible apply setMode_keeps
    | with_reducible apply updMod_keeps
    | with_reducible apply ringAtSafe_keeps
    | with_reducible apply connectAtEntry_keeps
    | with_reducible apply releaseAll_keeps
    | with_reducible apply keeps_ite
    | split
    | dsimp only

theorem startCh_keeps {c : Fin 128} (h : Keeps s₀ s) :
    Keeps s₀ (startCh s c) := by
  unfold startCh
  repeat' first
    | with_reducible assumption
    | intro _
    | with_reducible apply updCh_keeps
    | with_reducible apply keeps_ite
    | split
    | dsimp only

theorem stopCh_keeps {c : Fin 128} (h : Keeps s₀ s) :
    Keeps s₀ (stopCh s c) := by
  unfold stopCh
  repeat' first
    | with_reducible assumption
    | intro _
    | with_reducible apply updCh_keeps
    | with_reducible apply updSw_keeps
    | with_reducible apply reachStopped_keeps
    | with_reducible apply keeps_ite
    | split
    | dsimp only

theorem stopCommand_keeps {c : Fin 128} (h : Keeps s₀ s) :
    Keeps s₀ (stopCommand s c) := by
  unfold stopCommand
  repeat' first
    | with_reducible assumption
    | intro _
    | with_reducible apply completeSafe_keeps
    | with_reducible apply stopCh_keeps
    | with_reducible apply keeps_ite
    | split
    | dsimp only

theorem takeSafedStop_keeps {c : Fin 128} (h : Keeps s₀ s) :
    Keeps s₀ (takeSafedStop s c) := by
  unfold takeSafedStop
  repeat' first
    | with_reducible assumption
    | intro _
    | with_reducible apply reachStopped_keeps
    | with_reducible apply keeps_ite
    | split
    | dsimp only

theorem takeStart_keeps {c : Fin 128} (h : Keeps s₀ s) :
    Keeps s₀ (takeStart s c) := by
  unfold takeStart
  repeat' first
    | with_reducible assumption
    | intro _
    | with_reducible apply updCh_keeps
    | with_reducible apply admitStart_keeps
    | with_reducible apply keeps_ite
    | with_reducible refine keeps_snd ?_ ‹_ = (_, _)›
    | split
    | dsimp only

theorem rangeBoundary_keeps {c : Fin 128} (h : Keeps s₀ s) :
    Keeps s₀ (rangeBoundary s c) := by
  unfold rangeBoundary
  repeat' first
    | with_reducible assumption
    | intro _
    | with_reducible apply updRange_keeps
    | with_reducible apply updCh_keeps
    | with_reducible apply keeps_ite
    | split
    | dsimp only

theorem writeBlock_keeps {n : Fin 31} {data desc : List Byte} (h : Keeps s₀ s) :
    Keeps s₀ (writeBlock s n data desc) := by
  unfold writeBlock
  repeat' first
    | with_reducible assumption
    | intro _
    | with_reducible apply storeWrite_keeps
    | with_reducible apply updRing_keeps
    | with_reducible apply keeps_ite
    | split
    | dsimp only

theorem putBlock_keeps {n : Fin 2048} {ts count : Nat} {part : Bool} {data : List Byte} (h : Keeps s₀ s) :
    Keeps s₀ (putBlock s n ts count part data) := by
  unfold putBlock
  repeat' first
    | with_reducible assumption
    | intro _
    | with_reducible apply writeBlock_keeps
    | with_reducible apply keeps_ite
    | split
    | dsimp only

theorem closeBlock_keeps {n : Fin 2048} (h : Keeps s₀ s) :
    Keeps s₀ (closeBlock s n) := by
  unfold closeBlock
  repeat' first
    | with_reducible assumption
    | intro _
    | with_reducible apply putBlock_keeps
    | with_reducible apply updStream_keeps
    | with_reducible apply keeps_ite
    | split
    | dsimp only

theorem addSample_keeps {n : Fin 2048} {t : Nat} {w : Word} (h : Keeps s₀ s) :
    Keeps s₀ (addSample s n t w) := by
  unfold addSample
  repeat' first
    | with_reducible assumption
    | intro _
    | with_reducible apply updStream_keeps
    | with_reducible apply closeBlock_keeps
    | with_reducible apply keeps_ite
    | split
    | dsimp only

theorem closeRaw_keeps {n : Fin 2048} (h : Keeps s₀ s) :
    Keeps s₀ (closeRaw s n) := by
  unfold closeRaw
  repeat' first
    | with_reducible assumption
    | intro _
    | with_reducible apply putBlock_keeps
    | with_reducible apply updStream_keeps
    | with_reducible apply keeps_ite
    | split
    | dsimp only

theorem addCode_keeps {n : Fin 2048} {code : Nat} (h : Keeps s₀ s) :
    Keeps s₀ (addCode s n code) := by
  unfold addCode
  repeat' first
    | with_reducible assumption
    | intro _
    | with_reducible apply updStream_keeps
    | with_reducible apply closeRaw_keeps
    | with_reducible apply keeps_ite
    | split
    | dsimp only

theorem addRaw_keeps {n : Fin 2048} {before : Nat} {codes : List Nat} (h : Keeps s₀ s) :
    Keeps s₀ (addRaw s n before codes) := by
  unfold addRaw
  repeat' first
    | with_reducible assumption
    | intro _
    | with_reducible apply updStream_keeps
    | with_reducible apply addCode_keeps
    | with_reducible refine keeps_foldl ?_ ?_
    | with_reducible apply keeps_ite
    | split
    | dsimp only

theorem closeAssembly_keeps {n : Fin 2048} (h : Keeps s₀ s) :
    Keeps s₀ (closeAssembly s n) := by
  unfold closeAssembly
  repeat' first
    | with_reducible assumption
    | intro _
    | with_reducible apply closeRaw_keeps
    | with_reducible apply closeBlock_keeps
    | with_reducible apply keeps_ite
    | split
    | dsimp only

theorem captureFrame_keeps {raw : List (Fin 2048 × List Nat)} {t : Nat} (h : Keeps s₀ s) :
    Keeps s₀ (captureFrame s raw t) := by
  unfold captureFrame
  repeat' first
    | with_reducible assumption
    | intro _
    | with_reducible apply addRaw_keeps
    | with_reducible apply addSample_keeps
    | with_reducible refine keeps_foldl ?_ ?_
    | with_reducible apply keeps_ite
    | split
    | dsimp only

theorem rawUntilNow_keeps {n : Fin 2048} (h : Keeps s₀ s) :
    Keeps s₀ (rawUntilNow s n) := by
  unfold rawUntilNow
  repeat' first
    | with_reducible assumption
    | intro _
    | with_reducible apply addRaw_keeps
    | with_reducible apply keeps_ite
    | split
    | dsimp only
    | with_reducible refine keeps_mk ?_ rfl rfl rfl rfl

theorem endStream_keeps {n : Fin 2048} (h : Keeps s₀ s) :
    Keeps s₀ (endStream s n) := by
  unfold endStream
  repeat' first
    | with_reducible assumption
    | intro _
    | with_reducible apply updStream_keeps
    | with_reducible apply closeAssembly_keeps
    | with_reducible apply rawUntilNow_keeps
    | with_reducible apply keeps_ite
    | split
    | dsimp only

theorem endStreams_keeps (h : Keeps s₀ s) :
    Keeps s₀ (endStreams s) := by
  unfold endStreams
  repeat' first
    | with_reducible assumption
    | intro _
    | with_reducible apply endStream_keeps
    | with_reducible refine updSto_same ?_ rfl
    | with_reducible refine keeps_foldl ?_ ?_
    | with_reducible apply keeps_ite
    | split
    | dsimp only
    | with_reducible refine keeps_mk ?_ rfl rfl rfl rfl

theorem openStr_keeps {n : Fin 2048} (h : Keeps s₀ s) :
    Keeps s₀ (openStr s n) := by
  unfold openStr
  repeat' first
    | with_reducible assumption
    | intro _
    | with_reducible apply updStream_keeps
    | with_reducible apply keeps_ite
    | split
    | dsimp only

theorem decideStream_keeps {n : Fin 2048} (h : Keeps s₀ s) :
    Keeps s₀ (decideStream s n) := by
  unfold decideStream
  repeat' first
    | with_reducible assumption
    | intro _
    | with_reducible apply updStream_keeps
    | with_reducible apply admitStream_keeps
    | with_reducible apply keeps_ite
    | with_reducible refine keeps_snd ?_ ‹_ = (_, _)›
    | split
    | dsimp only

theorem decideStreams_keeps (h : Keeps s₀ s) :
    Keeps s₀ (decideStreams s) := by
  unfold decideStreams
  repeat' first
    | with_reducible assumption
    | intro _
    | with_reducible apply decideStream_keeps
    | with_reducible refine keeps_foldl ?_ ?_
    | with_reducible apply keeps_ite
    | split
    | dsimp only

theorem closeStr_keeps {n : Fin 2048} (h : Keeps s₀ s) :
    Keeps s₀ (closeStr s n) := by
  unfold closeStr
  repeat' first
    | with_reducible assumption
    | intro _
    | with_reducible apply endStream_keeps
    | with_reducible apply updStream_keeps
    | with_reducible apply keeps_ite
    | split
    | dsimp only

theorem cutWindow_keeps {c : Fin 128} (h : Keeps s₀ s) :
    Keeps s₀ (cutWindow s c) := by
  unfold cutWindow
  repeat' first
    | with_reducible assumption
    | intro _
    | with_reducible apply updSw_keeps
    | with_reducible apply keeps_ite
    | split
    | dsimp only
    | with_reducible refine keeps_mk ?_ rfl rfl rfl rfl

end Sys2Proof.Machine
end

