-- ==== Sys2Proof/Laws/State.lean ====
section
/-!
SUPPORT. What each elementary update of the state leaves in every field of it: its own field takes the new value,
every other keeps its own.
-/

namespace Sys2Proof.Machine

variable (s : State)

/-! ## updCh -/

@[simp] theorem updCh_pending (c : Fin 128) (f : Channel → Channel) : (updCh s c f).pending = s.pending := rfl
@[simp] theorem updCh_freshCount (c : Fin 128) (f : Channel → Channel) :
    (updCh s c f).freshCount = s.freshCount := rfl
@[simp] theorem updCh_mod (c : Fin 128) (f : Channel → Channel) : (updCh s c f).mod = s.mod := rfl
@[simp] theorem updCh_pins (c : Fin 128) (f : Channel → Channel) : (updCh s c f).pins = s.pins := rfl
@[simp] theorem updCh_tb (c : Fin 128) (f : Channel → Channel) : (updCh s c f).tb = s.tb := rfl
@[simp] theorem updCh_ldg (c : Fin 128) (f : Channel → Channel) : (updCh s c f).ldg = s.ldg := rfl
@[simp] theorem updCh_pwr (c : Fin 128) (f : Channel → Channel) : (updCh s c f).pwr = s.pwr := rfl
@[simp] theorem updCh_flt (c : Fin 128) (f : Channel → Channel) : (updCh s c f).flt = s.flt := rfl
@[simp] theorem updCh_ch (c : Fin 128) (f : Channel → Channel) : (updCh s c f).ch = s.ch.set c (f s.ch[c]) := rfl
@[simp] theorem updCh_unit (c : Fin 128) (f : Channel → Channel) : (updCh s c f).unit = s.unit := rfl
@[simp] theorem updCh_comb (c : Fin 128) (f : Channel → Channel) : (updCh s c f).comb = s.comb := rfl
@[simp] theorem updCh_cal (c : Fin 128) (f : Channel → Channel) : (updCh s c f).cal = s.cal := rfl
@[simp] theorem updCh_seq (c : Fin 128) (f : Channel → Channel) : (updCh s c f).seq = s.seq := rfl
@[simp] theorem updCh_sq (c : Fin 128) (f : Channel → Channel) : (updCh s c f).sq = s.sq := rfl
@[simp] theorem updCh_sto (c : Fin 128) (f : Channel → Channel) : (updCh s c f).sto = s.sto := rfl
@[simp] theorem updCh_jx (c : Fin 128) (f : Channel → Channel) : (updCh s c f).jx = s.jx := rfl
@[simp] theorem updCh_hst (c : Fin 128) (f : Channel → Channel) : (updCh s c f).hst = s.hst := rfl
@[simp] theorem updCh_dma (c : Fin 128) (f : Channel → Channel) : (updCh s c f).dma = s.dma := rfl
@[simp] theorem updCh_mbx (c : Fin 128) (f : Channel → Channel) : (updCh s c f).mbx = s.mbx := rfl
@[simp] theorem updCh_lock (c : Fin 128) (f : Channel → Channel) : (updCh s c f).lock = s.lock := rfl
@[simp] theorem updCh_boot (c : Fin 128) (f : Channel → Channel) : (updCh s c f).boot = s.boot := rfl
@[simp] theorem updCh_sec (c : Fin 128) (f : Channel → Channel) : (updCh s c f).sec = s.sec := rfl
@[simp] theorem updCh_bus (c : Fin 128) (f : Channel → Channel) : (updCh s c f).bus = s.bus := rfl
@[simp] theorem updCh_out (c : Fin 128) (f : Channel → Channel) : (updCh s c f).out = s.out := rfl

/-! ## mapCh -/

@[simp] theorem mapCh_pending (f : Fin 128 → Channel → Channel) :
    (mapCh s f).pending = s.pending := by unfold mapCh; rfl
@[simp] theorem mapCh_freshCount (f : Fin 128 → Channel → Channel) :
    (mapCh s f).freshCount = s.freshCount := by unfold mapCh; rfl
@[simp] theorem mapCh_mod (f : Fin 128 → Channel → Channel) : (mapCh s f).mod = s.mod := by unfold mapCh; rfl
@[simp] theorem mapCh_pins (f : Fin 128 → Channel → Channel) : (mapCh s f).pins = s.pins := by unfold mapCh; rfl
@[simp] theorem mapCh_tb (f : Fin 128 → Channel → Channel) : (mapCh s f).tb = s.tb := by unfold mapCh; rfl
@[simp] theorem mapCh_ldg (f : Fin 128 → Channel → Channel) : (mapCh s f).ldg = s.ldg := by unfold mapCh; rfl
@[simp] theorem mapCh_pwr (f : Fin 128 → Channel → Channel) : (mapCh s f).pwr = s.pwr := by unfold mapCh; rfl
@[simp] theorem mapCh_flt (f : Fin 128 → Channel → Channel) : (mapCh s f).flt = s.flt := by unfold mapCh; rfl
@[simp] theorem mapCh_ch (f : Fin 128 → Channel → Channel) :
    (mapCh s f).ch = Vector.ofFn fun c => f c s.ch[c] := by unfold mapCh; rfl
@[simp] theorem mapCh_unit (f : Fin 128 → Channel → Channel) : (mapCh s f).unit = s.unit := by unfold mapCh; rfl
@[simp] theorem mapCh_comb (f : Fin 128 → Channel → Channel) : (mapCh s f).comb = s.comb := by unfold mapCh; rfl
@[simp] theorem mapCh_cal (f : Fin 128 → Channel → Channel) : (mapCh s f).cal = s.cal := by unfold mapCh; rfl
@[simp] theorem mapCh_seq (f : Fin 128 → Channel → Channel) : (mapCh s f).seq = s.seq := by unfold mapCh; rfl
@[simp] theorem mapCh_sq (f : Fin 128 → Channel → Channel) : (mapCh s f).sq = s.sq := by unfold mapCh; rfl
@[simp] theorem mapCh_sto (f : Fin 128 → Channel → Channel) : (mapCh s f).sto = s.sto := by unfold mapCh; rfl
@[simp] theorem mapCh_jx (f : Fin 128 → Channel → Channel) : (mapCh s f).jx = s.jx := by unfold mapCh; rfl
@[simp] theorem mapCh_hst (f : Fin 128 → Channel → Channel) : (mapCh s f).hst = s.hst := by unfold mapCh; rfl
@[simp] theorem mapCh_dma (f : Fin 128 → Channel → Channel) : (mapCh s f).dma = s.dma := by unfold mapCh; rfl
@[simp] theorem mapCh_mbx (f : Fin 128 → Channel → Channel) : (mapCh s f).mbx = s.mbx := by unfold mapCh; rfl
@[simp] theorem mapCh_lock (f : Fin 128 → Channel → Channel) : (mapCh s f).lock = s.lock := by unfold mapCh; rfl
@[simp] theorem mapCh_boot (f : Fin 128 → Channel → Channel) : (mapCh s f).boot = s.boot := by unfold mapCh; rfl
@[simp] theorem mapCh_sec (f : Fin 128 → Channel → Channel) : (mapCh s f).sec = s.sec := by unfold mapCh; rfl
@[simp] theorem mapCh_bus (f : Fin 128 → Channel → Channel) : (mapCh s f).bus = s.bus := by unfold mapCh; rfl
@[simp] theorem mapCh_out (f : Fin 128 → Channel → Channel) : (mapCh s f).out = s.out := by unfold mapCh; rfl

/-! ## updUnit -/

@[simp] theorem updUnit_pending (p : Fin 144) (f : CalUnit → CalUnit) : (updUnit s p f).pending = s.pending := rfl
@[simp] theorem updUnit_freshCount (p : Fin 144) (f : CalUnit → CalUnit) :
    (updUnit s p f).freshCount = s.freshCount := rfl
@[simp] theorem updUnit_mod (p : Fin 144) (f : CalUnit → CalUnit) : (updUnit s p f).mod = s.mod := rfl
@[simp] theorem updUnit_pins (p : Fin 144) (f : CalUnit → CalUnit) : (updUnit s p f).pins = s.pins := rfl
@[simp] theorem updUnit_tb (p : Fin 144) (f : CalUnit → CalUnit) : (updUnit s p f).tb = s.tb := rfl
@[simp] theorem updUnit_ldg (p : Fin 144) (f : CalUnit → CalUnit) : (updUnit s p f).ldg = s.ldg := rfl
@[simp] theorem updUnit_pwr (p : Fin 144) (f : CalUnit → CalUnit) : (updUnit s p f).pwr = s.pwr := rfl
@[simp] theorem updUnit_flt (p : Fin 144) (f : CalUnit → CalUnit) : (updUnit s p f).flt = s.flt := rfl
@[simp] theorem updUnit_ch (p : Fin 144) (f : CalUnit → CalUnit) : (updUnit s p f).ch = s.ch := rfl
@[simp] theorem updUnit_unit (p : Fin 144) (f : CalUnit → CalUnit) :
    (updUnit s p f).unit = s.unit.set p (f s.unit[p]) := rfl
@[simp] theorem updUnit_comb (p : Fin 144) (f : CalUnit → CalUnit) : (updUnit s p f).comb = s.comb := rfl
@[simp] theorem updUnit_cal (p : Fin 144) (f : CalUnit → CalUnit) : (updUnit s p f).cal = s.cal := rfl
@[simp] theorem updUnit_seq (p : Fin 144) (f : CalUnit → CalUnit) : (updUnit s p f).seq = s.seq := rfl
@[simp] theorem updUnit_sq (p : Fin 144) (f : CalUnit → CalUnit) : (updUnit s p f).sq = s.sq := rfl
@[simp] theorem updUnit_sto (p : Fin 144) (f : CalUnit → CalUnit) : (updUnit s p f).sto = s.sto := rfl
@[simp] theorem updUnit_jx (p : Fin 144) (f : CalUnit → CalUnit) : (updUnit s p f).jx = s.jx := rfl
@[simp] theorem updUnit_hst (p : Fin 144) (f : CalUnit → CalUnit) : (updUnit s p f).hst = s.hst := rfl
@[simp] theorem updUnit_dma (p : Fin 144) (f : CalUnit → CalUnit) : (updUnit s p f).dma = s.dma := rfl
@[simp] theorem updUnit_mbx (p : Fin 144) (f : CalUnit → CalUnit) : (updUnit s p f).mbx = s.mbx := rfl
@[simp] theorem updUnit_lock (p : Fin 144) (f : CalUnit → CalUnit) : (updUnit s p f).lock = s.lock := rfl
@[simp] theorem updUnit_boot (p : Fin 144) (f : CalUnit → CalUnit) : (updUnit s p f).boot = s.boot := rfl
@[simp] theorem updUnit_sec (p : Fin 144) (f : CalUnit → CalUnit) : (updUnit s p f).sec = s.sec := rfl
@[simp] theorem updUnit_bus (p : Fin 144) (f : CalUnit → CalUnit) : (updUnit s p f).bus = s.bus := rfl
@[simp] theorem updUnit_out (p : Fin 144) (f : CalUnit → CalUnit) : (updUnit s p f).out = s.out := rfl

/-! ## updComb -/

@[simp] theorem updComb_pending (c : Fin 16) (f : Comb → Comb) : (updComb s c f).pending = s.pending := rfl
@[simp] theorem updComb_freshCount (c : Fin 16) (f : Comb → Comb) : (updComb s c f).freshCount = s.freshCount := rfl
@[simp] theorem updComb_mod (c : Fin 16) (f : Comb → Comb) : (updComb s c f).mod = s.mod := rfl
@[simp] theorem updComb_pins (c : Fin 16) (f : Comb → Comb) : (updComb s c f).pins = s.pins := rfl
@[simp] theorem updComb_tb (c : Fin 16) (f : Comb → Comb) : (updComb s c f).tb = s.tb := rfl
@[simp] theorem updComb_ldg (c : Fin 16) (f : Comb → Comb) : (updComb s c f).ldg = s.ldg := rfl
@[simp] theorem updComb_pwr (c : Fin 16) (f : Comb → Comb) : (updComb s c f).pwr = s.pwr := rfl
@[simp] theorem updComb_flt (c : Fin 16) (f : Comb → Comb) : (updComb s c f).flt = s.flt := rfl
@[simp] theorem updComb_ch (c : Fin 16) (f : Comb → Comb) : (updComb s c f).ch = s.ch := rfl
@[simp] theorem updComb_unit (c : Fin 16) (f : Comb → Comb) : (updComb s c f).unit = s.unit := rfl
@[simp] theorem updComb_comb (c : Fin 16) (f : Comb → Comb) : (updComb s c f).comb = s.comb.set c (f s.comb[c]) := rfl
@[simp] theorem updComb_cal (c : Fin 16) (f : Comb → Comb) : (updComb s c f).cal = s.cal := rfl
@[simp] theorem updComb_seq (c : Fin 16) (f : Comb → Comb) : (updComb s c f).seq = s.seq := rfl
@[simp] theorem updComb_sq (c : Fin 16) (f : Comb → Comb) : (updComb s c f).sq = s.sq := rfl
@[simp] theorem updComb_sto (c : Fin 16) (f : Comb → Comb) : (updComb s c f).sto = s.sto := rfl
@[simp] theorem updComb_jx (c : Fin 16) (f : Comb → Comb) : (updComb s c f).jx = s.jx := rfl
@[simp] theorem updComb_hst (c : Fin 16) (f : Comb → Comb) : (updComb s c f).hst = s.hst := rfl
@[simp] theorem updComb_dma (c : Fin 16) (f : Comb → Comb) : (updComb s c f).dma = s.dma := rfl
@[simp] theorem updComb_mbx (c : Fin 16) (f : Comb → Comb) : (updComb s c f).mbx = s.mbx := rfl
@[simp] theorem updComb_lock (c : Fin 16) (f : Comb → Comb) : (updComb s c f).lock = s.lock := rfl
@[simp] theorem updComb_boot (c : Fin 16) (f : Comb → Comb) : (updComb s c f).boot = s.boot := rfl
@[simp] theorem updComb_sec (c : Fin 16) (f : Comb → Comb) : (updComb s c f).sec = s.sec := rfl
@[simp] theorem updComb_bus (c : Fin 16) (f : Comb → Comb) : (updComb s c f).bus = s.bus := rfl
@[simp] theorem updComb_out (c : Fin 16) (f : Comb → Comb) : (updComb s c f).out = s.out := rfl

/-! ## updSeq -/

@[simp] theorem updSeq_pending (f : SeqBlock → SeqBlock) : (updSeq s f).pending = s.pending := rfl
@[simp] theorem updSeq_freshCount (f : SeqBlock → SeqBlock) : (updSeq s f).freshCount = s.freshCount := rfl
@[simp] theorem updSeq_mod (f : SeqBlock → SeqBlock) : (updSeq s f).mod = s.mod := rfl
@[simp] theorem updSeq_pins (f : SeqBlock → SeqBlock) : (updSeq s f).pins = s.pins := rfl
@[simp] theorem updSeq_tb (f : SeqBlock → SeqBlock) : (updSeq s f).tb = s.tb := rfl
@[simp] theorem updSeq_ldg (f : SeqBlock → SeqBlock) : (updSeq s f).ldg = s.ldg := rfl
@[simp] theorem updSeq_pwr (f : SeqBlock → SeqBlock) : (updSeq s f).pwr = s.pwr := rfl
@[simp] theorem updSeq_flt (f : SeqBlock → SeqBlock) : (updSeq s f).flt = s.flt := rfl
@[simp] theorem updSeq_ch (f : SeqBlock → SeqBlock) : (updSeq s f).ch = s.ch := rfl
@[simp] theorem updSeq_unit (f : SeqBlock → SeqBlock) : (updSeq s f).unit = s.unit := rfl
@[simp] theorem updSeq_comb (f : SeqBlock → SeqBlock) : (updSeq s f).comb = s.comb := rfl
@[simp] theorem updSeq_cal (f : SeqBlock → SeqBlock) : (updSeq s f).cal = s.cal := rfl
@[simp] theorem updSeq_seq (f : SeqBlock → SeqBlock) : (updSeq s f).seq = f s.seq := rfl
@[simp] theorem updSeq_sq (f : SeqBlock → SeqBlock) : (updSeq s f).sq = s.sq := rfl
@[simp] theorem updSeq_sto (f : SeqBlock → SeqBlock) : (updSeq s f).sto = s.sto := rfl
@[simp] theorem updSeq_jx (f : SeqBlock → SeqBlock) : (updSeq s f).jx = s.jx := rfl
@[simp] theorem updSeq_hst (f : SeqBlock → SeqBlock) : (updSeq s f).hst = s.hst := rfl
@[simp] theorem updSeq_dma (f : SeqBlock → SeqBlock) : (updSeq s f).dma = s.dma := rfl
@[simp] theorem updSeq_mbx (f : SeqBlock → SeqBlock) : (updSeq s f).mbx = s.mbx := rfl
@[simp] theorem updSeq_lock (f : SeqBlock → SeqBlock) : (updSeq s f).lock = s.lock := rfl
@[simp] theorem updSeq_boot (f : SeqBlock → SeqBlock) : (updSeq s f).boot = s.boot := rfl
@[simp] theorem updSeq_sec (f : SeqBlock → SeqBlock) : (updSeq s f).sec = s.sec := rfl
@[simp] theorem updSeq_bus (f : SeqBlock → SeqBlock) : (updSeq s f).bus = s.bus := rfl
@[simp] theorem updSeq_out (f : SeqBlock → SeqBlock) : (updSeq s f).out = s.out := rfl

/-! ## updEnc -/

@[simp] theorem updEnc_pending (n : Fin 32) (f : Encoder → Encoder) : (updEnc s n f).pending = s.pending := rfl
@[simp] theorem updEnc_freshCount (n : Fin 32) (f : Encoder → Encoder) :
    (updEnc s n f).freshCount = s.freshCount := rfl
@[simp] theorem updEnc_mod (n : Fin 32) (f : Encoder → Encoder) : (updEnc s n f).mod = s.mod := rfl
@[simp] theorem updEnc_pins (n : Fin 32) (f : Encoder → Encoder) : (updEnc s n f).pins = s.pins := rfl
@[simp] theorem updEnc_tb (n : Fin 32) (f : Encoder → Encoder) : (updEnc s n f).tb = s.tb := rfl
@[simp] theorem updEnc_ldg (n : Fin 32) (f : Encoder → Encoder) : (updEnc s n f).ldg = s.ldg := rfl
@[simp] theorem updEnc_pwr (n : Fin 32) (f : Encoder → Encoder) : (updEnc s n f).pwr = s.pwr := rfl
@[simp] theorem updEnc_flt (n : Fin 32) (f : Encoder → Encoder) : (updEnc s n f).flt = s.flt := rfl
@[simp] theorem updEnc_ch (n : Fin 32) (f : Encoder → Encoder) : (updEnc s n f).ch = s.ch := rfl
@[simp] theorem updEnc_unit (n : Fin 32) (f : Encoder → Encoder) : (updEnc s n f).unit = s.unit := rfl
@[simp] theorem updEnc_comb (n : Fin 32) (f : Encoder → Encoder) : (updEnc s n f).comb = s.comb := rfl
@[simp] theorem updEnc_cal (n : Fin 32) (f : Encoder → Encoder) : (updEnc s n f).cal = s.cal := rfl
@[simp] theorem updEnc_seq (n : Fin 32) (f : Encoder → Encoder) :
    (updEnc s n f).seq = { s.seq with enc := s.seq.enc.set n (f s.seq.enc[n]) } := rfl
@[simp] theorem updEnc_sq (n : Fin 32) (f : Encoder → Encoder) : (updEnc s n f).sq = s.sq := rfl
@[simp] theorem updEnc_sto (n : Fin 32) (f : Encoder → Encoder) : (updEnc s n f).sto = s.sto := rfl
@[simp] theorem updEnc_jx (n : Fin 32) (f : Encoder → Encoder) : (updEnc s n f).jx = s.jx := rfl
@[simp] theorem updEnc_hst (n : Fin 32) (f : Encoder → Encoder) : (updEnc s n f).hst = s.hst := rfl
@[simp] theorem updEnc_dma (n : Fin 32) (f : Encoder → Encoder) : (updEnc s n f).dma = s.dma := rfl
@[simp] theorem updEnc_mbx (n : Fin 32) (f : Encoder → Encoder) : (updEnc s n f).mbx = s.mbx := rfl
@[simp] theorem updEnc_lock (n : Fin 32) (f : Encoder → Encoder) : (updEnc s n f).lock = s.lock := rfl
@[simp] theorem updEnc_boot (n : Fin 32) (f : Encoder → Encoder) : (updEnc s n f).boot = s.boot := rfl
@[simp] theorem updEnc_sec (n : Fin 32) (f : Encoder → Encoder) : (updEnc s n f).sec = s.sec := rfl
@[simp] theorem updEnc_bus (n : Fin 32) (f : Encoder → Encoder) : (updEnc s n f).bus = s.bus := rfl
@[simp] theorem updEnc_out (n : Fin 32) (f : Encoder → Encoder) : (updEnc s n f).out = s.out := rfl

/-! ## updTimer -/

@[simp] theorem updTimer_pending (n : Fin 64) (f : Timer → Timer) : (updTimer s n f).pending = s.pending := rfl
@[simp] theorem updTimer_freshCount (n : Fin 64) (f : Timer → Timer) :
    (updTimer s n f).freshCount = s.freshCount := rfl
@[simp] theorem updTimer_mod (n : Fin 64) (f : Timer → Timer) : (updTimer s n f).mod = s.mod := rfl
@[simp] theorem updTimer_pins (n : Fin 64) (f : Timer → Timer) : (updTimer s n f).pins = s.pins := rfl
@[simp] theorem updTimer_tb (n : Fin 64) (f : Timer → Timer) : (updTimer s n f).tb = s.tb := rfl
@[simp] theorem updTimer_ldg (n : Fin 64) (f : Timer → Timer) : (updTimer s n f).ldg = s.ldg := rfl
@[simp] theorem updTimer_pwr (n : Fin 64) (f : Timer → Timer) : (updTimer s n f).pwr = s.pwr := rfl
@[simp] theorem updTimer_flt (n : Fin 64) (f : Timer → Timer) : (updTimer s n f).flt = s.flt := rfl
@[simp] theorem updTimer_ch (n : Fin 64) (f : Timer → Timer) : (updTimer s n f).ch = s.ch := rfl
@[simp] theorem updTimer_unit (n : Fin 64) (f : Timer → Timer) : (updTimer s n f).unit = s.unit := rfl
@[simp] theorem updTimer_comb (n : Fin 64) (f : Timer → Timer) : (updTimer s n f).comb = s.comb := rfl
@[simp] theorem updTimer_cal (n : Fin 64) (f : Timer → Timer) : (updTimer s n f).cal = s.cal := rfl
@[simp] theorem updTimer_seq (n : Fin 64) (f : Timer → Timer) :
    (updTimer s n f).seq = { s.seq with timer := s.seq.timer.set n (f s.seq.timer[n]) } := rfl
@[simp] theorem updTimer_sq (n : Fin 64) (f : Timer → Timer) : (updTimer s n f).sq = s.sq := rfl
@[simp] theorem updTimer_sto (n : Fin 64) (f : Timer → Timer) : (updTimer s n f).sto = s.sto := rfl
@[simp] theorem updTimer_jx (n : Fin 64) (f : Timer → Timer) : (updTimer s n f).jx = s.jx := rfl
@[simp] theorem updTimer_hst (n : Fin 64) (f : Timer → Timer) : (updTimer s n f).hst = s.hst := rfl
@[simp] theorem updTimer_dma (n : Fin 64) (f : Timer → Timer) : (updTimer s n f).dma = s.dma := rfl
@[simp] theorem updTimer_mbx (n : Fin 64) (f : Timer → Timer) : (updTimer s n f).mbx = s.mbx := rfl
@[simp] theorem updTimer_lock (n : Fin 64) (f : Timer → Timer) : (updTimer s n f).lock = s.lock := rfl
@[simp] theorem updTimer_boot (n : Fin 64) (f : Timer → Timer) : (updTimer s n f).boot = s.boot := rfl
@[simp] theorem updTimer_sec (n : Fin 64) (f : Timer → Timer) : (updTimer s n f).sec = s.sec := rfl
@[simp] theorem updTimer_bus (n : Fin 64) (f : Timer → Timer) : (updTimer s n f).bus = s.bus := rfl
@[simp] theorem updTimer_out (n : Fin 64) (f : Timer → Timer) : (updTimer s n f).out = s.out := rfl

/-! ## updTrig -/

@[simp] theorem updTrig_pending (n : Fin 16) (f : TrigPin → TrigPin) : (updTrig s n f).pending = s.pending := rfl
@[simp] theorem updTrig_freshCount (n : Fin 16) (f : TrigPin → TrigPin) :
    (updTrig s n f).freshCount = s.freshCount := rfl
@[simp] theorem updTrig_mod (n : Fin 16) (f : TrigPin → TrigPin) : (updTrig s n f).mod = s.mod := rfl
@[simp] theorem updTrig_pins (n : Fin 16) (f : TrigPin → TrigPin) : (updTrig s n f).pins = s.pins := rfl
@[simp] theorem updTrig_tb (n : Fin 16) (f : TrigPin → TrigPin) : (updTrig s n f).tb = s.tb := rfl
@[simp] theorem updTrig_ldg (n : Fin 16) (f : TrigPin → TrigPin) : (updTrig s n f).ldg = s.ldg := rfl
@[simp] theorem updTrig_pwr (n : Fin 16) (f : TrigPin → TrigPin) : (updTrig s n f).pwr = s.pwr := rfl
@[simp] theorem updTrig_flt (n : Fin 16) (f : TrigPin → TrigPin) : (updTrig s n f).flt = s.flt := rfl
@[simp] theorem updTrig_ch (n : Fin 16) (f : TrigPin → TrigPin) : (updTrig s n f).ch = s.ch := rfl
@[simp] theorem updTrig_unit (n : Fin 16) (f : TrigPin → TrigPin) : (updTrig s n f).unit = s.unit := rfl
@[simp] theorem updTrig_comb (n : Fin 16) (f : TrigPin → TrigPin) : (updTrig s n f).comb = s.comb := rfl
@[simp] theorem updTrig_cal (n : Fin 16) (f : TrigPin → TrigPin) : (updTrig s n f).cal = s.cal := rfl
@[simp] theorem updTrig_seq (n : Fin 16) (f : TrigPin → TrigPin) :
    (updTrig s n f).seq = { s.seq with trig := s.seq.trig.set n (f s.seq.trig[n]) } := rfl
@[simp] theorem updTrig_sq (n : Fin 16) (f : TrigPin → TrigPin) : (updTrig s n f).sq = s.sq := rfl
@[simp] theorem updTrig_sto (n : Fin 16) (f : TrigPin → TrigPin) : (updTrig s n f).sto = s.sto := rfl
@[simp] theorem updTrig_jx (n : Fin 16) (f : TrigPin → TrigPin) : (updTrig s n f).jx = s.jx := rfl
@[simp] theorem updTrig_hst (n : Fin 16) (f : TrigPin → TrigPin) : (updTrig s n f).hst = s.hst := rfl
@[simp] theorem updTrig_dma (n : Fin 16) (f : TrigPin → TrigPin) : (updTrig s n f).dma = s.dma := rfl
@[simp] theorem updTrig_mbx (n : Fin 16) (f : TrigPin → TrigPin) : (updTrig s n f).mbx = s.mbx := rfl
@[simp] theorem updTrig_lock (n : Fin 16) (f : TrigPin → TrigPin) : (updTrig s n f).lock = s.lock := rfl
@[simp] theorem updTrig_boot (n : Fin 16) (f : TrigPin → TrigPin) : (updTrig s n f).boot = s.boot := rfl
@[simp] theorem updTrig_sec (n : Fin 16) (f : TrigPin → TrigPin) : (updTrig s n f).sec = s.sec := rfl
@[simp] theorem updTrig_bus (n : Fin 16) (f : TrigPin → TrigPin) : (updTrig s n f).bus = s.bus := rfl
@[simp] theorem updTrig_out (n : Fin 16) (f : TrigPin → TrigPin) : (updTrig s n f).out = s.out := rfl

/-! ## updQ -/

@[simp] theorem updQ_pending (q : Fin 32) (f : Queue → Queue) : (updQ s q f).pending = s.pending := rfl
@[simp] theorem updQ_freshCount (q : Fin 32) (f : Queue → Queue) : (updQ s q f).freshCount = s.freshCount := rfl
@[simp] theorem updQ_mod (q : Fin 32) (f : Queue → Queue) : (updQ s q f).mod = s.mod := rfl
@[simp] theorem updQ_pins (q : Fin 32) (f : Queue → Queue) : (updQ s q f).pins = s.pins := rfl
@[simp] theorem updQ_tb (q : Fin 32) (f : Queue → Queue) : (updQ s q f).tb = s.tb := rfl
@[simp] theorem updQ_ldg (q : Fin 32) (f : Queue → Queue) : (updQ s q f).ldg = s.ldg := rfl
@[simp] theorem updQ_pwr (q : Fin 32) (f : Queue → Queue) : (updQ s q f).pwr = s.pwr := rfl
@[simp] theorem updQ_flt (q : Fin 32) (f : Queue → Queue) : (updQ s q f).flt = s.flt := rfl
@[simp] theorem updQ_ch (q : Fin 32) (f : Queue → Queue) : (updQ s q f).ch = s.ch := rfl
@[simp] theorem updQ_unit (q : Fin 32) (f : Queue → Queue) : (updQ s q f).unit = s.unit := rfl
@[simp] theorem updQ_comb (q : Fin 32) (f : Queue → Queue) : (updQ s q f).comb = s.comb := rfl
@[simp] theorem updQ_cal (q : Fin 32) (f : Queue → Queue) : (updQ s q f).cal = s.cal := rfl
@[simp] theorem updQ_seq (q : Fin 32) (f : Queue → Queue) : (updQ s q f).seq = s.seq := rfl
@[simp] theorem updQ_sq (q : Fin 32) (f : Queue → Queue) : (updQ s q f).sq = s.sq.set q (f s.sq[q]) := rfl
@[simp] theorem updQ_sto (q : Fin 32) (f : Queue → Queue) : (updQ s q f).sto = s.sto := rfl
@[simp] theorem updQ_jx (q : Fin 32) (f : Queue → Queue) : (updQ s q f).jx = s.jx := rfl
@[simp] theorem updQ_hst (q : Fin 32) (f : Queue → Queue) : (updQ s q f).hst = s.hst := rfl
@[simp] theorem updQ_dma (q : Fin 32) (f : Queue → Queue) : (updQ s q f).dma = s.dma := rfl
@[simp] theorem updQ_mbx (q : Fin 32) (f : Queue → Queue) : (updQ s q f).mbx = s.mbx := rfl
@[simp] theorem updQ_lock (q : Fin 32) (f : Queue → Queue) : (updQ s q f).lock = s.lock := rfl
@[simp] theorem updQ_boot (q : Fin 32) (f : Queue → Queue) : (updQ s q f).boot = s.boot := rfl
@[simp] theorem updQ_sec (q : Fin 32) (f : Queue → Queue) : (updQ s q f).sec = s.sec := rfl
@[simp] theorem updQ_bus (q : Fin 32) (f : Queue → Queue) : (updQ s q f).bus = s.bus := rfl
@[simp] theorem updQ_out (q : Fin 32) (f : Queue → Queue) : (updQ s q f).out = s.out := rfl

/-! ## updRing -/

@[simp] theorem updRing_pending (n : Fin 31) (f : CapRing → CapRing) : (updRing s n f).pending = s.pending := rfl
@[simp] theorem updRing_freshCount (n : Fin 31) (f : CapRing → CapRing) :
    (updRing s n f).freshCount = s.freshCount := rfl
@[simp] theorem updRing_mod (n : Fin 31) (f : CapRing → CapRing) : (updRing s n f).mod = s.mod := rfl
@[simp] theorem updRing_pins (n : Fin 31) (f : CapRing → CapRing) : (updRing s n f).pins = s.pins := rfl
@[simp] theorem updRing_tb (n : Fin 31) (f : CapRing → CapRing) : (updRing s n f).tb = s.tb := rfl
@[simp] theorem updRing_ldg (n : Fin 31) (f : CapRing → CapRing) : (updRing s n f).ldg = s.ldg := rfl
@[simp] theorem updRing_pwr (n : Fin 31) (f : CapRing → CapRing) : (updRing s n f).pwr = s.pwr := rfl
@[simp] theorem updRing_flt (n : Fin 31) (f : CapRing → CapRing) : (updRing s n f).flt = s.flt := rfl
@[simp] theorem updRing_ch (n : Fin 31) (f : CapRing → CapRing) : (updRing s n f).ch = s.ch := rfl
@[simp] theorem updRing_unit (n : Fin 31) (f : CapRing → CapRing) : (updRing s n f).unit = s.unit := rfl
@[simp] theorem updRing_comb (n : Fin 31) (f : CapRing → CapRing) : (updRing s n f).comb = s.comb := rfl
@[simp] theorem updRing_cal (n : Fin 31) (f : CapRing → CapRing) : (updRing s n f).cal = s.cal := rfl
@[simp] theorem updRing_seq (n : Fin 31) (f : CapRing → CapRing) : (updRing s n f).seq = s.seq := rfl
@[simp] theorem updRing_sq (n : Fin 31) (f : CapRing → CapRing) : (updRing s n f).sq = s.sq := rfl
@[simp] theorem updRing_sto (n : Fin 31) (f : CapRing → CapRing) :
    (updRing s n f).sto = { s.sto with ring := s.sto.ring.set n (f s.sto.ring[n]) } := rfl
@[simp] theorem updRing_jx (n : Fin 31) (f : CapRing → CapRing) : (updRing s n f).jx = s.jx := rfl
@[simp] theorem updRing_hst (n : Fin 31) (f : CapRing → CapRing) : (updRing s n f).hst = s.hst := rfl
@[simp] theorem updRing_dma (n : Fin 31) (f : CapRing → CapRing) : (updRing s n f).dma = s.dma := rfl
@[simp] theorem updRing_mbx (n : Fin 31) (f : CapRing → CapRing) : (updRing s n f).mbx = s.mbx := rfl
@[simp] theorem updRing_lock (n : Fin 31) (f : CapRing → CapRing) : (updRing s n f).lock = s.lock := rfl
@[simp] theorem updRing_boot (n : Fin 31) (f : CapRing → CapRing) : (updRing s n f).boot = s.boot := rfl
@[simp] theorem updRing_sec (n : Fin 31) (f : CapRing → CapRing) : (updRing s n f).sec = s.sec := rfl
@[simp] theorem updRing_bus (n : Fin 31) (f : CapRing → CapRing) : (updRing s n f).bus = s.bus := rfl
@[simp] theorem updRing_out (n : Fin 31) (f : CapRing → CapRing) : (updRing s n f).out = s.out := rfl

/-! ## updStream -/

@[simp] theorem updStream_pending (n : Fin 2048) (f : Stream → Stream) : (updStream s n f).pending = s.pending := rfl
@[simp] theorem updStream_freshCount (n : Fin 2048) (f : Stream → Stream) :
    (updStream s n f).freshCount = s.freshCount := rfl
@[simp] theorem updStream_mod (n : Fin 2048) (f : Stream → Stream) : (updStream s n f).mod = s.mod := rfl
@[simp] theorem updStream_pins (n : Fin 2048) (f : Stream → Stream) : (updStream s n f).pins = s.pins := rfl
@[simp] theorem updStream_tb (n : Fin 2048) (f : Stream → Stream) : (updStream s n f).tb = s.tb := rfl
@[simp] theorem updStream_ldg (n : Fin 2048) (f : Stream → Stream) : (updStream s n f).ldg = s.ldg := rfl
@[simp] theorem updStream_pwr (n : Fin 2048) (f : Stream → Stream) : (updStream s n f).pwr = s.pwr := rfl
@[simp] theorem updStream_flt (n : Fin 2048) (f : Stream → Stream) : (updStream s n f).flt = s.flt := rfl
@[simp] theorem updStream_ch (n : Fin 2048) (f : Stream → Stream) : (updStream s n f).ch = s.ch := rfl
@[simp] theorem updStream_unit (n : Fin 2048) (f : Stream → Stream) : (updStream s n f).unit = s.unit := rfl
@[simp] theorem updStream_comb (n : Fin 2048) (f : Stream → Stream) : (updStream s n f).comb = s.comb := rfl
@[simp] theorem updStream_cal (n : Fin 2048) (f : Stream → Stream) : (updStream s n f).cal = s.cal := rfl
@[simp] theorem updStream_seq (n : Fin 2048) (f : Stream → Stream) : (updStream s n f).seq = s.seq := rfl
@[simp] theorem updStream_sq (n : Fin 2048) (f : Stream → Stream) : (updStream s n f).sq = s.sq := rfl
@[simp] theorem updStream_sto (n : Fin 2048) (f : Stream → Stream) :
    (updStream s n f).sto = { s.sto with stream := s.sto.stream.set n (f s.sto.stream[n]) } := rfl
@[simp] theorem updStream_jx (n : Fin 2048) (f : Stream → Stream) : (updStream s n f).jx = s.jx := rfl
@[simp] theorem updStream_hst (n : Fin 2048) (f : Stream → Stream) : (updStream s n f).hst = s.hst := rfl
@[simp] theorem updStream_dma (n : Fin 2048) (f : Stream → Stream) : (updStream s n f).dma = s.dma := rfl
@[simp] theorem updStream_mbx (n : Fin 2048) (f : Stream → Stream) : (updStream s n f).mbx = s.mbx := rfl
@[simp] theorem updStream_lock (n : Fin 2048) (f : Stream → Stream) : (updStream s n f).lock = s.lock := rfl
@[simp] theorem updStream_boot (n : Fin 2048) (f : Stream → Stream) : (updStream s n f).boot = s.boot := rfl
@[simp] theorem updStream_sec (n : Fin 2048) (f : Stream → Stream) : (updStream s n f).sec = s.sec := rfl
@[simp] theorem updStream_bus (n : Fin 2048) (f : Stream → Stream) : (updStream s n f).bus = s.bus := rfl
@[simp] theorem updStream_out (n : Fin 2048) (f : Stream → Stream) : (updStream s n f).out = s.out := rfl

/-! ## updDma -/

@[simp] theorem updDma_pending (e : Fin 8) (f : Dma → Dma) : (updDma s e f).pending = s.pending := rfl
@[simp] theorem updDma_freshCount (e : Fin 8) (f : Dma → Dma) : (updDma s e f).freshCount = s.freshCount := rfl
@[simp] theorem updDma_mod (e : Fin 8) (f : Dma → Dma) : (updDma s e f).mod = s.mod := rfl
@[simp] theorem updDma_pins (e : Fin 8) (f : Dma → Dma) : (updDma s e f).pins = s.pins := rfl
@[simp] theorem updDma_tb (e : Fin 8) (f : Dma → Dma) : (updDma s e f).tb = s.tb := rfl
@[simp] theorem updDma_ldg (e : Fin 8) (f : Dma → Dma) : (updDma s e f).ldg = s.ldg := rfl
@[simp] theorem updDma_pwr (e : Fin 8) (f : Dma → Dma) : (updDma s e f).pwr = s.pwr := rfl
@[simp] theorem updDma_flt (e : Fin 8) (f : Dma → Dma) : (updDma s e f).flt = s.flt := rfl
@[simp] theorem updDma_ch (e : Fin 8) (f : Dma → Dma) : (updDma s e f).ch = s.ch := rfl
@[simp] theorem updDma_unit (e : Fin 8) (f : Dma → Dma) : (updDma s e f).unit = s.unit := rfl
@[simp] theorem updDma_comb (e : Fin 8) (f : Dma → Dma) : (updDma s e f).comb = s.comb := rfl
@[simp] theorem updDma_cal (e : Fin 8) (f : Dma → Dma) : (updDma s e f).cal = s.cal := rfl
@[simp] theorem updDma_seq (e : Fin 8) (f : Dma → Dma) : (updDma s e f).seq = s.seq := rfl
@[simp] theorem updDma_sq (e : Fin 8) (f : Dma → Dma) : (updDma s e f).sq = s.sq := rfl
@[simp] theorem updDma_sto (e : Fin 8) (f : Dma → Dma) : (updDma s e f).sto = s.sto := rfl
@[simp] theorem updDma_jx (e : Fin 8) (f : Dma → Dma) : (updDma s e f).jx = s.jx := rfl
@[simp] theorem updDma_hst (e : Fin 8) (f : Dma → Dma) : (updDma s e f).hst = s.hst := rfl
@[simp] theorem updDma_dma (e : Fin 8) (f : Dma → Dma) : (updDma s e f).dma = s.dma.set e (f s.dma[e]) := rfl
@[simp] theorem updDma_mbx (e : Fin 8) (f : Dma → Dma) : (updDma s e f).mbx = s.mbx := rfl
@[simp] theorem updDma_lock (e : Fin 8) (f : Dma → Dma) : (updDma s e f).lock = s.lock := rfl
@[simp] theorem updDma_boot (e : Fin 8) (f : Dma → Dma) : (updDma s e f).boot = s.boot := rfl
@[simp] theorem updDma_sec (e : Fin 8) (f : Dma → Dma) : (updDma s e f).sec = s.sec := rfl
@[simp] theorem updDma_bus (e : Fin 8) (f : Dma → Dma) : (updDma s e f).bus = s.bus := rfl
@[simp] theorem updDma_out (e : Fin 8) (f : Dma → Dma) : (updDma s e f).out = s.out := rfl

/-! ## updMbx -/

@[simp] theorem updMbx_pending (n : Fin 20) (h2c : Bool) (f : Mbx → Mbx) :
    (updMbx s n h2c f).pending = s.pending := rfl
@[simp] theorem updMbx_freshCount (n : Fin 20) (h2c : Bool) (f : Mbx → Mbx) :
    (updMbx s n h2c f).freshCount = s.freshCount := rfl
@[simp] theorem updMbx_mod (n : Fin 20) (h2c : Bool) (f : Mbx → Mbx) : (updMbx s n h2c f).mod = s.mod := rfl
@[simp] theorem updMbx_pins (n : Fin 20) (h2c : Bool) (f : Mbx → Mbx) : (updMbx s n h2c f).pins = s.pins := rfl
@[simp] theorem updMbx_tb (n : Fin 20) (h2c : Bool) (f : Mbx → Mbx) : (updMbx s n h2c f).tb = s.tb := rfl
@[simp] theorem updMbx_ldg (n : Fin 20) (h2c : Bool) (f : Mbx → Mbx) : (updMbx s n h2c f).ldg = s.ldg := rfl
@[simp] theorem updMbx_pwr (n : Fin 20) (h2c : Bool) (f : Mbx → Mbx) : (updMbx s n h2c f).pwr = s.pwr := rfl
@[simp] theorem updMbx_flt (n : Fin 20) (h2c : Bool) (f : Mbx → Mbx) : (updMbx s n h2c f).flt = s.flt := rfl
@[simp] theorem updMbx_ch (n : Fin 20) (h2c : Bool) (f : Mbx → Mbx) : (updMbx s n h2c f).ch = s.ch := rfl
@[simp] theorem updMbx_unit (n : Fin 20) (h2c : Bool) (f : Mbx → Mbx) : (updMbx s n h2c f).unit = s.unit := rfl
@[simp] theorem updMbx_comb (n : Fin 20) (h2c : Bool) (f : Mbx → Mbx) : (updMbx s n h2c f).comb = s.comb := rfl
@[simp] theorem updMbx_cal (n : Fin 20) (h2c : Bool) (f : Mbx → Mbx) : (updMbx s n h2c f).cal = s.cal := rfl
@[simp] theorem updMbx_seq (n : Fin 20) (h2c : Bool) (f : Mbx → Mbx) : (updMbx s n h2c f).seq = s.seq := rfl
@[simp] theorem updMbx_sq (n : Fin 20) (h2c : Bool) (f : Mbx → Mbx) : (updMbx s n h2c f).sq = s.sq := rfl
@[simp] theorem updMbx_sto (n : Fin 20) (h2c : Bool) (f : Mbx → Mbx) : (updMbx s n h2c f).sto = s.sto := rfl
@[simp] theorem updMbx_jx (n : Fin 20) (h2c : Bool) (f : Mbx → Mbx) : (updMbx s n h2c f).jx = s.jx := rfl
@[simp] theorem updMbx_hst (n : Fin 20) (h2c : Bool) (f : Mbx → Mbx) : (updMbx s n h2c f).hst = s.hst := rfl
@[simp] theorem updMbx_dma (n : Fin 20) (h2c : Bool) (f : Mbx → Mbx) : (updMbx s n h2c f).dma = s.dma := rfl
@[simp] theorem updMbx_lock (n : Fin 20) (h2c : Bool) (f : Mbx → Mbx) : (updMbx s n h2c f).lock = s.lock := rfl
@[simp] theorem updMbx_boot (n : Fin 20) (h2c : Bool) (f : Mbx → Mbx) : (updMbx s n h2c f).boot = s.boot := rfl
@[simp] theorem updMbx_sec (n : Fin 20) (h2c : Bool) (f : Mbx → Mbx) : (updMbx s n h2c f).sec = s.sec := rfl
@[simp] theorem updMbx_bus (n : Fin 20) (h2c : Bool) (f : Mbx → Mbx) : (updMbx s n h2c f).bus = s.bus := rfl
@[simp] theorem updMbx_out (n : Fin 20) (h2c : Bool) (f : Mbx → Mbx) : (updMbx s n h2c f).out = s.out := rfl

/-! ## updRa -/

@[simp] theorem updRa_pending (m : Fin 2) (f : RaSet → RaSet) : (updRa s m f).pending = s.pending := rfl
@[simp] theorem updRa_freshCount (m : Fin 2) (f : RaSet → RaSet) : (updRa s m f).freshCount = s.freshCount := rfl
@[simp] theorem updRa_mod (m : Fin 2) (f : RaSet → RaSet) : (updRa s m f).mod = s.mod := rfl
@[simp] theorem updRa_pins (m : Fin 2) (f : RaSet → RaSet) : (updRa s m f).pins = s.pins := rfl
@[simp] theorem updRa_tb (m : Fin 2) (f : RaSet → RaSet) : (updRa s m f).tb = s.tb := rfl
@[simp] theorem updRa_ldg (m : Fin 2) (f : RaSet → RaSet) : (updRa s m f).ldg = s.ldg := rfl
@[simp] theorem updRa_pwr (m : Fin 2) (f : RaSet → RaSet) : (updRa s m f).pwr = s.pwr := rfl
@[simp] theorem updRa_flt (m : Fin 2) (f : RaSet → RaSet) : (updRa s m f).flt = s.flt := rfl
@[simp] theorem updRa_ch (m : Fin 2) (f : RaSet → RaSet) : (updRa s m f).ch = s.ch := rfl
@[simp] theorem updRa_unit (m : Fin 2) (f : RaSet → RaSet) : (updRa s m f).unit = s.unit := rfl
@[simp] theorem updRa_comb (m : Fin 2) (f : RaSet → RaSet) : (updRa s m f).comb = s.comb := rfl
@[simp] theorem updRa_cal (m : Fin 2) (f : RaSet → RaSet) : (updRa s m f).cal = s.cal := rfl
@[simp] theorem updRa_seq (m : Fin 2) (f : RaSet → RaSet) : (updRa s m f).seq = s.seq := rfl
@[simp] theorem updRa_sq (m : Fin 2) (f : RaSet → RaSet) : (updRa s m f).sq = s.sq := rfl
@[simp] theorem updRa_sto (m : Fin 2) (f : RaSet → RaSet) : (updRa s m f).sto = s.sto := rfl
@[simp] theorem updRa_jx (m : Fin 2) (f : RaSet → RaSet) :
    (updRa s m f).jx = { s.jx with ra := s.jx.ra.set m (f s.jx.ra[m]) } := rfl
@[simp] theorem updRa_hst (m : Fin 2) (f : RaSet → RaSet) : (updRa s m f).hst = s.hst := rfl
@[simp] theorem updRa_dma (m : Fin 2) (f : RaSet → RaSet) : (updRa s m f).dma = s.dma := rfl
@[simp] theorem updRa_mbx (m : Fin 2) (f : RaSet → RaSet) : (updRa s m f).mbx = s.mbx := rfl
@[simp] theorem updRa_lock (m : Fin 2) (f : RaSet → RaSet) : (updRa s m f).lock = s.lock := rfl
@[simp] theorem updRa_boot (m : Fin 2) (f : RaSet → RaSet) : (updRa s m f).boot = s.boot := rfl
@[simp] theorem updRa_sec (m : Fin 2) (f : RaSet → RaSet) : (updRa s m f).sec = s.sec := rfl
@[simp] theorem updRa_bus (m : Fin 2) (f : RaSet → RaSet) : (updRa s m f).bus = s.bus := rfl
@[simp] theorem updRa_out (m : Fin 2) (f : RaSet → RaSet) : (updRa s m f).out = s.out := rfl

/-! ## updMod -/

@[simp] theorem updMod_pending (f : Mod → Mod) : (updMod s f).pending = s.pending := rfl
@[simp] theorem updMod_freshCount (f : Mod → Mod) : (updMod s f).freshCount = s.freshCount := rfl
@[simp] theorem updMod_mod (f : Mod → Mod) : (updMod s f).mod = f s.mod := rfl
@[simp] theorem updMod_pins (f : Mod → Mod) : (updMod s f).pins = s.pins := rfl
@[simp] theorem updMod_tb (f : Mod → Mod) : (updMod s f).tb = s.tb := rfl
@[simp] theorem updMod_ldg (f : Mod → Mod) : (updMod s f).ldg = s.ldg := rfl
@[simp] theorem updMod_pwr (f : Mod → Mod) : (updMod s f).pwr = s.pwr := rfl
@[simp] theorem updMod_flt (f : Mod → Mod) : (updMod s f).flt = s.flt := rfl
@[simp] theorem updMod_ch (f : Mod → Mod) : (updMod s f).ch = s.ch := rfl
@[simp] theorem updMod_unit (f : Mod → Mod) : (updMod s f).unit = s.unit := rfl
@[simp] theorem updMod_comb (f : Mod → Mod) : (updMod s f).comb = s.comb := rfl
@[simp] theorem updMod_cal (f : Mod → Mod) : (updMod s f).cal = s.cal := rfl
@[simp] theorem updMod_seq (f : Mod → Mod) : (updMod s f).seq = s.seq := rfl
@[simp] theorem updMod_sq (f : Mod → Mod) : (updMod s f).sq = s.sq := rfl
@[simp] theorem updMod_sto (f : Mod → Mod) : (updMod s f).sto = s.sto := rfl
@[simp] theorem updMod_jx (f : Mod → Mod) : (updMod s f).jx = s.jx := rfl
@[simp] theorem updMod_hst (f : Mod → Mod) : (updMod s f).hst = s.hst := rfl
@[simp] theorem updMod_dma (f : Mod → Mod) : (updMod s f).dma = s.dma := rfl
@[simp] theorem updMod_mbx (f : Mod → Mod) : (updMod s f).mbx = s.mbx := rfl
@[simp] theorem updMod_lock (f : Mod → Mod) : (updMod s f).lock = s.lock := rfl
@[simp] theorem updMod_boot (f : Mod → Mod) : (updMod s f).boot = s.boot := rfl
@[simp] theorem updMod_sec (f : Mod → Mod) : (updMod s f).sec = s.sec := rfl
@[simp] theorem updMod_bus (f : Mod → Mod) : (updMod s f).bus = s.bus := rfl
@[simp] theorem updMod_out (f : Mod → Mod) : (updMod s f).out = s.out := rfl

/-! ## updTb -/

@[simp] theorem updTb_pending (f : Timebase → Timebase) : (updTb s f).pending = s.pending := rfl
@[simp] theorem updTb_freshCount (f : Timebase → Timebase) : (updTb s f).freshCount = s.freshCount := rfl
@[simp] theorem updTb_mod (f : Timebase → Timebase) : (updTb s f).mod = s.mod := rfl
@[simp] theorem updTb_pins (f : Timebase → Timebase) : (updTb s f).pins = s.pins := rfl
@[simp] theorem updTb_tb (f : Timebase → Timebase) : (updTb s f).tb = f s.tb := rfl
@[simp] theorem updTb_ldg (f : Timebase → Timebase) : (updTb s f).ldg = s.ldg := rfl
@[simp] theorem updTb_pwr (f : Timebase → Timebase) : (updTb s f).pwr = s.pwr := rfl
@[simp] theorem updTb_flt (f : Timebase → Timebase) : (updTb s f).flt = s.flt := rfl
@[simp] theorem updTb_ch (f : Timebase → Timebase) : (updTb s f).ch = s.ch := rfl
@[simp] theorem updTb_unit (f : Timebase → Timebase) : (updTb s f).unit = s.unit := rfl
@[simp] theorem updTb_comb (f : Timebase → Timebase) : (updTb s f).comb = s.comb := rfl
@[simp] theorem updTb_cal (f : Timebase → Timebase) : (updTb s f).cal = s.cal := rfl
@[simp] theorem updTb_seq (f : Timebase → Timebase) : (updTb s f).seq = s.seq := rfl
@[simp] theorem updTb_sq (f : Timebase → Timebase) : (updTb s f).sq = s.sq := rfl
@[simp] theorem updTb_sto (f : Timebase → Timebase) : (updTb s f).sto = s.sto := rfl
@[simp] theorem updTb_jx (f : Timebase → Timebase) : (updTb s f).jx = s.jx := rfl
@[simp] theorem updTb_hst (f : Timebase → Timebase) : (updTb s f).hst = s.hst := rfl
@[simp] theorem updTb_dma (f : Timebase → Timebase) : (updTb s f).dma = s.dma := rfl
@[simp] theorem updTb_mbx (f : Timebase → Timebase) : (updTb s f).mbx = s.mbx := rfl
@[simp] theorem updTb_lock (f : Timebase → Timebase) : (updTb s f).lock = s.lock := rfl
@[simp] theorem updTb_boot (f : Timebase → Timebase) : (updTb s f).boot = s.boot := rfl
@[simp] theorem updTb_sec (f : Timebase → Timebase) : (updTb s f).sec = s.sec := rfl
@[simp] theorem updTb_bus (f : Timebase → Timebase) : (updTb s f).bus = s.bus := rfl
@[simp] theorem updTb_out (f : Timebase → Timebase) : (updTb s f).out = s.out := rfl

/-! ## updLdg -/

@[simp] theorem updLdg_pending (f : Ledger → Ledger) : (updLdg s f).pending = s.pending := rfl
@[simp] theorem updLdg_freshCount (f : Ledger → Ledger) : (updLdg s f).freshCount = s.freshCount := rfl
@[simp] theorem updLdg_mod (f : Ledger → Ledger) : (updLdg s f).mod = s.mod := rfl
@[simp] theorem updLdg_pins (f : Ledger → Ledger) : (updLdg s f).pins = s.pins := rfl
@[simp] theorem updLdg_tb (f : Ledger → Ledger) : (updLdg s f).tb = s.tb := rfl
@[simp] theorem updLdg_ldg (f : Ledger → Ledger) : (updLdg s f).ldg = f s.ldg := rfl
@[simp] theorem updLdg_pwr (f : Ledger → Ledger) : (updLdg s f).pwr = s.pwr := rfl
@[simp] theorem updLdg_flt (f : Ledger → Ledger) : (updLdg s f).flt = s.flt := rfl
@[simp] theorem updLdg_ch (f : Ledger → Ledger) : (updLdg s f).ch = s.ch := rfl
@[simp] theorem updLdg_unit (f : Ledger → Ledger) : (updLdg s f).unit = s.unit := rfl
@[simp] theorem updLdg_comb (f : Ledger → Ledger) : (updLdg s f).comb = s.comb := rfl
@[simp] theorem updLdg_cal (f : Ledger → Ledger) : (updLdg s f).cal = s.cal := rfl
@[simp] theorem updLdg_seq (f : Ledger → Ledger) : (updLdg s f).seq = s.seq := rfl
@[simp] theorem updLdg_sq (f : Ledger → Ledger) : (updLdg s f).sq = s.sq := rfl
@[simp] theorem updLdg_sto (f : Ledger → Ledger) : (updLdg s f).sto = s.sto := rfl
@[simp] theorem updLdg_jx (f : Ledger → Ledger) : (updLdg s f).jx = s.jx := rfl
@[simp] theorem updLdg_hst (f : Ledger → Ledger) : (updLdg s f).hst = s.hst := rfl
@[simp] theorem updLdg_dma (f : Ledger → Ledger) : (updLdg s f).dma = s.dma := rfl
@[simp] theorem updLdg_mbx (f : Ledger → Ledger) : (updLdg s f).mbx = s.mbx := rfl
@[simp] theorem updLdg_lock (f : Ledger → Ledger) : (updLdg s f).lock = s.lock := rfl
@[simp] theorem updLdg_boot (f : Ledger → Ledger) : (updLdg s f).boot = s.boot := rfl
@[simp] theorem updLdg_sec (f : Ledger → Ledger) : (updLdg s f).sec = s.sec := rfl
@[simp] theorem updLdg_bus (f : Ledger → Ledger) : (updLdg s f).bus = s.bus := rfl
@[simp] theorem updLdg_out (f : Ledger → Ledger) : (updLdg s f).out = s.out := rfl

/-! ## updPwr -/

@[simp] theorem updPwr_pending (f : Power → Power) : (updPwr s f).pending = s.pending := rfl
@[simp] theorem updPwr_freshCount (f : Power → Power) : (updPwr s f).freshCount = s.freshCount := rfl
@[simp] theorem updPwr_mod (f : Power → Power) : (updPwr s f).mod = s.mod := rfl
@[simp] theorem updPwr_pins (f : Power → Power) : (updPwr s f).pins = s.pins := rfl
@[simp] theorem updPwr_tb (f : Power → Power) : (updPwr s f).tb = s.tb := rfl
@[simp] theorem updPwr_ldg (f : Power → Power) : (updPwr s f).ldg = s.ldg := rfl
@[simp] theorem updPwr_pwr (f : Power → Power) : (updPwr s f).pwr = f s.pwr := rfl
@[simp] theorem updPwr_flt (f : Power → Power) : (updPwr s f).flt = s.flt := rfl
@[simp] theorem updPwr_ch (f : Power → Power) : (updPwr s f).ch = s.ch := rfl
@[simp] theorem updPwr_unit (f : Power → Power) : (updPwr s f).unit = s.unit := rfl
@[simp] theorem updPwr_comb (f : Power → Power) : (updPwr s f).comb = s.comb := rfl
@[simp] theorem updPwr_cal (f : Power → Power) : (updPwr s f).cal = s.cal := rfl
@[simp] theorem updPwr_seq (f : Power → Power) : (updPwr s f).seq = s.seq := rfl
@[simp] theorem updPwr_sq (f : Power → Power) : (updPwr s f).sq = s.sq := rfl
@[simp] theorem updPwr_sto (f : Power → Power) : (updPwr s f).sto = s.sto := rfl
@[simp] theorem updPwr_jx (f : Power → Power) : (updPwr s f).jx = s.jx := rfl
@[simp] theorem updPwr_hst (f : Power → Power) : (updPwr s f).hst = s.hst := rfl
@[simp] theorem updPwr_dma (f : Power → Power) : (updPwr s f).dma = s.dma := rfl
@[simp] theorem updPwr_mbx (f : Power → Power) : (updPwr s f).mbx = s.mbx := rfl
@[simp] theorem updPwr_lock (f : Power → Power) : (updPwr s f).lock = s.lock := rfl
@[simp] theorem updPwr_boot (f : Power → Power) : (updPwr s f).boot = s.boot := rfl
@[simp] theorem updPwr_sec (f : Power → Power) : (updPwr s f).sec = s.sec := rfl
@[simp] theorem updPwr_bus (f : Power → Power) : (updPwr s f).bus = s.bus := rfl
@[simp] theorem updPwr_out (f : Power → Power) : (updPwr s f).out = s.out := rfl

/-! ## updFlt -/

@[simp] theorem updFlt_pending (f : Collector → Collector) : (updFlt s f).pending = s.pending := rfl
@[simp] theorem updFlt_freshCount (f : Collector → Collector) : (updFlt s f).freshCount = s.freshCount := rfl
@[simp] theorem updFlt_mod (f : Collector → Collector) : (updFlt s f).mod = s.mod := rfl
@[simp] theorem updFlt_pins (f : Collector → Collector) : (updFlt s f).pins = s.pins := rfl
@[simp] theorem updFlt_tb (f : Collector → Collector) : (updFlt s f).tb = s.tb := rfl
@[simp] theorem updFlt_ldg (f : Collector → Collector) : (updFlt s f).ldg = s.ldg := rfl
@[simp] theorem updFlt_pwr (f : Collector → Collector) : (updFlt s f).pwr = s.pwr := rfl
@[simp] theorem updFlt_flt (f : Collector → Collector) : (updFlt s f).flt = f s.flt := rfl
@[simp] theorem updFlt_ch (f : Collector → Collector) : (updFlt s f).ch = s.ch := rfl
@[simp] theorem updFlt_unit (f : Collector → Collector) : (updFlt s f).unit = s.unit := rfl
@[simp] theorem updFlt_comb (f : Collector → Collector) : (updFlt s f).comb = s.comb := rfl
@[simp] theorem updFlt_cal (f : Collector → Collector) : (updFlt s f).cal = s.cal := rfl
@[simp] theorem updFlt_seq (f : Collector → Collector) : (updFlt s f).seq = s.seq := rfl
@[simp] theorem updFlt_sq (f : Collector → Collector) : (updFlt s f).sq = s.sq := rfl
@[simp] theorem updFlt_sto (f : Collector → Collector) : (updFlt s f).sto = s.sto := rfl
@[simp] theorem updFlt_jx (f : Collector → Collector) : (updFlt s f).jx = s.jx := rfl
@[simp] theorem updFlt_hst (f : Collector → Collector) : (updFlt s f).hst = s.hst := rfl
@[simp] theorem updFlt_dma (f : Collector → Collector) : (updFlt s f).dma = s.dma := rfl
@[simp] theorem updFlt_mbx (f : Collector → Collector) : (updFlt s f).mbx = s.mbx := rfl
@[simp] theorem updFlt_lock (f : Collector → Collector) : (updFlt s f).lock = s.lock := rfl
@[simp] theorem updFlt_boot (f : Collector → Collector) : (updFlt s f).boot = s.boot := rfl
@[simp] theorem updFlt_sec (f : Collector → Collector) : (updFlt s f).sec = s.sec := rfl
@[simp] theorem updFlt_bus (f : Collector → Collector) : (updFlt s f).bus = s.bus := rfl
@[simp] theorem updFlt_out (f : Collector → Collector) : (updFlt s f).out = s.out := rfl

/-! ## updSto -/

@[simp] theorem updSto_pending (f : Store → Store) : (updSto s f).pending = s.pending := rfl
@[simp] theorem updSto_freshCount (f : Store → Store) : (updSto s f).freshCount = s.freshCount := rfl
@[simp] theorem updSto_mod (f : Store → Store) : (updSto s f).mod = s.mod := rfl
@[simp] theorem updSto_pins (f : Store → Store) : (updSto s f).pins = s.pins := rfl
@[simp] theorem updSto_tb (f : Store → Store) : (updSto s f).tb = s.tb := rfl
@[simp] theorem updSto_ldg (f : Store → Store) : (updSto s f).ldg = s.ldg := rfl
@[simp] theorem updSto_pwr (f : Store → Store) : (updSto s f).pwr = s.pwr := rfl
@[simp] theorem updSto_flt (f : Store → Store) : (updSto s f).flt = s.flt := rfl
@[simp] theorem updSto_ch (f : Store → Store) : (updSto s f).ch = s.ch := rfl
@[simp] theorem updSto_unit (f : Store → Store) : (updSto s f).unit = s.unit := rfl
@[simp] theorem updSto_comb (f : Store → Store) : (updSto s f).comb = s.comb := rfl
@[simp] theorem updSto_cal (f : Store → Store) : (updSto s f).cal = s.cal := rfl
@[simp] theorem updSto_seq (f : Store → Store) : (updSto s f).seq = s.seq := rfl
@[simp] theorem updSto_sq (f : Store → Store) : (updSto s f).sq = s.sq := rfl
@[simp] theorem updSto_sto (f : Store → Store) : (updSto s f).sto = f s.sto := rfl
@[simp] theorem updSto_jx (f : Store → Store) : (updSto s f).jx = s.jx := rfl
@[simp] theorem updSto_hst (f : Store → Store) : (updSto s f).hst = s.hst := rfl
@[simp] theorem updSto_dma (f : Store → Store) : (updSto s f).dma = s.dma := rfl
@[simp] theorem updSto_mbx (f : Store → Store) : (updSto s f).mbx = s.mbx := rfl
@[simp] theorem updSto_lock (f : Store → Store) : (updSto s f).lock = s.lock := rfl
@[simp] theorem updSto_boot (f : Store → Store) : (updSto s f).boot = s.boot := rfl
@[simp] theorem updSto_sec (f : Store → Store) : (updSto s f).sec = s.sec := rfl
@[simp] theorem updSto_bus (f : Store → Store) : (updSto s f).bus = s.bus := rfl
@[simp] theorem updSto_out (f : Store → Store) : (updSto s f).out = s.out := rfl

/-! ## updJx -/

@[simp] theorem updJx_pending (f : Jx → Jx) : (updJx s f).pending = s.pending := rfl
@[simp] theorem updJx_freshCount (f : Jx → Jx) : (updJx s f).freshCount = s.freshCount := rfl
@[simp] theorem updJx_mod (f : Jx → Jx) : (updJx s f).mod = s.mod := rfl
@[simp] theorem updJx_pins (f : Jx → Jx) : (updJx s f).pins = s.pins := rfl
@[simp] theorem updJx_tb (f : Jx → Jx) : (updJx s f).tb = s.tb := rfl
@[simp] theorem updJx_ldg (f : Jx → Jx) : (updJx s f).ldg = s.ldg := rfl
@[simp] theorem updJx_pwr (f : Jx → Jx) : (updJx s f).pwr = s.pwr := rfl
@[simp] theorem updJx_flt (f : Jx → Jx) : (updJx s f).flt = s.flt := rfl
@[simp] theorem updJx_ch (f : Jx → Jx) : (updJx s f).ch = s.ch := rfl
@[simp] theorem updJx_unit (f : Jx → Jx) : (updJx s f).unit = s.unit := rfl
@[simp] theorem updJx_comb (f : Jx → Jx) : (updJx s f).comb = s.comb := rfl
@[simp] theorem updJx_cal (f : Jx → Jx) : (updJx s f).cal = s.cal := rfl
@[simp] theorem updJx_seq (f : Jx → Jx) : (updJx s f).seq = s.seq := rfl
@[simp] theorem updJx_sq (f : Jx → Jx) : (updJx s f).sq = s.sq := rfl
@[simp] theorem updJx_sto (f : Jx → Jx) : (updJx s f).sto = s.sto := rfl
@[simp] theorem updJx_jx (f : Jx → Jx) : (updJx s f).jx = f s.jx := rfl
@[simp] theorem updJx_hst (f : Jx → Jx) : (updJx s f).hst = s.hst := rfl
@[simp] theorem updJx_dma (f : Jx → Jx) : (updJx s f).dma = s.dma := rfl
@[simp] theorem updJx_mbx (f : Jx → Jx) : (updJx s f).mbx = s.mbx := rfl
@[simp] theorem updJx_lock (f : Jx → Jx) : (updJx s f).lock = s.lock := rfl
@[simp] theorem updJx_boot (f : Jx → Jx) : (updJx s f).boot = s.boot := rfl
@[simp] theorem updJx_sec (f : Jx → Jx) : (updJx s f).sec = s.sec := rfl
@[simp] theorem updJx_bus (f : Jx → Jx) : (updJx s f).bus = s.bus := rfl
@[simp] theorem updJx_out (f : Jx → Jx) : (updJx s f).out = s.out := rfl

/-! ## updSec -/

@[simp] theorem updSec_pending (f : Sec → Sec) : (updSec s f).pending = s.pending := rfl
@[simp] theorem updSec_freshCount (f : Sec → Sec) : (updSec s f).freshCount = s.freshCount := rfl
@[simp] theorem updSec_mod (f : Sec → Sec) : (updSec s f).mod = s.mod := rfl
@[simp] theorem updSec_pins (f : Sec → Sec) : (updSec s f).pins = s.pins := rfl
@[simp] theorem updSec_tb (f : Sec → Sec) : (updSec s f).tb = s.tb := rfl
@[simp] theorem updSec_ldg (f : Sec → Sec) : (updSec s f).ldg = s.ldg := rfl
@[simp] theorem updSec_pwr (f : Sec → Sec) : (updSec s f).pwr = s.pwr := rfl
@[simp] theorem updSec_flt (f : Sec → Sec) : (updSec s f).flt = s.flt := rfl
@[simp] theorem updSec_ch (f : Sec → Sec) : (updSec s f).ch = s.ch := rfl
@[simp] theorem updSec_unit (f : Sec → Sec) : (updSec s f).unit = s.unit := rfl
@[simp] theorem updSec_comb (f : Sec → Sec) : (updSec s f).comb = s.comb := rfl
@[simp] theorem updSec_cal (f : Sec → Sec) : (updSec s f).cal = s.cal := rfl
@[simp] theorem updSec_seq (f : Sec → Sec) : (updSec s f).seq = s.seq := rfl
@[simp] theorem updSec_sq (f : Sec → Sec) : (updSec s f).sq = s.sq := rfl
@[simp] theorem updSec_sto (f : Sec → Sec) : (updSec s f).sto = s.sto := rfl
@[simp] theorem updSec_jx (f : Sec → Sec) : (updSec s f).jx = s.jx := rfl
@[simp] theorem updSec_hst (f : Sec → Sec) : (updSec s f).hst = s.hst := rfl
@[simp] theorem updSec_dma (f : Sec → Sec) : (updSec s f).dma = s.dma := rfl
@[simp] theorem updSec_mbx (f : Sec → Sec) : (updSec s f).mbx = s.mbx := rfl
@[simp] theorem updSec_lock (f : Sec → Sec) : (updSec s f).lock = s.lock := rfl
@[simp] theorem updSec_boot (f : Sec → Sec) : (updSec s f).boot = s.boot := rfl
@[simp] theorem updSec_sec (f : Sec → Sec) : (updSec s f).sec = f s.sec := rfl
@[simp] theorem updSec_bus (f : Sec → Sec) : (updSec s f).bus = s.bus := rfl
@[simp] theorem updSec_out (f : Sec → Sec) : (updSec s f).out = s.out := rfl

/-! ## updBoot -/

@[simp] theorem updBoot_pending (f : Boot → Boot) : (updBoot s f).pending = s.pending := rfl
@[simp] theorem updBoot_freshCount (f : Boot → Boot) : (updBoot s f).freshCount = s.freshCount := rfl
@[simp] theorem updBoot_mod (f : Boot → Boot) : (updBoot s f).mod = s.mod := rfl
@[simp] theorem updBoot_pins (f : Boot → Boot) : (updBoot s f).pins = s.pins := rfl
@[simp] theorem updBoot_tb (f : Boot → Boot) : (updBoot s f).tb = s.tb := rfl
@[simp] theorem updBoot_ldg (f : Boot → Boot) : (updBoot s f).ldg = s.ldg := rfl
@[simp] theorem updBoot_pwr (f : Boot → Boot) : (updBoot s f).pwr = s.pwr := rfl
@[simp] theorem updBoot_flt (f : Boot → Boot) : (updBoot s f).flt = s.flt := rfl
@[simp] theorem updBoot_ch (f : Boot → Boot) : (updBoot s f).ch = s.ch := rfl
@[simp] theorem updBoot_unit (f : Boot → Boot) : (updBoot s f).unit = s.unit := rfl
@[simp] theorem updBoot_comb (f : Boot → Boot) : (updBoot s f).comb = s.comb := rfl
@[simp] theorem updBoot_cal (f : Boot → Boot) : (updBoot s f).cal = s.cal := rfl
@[simp] theorem updBoot_seq (f : Boot → Boot) : (updBoot s f).seq = s.seq := rfl
@[simp] theorem updBoot_sq (f : Boot → Boot) : (updBoot s f).sq = s.sq := rfl
@[simp] theorem updBoot_sto (f : Boot → Boot) : (updBoot s f).sto = s.sto := rfl
@[simp] theorem updBoot_jx (f : Boot → Boot) : (updBoot s f).jx = s.jx := rfl
@[simp] theorem updBoot_hst (f : Boot → Boot) : (updBoot s f).hst = s.hst := rfl
@[simp] theorem updBoot_dma (f : Boot → Boot) : (updBoot s f).dma = s.dma := rfl
@[simp] theorem updBoot_mbx (f : Boot → Boot) : (updBoot s f).mbx = s.mbx := rfl
@[simp] theorem updBoot_lock (f : Boot → Boot) : (updBoot s f).lock = s.lock := rfl
@[simp] theorem updBoot_boot (f : Boot → Boot) : (updBoot s f).boot = f s.boot := rfl
@[simp] theorem updBoot_sec (f : Boot → Boot) : (updBoot s f).sec = s.sec := rfl
@[simp] theorem updBoot_bus (f : Boot → Boot) : (updBoot s f).bus = s.bus := rfl
@[simp] theorem updBoot_out (f : Boot → Boot) : (updBoot s f).out = s.out := rfl

/-! ## updHst -/

@[simp] theorem updHst_pending (f : Hst → Hst) : (updHst s f).pending = s.pending := rfl
@[simp] theorem updHst_freshCount (f : Hst → Hst) : (updHst s f).freshCount = s.freshCount := rfl
@[simp] theorem updHst_mod (f : Hst → Hst) : (updHst s f).mod = s.mod := rfl
@[simp] theorem updHst_pins (f : Hst → Hst) : (updHst s f).pins = s.pins := rfl
@[simp] theorem updHst_tb (f : Hst → Hst) : (updHst s f).tb = s.tb := rfl
@[simp] theorem updHst_ldg (f : Hst → Hst) : (updHst s f).ldg = s.ldg := rfl
@[simp] theorem updHst_pwr (f : Hst → Hst) : (updHst s f).pwr = s.pwr := rfl
@[simp] theorem updHst_flt (f : Hst → Hst) : (updHst s f).flt = s.flt := rfl
@[simp] theorem updHst_ch (f : Hst → Hst) : (updHst s f).ch = s.ch := rfl
@[simp] theorem updHst_unit (f : Hst → Hst) : (updHst s f).unit = s.unit := rfl
@[simp] theorem updHst_comb (f : Hst → Hst) : (updHst s f).comb = s.comb := rfl
@[simp] theorem updHst_cal (f : Hst → Hst) : (updHst s f).cal = s.cal := rfl
@[simp] theorem updHst_seq (f : Hst → Hst) : (updHst s f).seq = s.seq := rfl
@[simp] theorem updHst_sq (f : Hst → Hst) : (updHst s f).sq = s.sq := rfl
@[simp] theorem updHst_sto (f : Hst → Hst) : (updHst s f).sto = s.sto := rfl
@[simp] theorem updHst_jx (f : Hst → Hst) : (updHst s f).jx = s.jx := rfl
@[simp] theorem updHst_hst (f : Hst → Hst) : (updHst s f).hst = f s.hst := rfl
@[simp] theorem updHst_dma (f : Hst → Hst) : (updHst s f).dma = s.dma := rfl
@[simp] theorem updHst_mbx (f : Hst → Hst) : (updHst s f).mbx = s.mbx := rfl
@[simp] theorem updHst_lock (f : Hst → Hst) : (updHst s f).lock = s.lock := rfl
@[simp] theorem updHst_boot (f : Hst → Hst) : (updHst s f).boot = s.boot := rfl
@[simp] theorem updHst_sec (f : Hst → Hst) : (updHst s f).sec = s.sec := rfl
@[simp] theorem updHst_bus (f : Hst → Hst) : (updHst s f).bus = s.bus := rfl
@[simp] theorem updHst_out (f : Hst → Hst) : (updHst s f).out = s.out := rfl

/-! ## updPins -/

@[simp] theorem updPins_pending (f : Pins → Pins) : (updPins s f).pending = s.pending := rfl
@[simp] theorem updPins_freshCount (f : Pins → Pins) : (updPins s f).freshCount = s.freshCount := rfl
@[simp] theorem updPins_mod (f : Pins → Pins) : (updPins s f).mod = s.mod := rfl
@[simp] theorem updPins_pins (f : Pins → Pins) : (updPins s f).pins = f s.pins := rfl
@[simp] theorem updPins_tb (f : Pins → Pins) : (updPins s f).tb = s.tb := rfl
@[simp] theorem updPins_ldg (f : Pins → Pins) : (updPins s f).ldg = s.ldg := rfl
@[simp] theorem updPins_pwr (f : Pins → Pins) : (updPins s f).pwr = s.pwr := rfl
@[simp] theorem updPins_flt (f : Pins → Pins) : (updPins s f).flt = s.flt := rfl
@[simp] theorem updPins_ch (f : Pins → Pins) : (updPins s f).ch = s.ch := rfl
@[simp] theorem updPins_unit (f : Pins → Pins) : (updPins s f).unit = s.unit := rfl
@[simp] theorem updPins_comb (f : Pins → Pins) : (updPins s f).comb = s.comb := rfl
@[simp] theorem updPins_cal (f : Pins → Pins) : (updPins s f).cal = s.cal := rfl
@[simp] theorem updPins_seq (f : Pins → Pins) : (updPins s f).seq = s.seq := rfl
@[simp] theorem updPins_sq (f : Pins → Pins) : (updPins s f).sq = s.sq := rfl
@[simp] theorem updPins_sto (f : Pins → Pins) : (updPins s f).sto = s.sto := rfl
@[simp] theorem updPins_jx (f : Pins → Pins) : (updPins s f).jx = s.jx := rfl
@[simp] theorem updPins_hst (f : Pins → Pins) : (updPins s f).hst = s.hst := rfl
@[simp] theorem updPins_dma (f : Pins → Pins) : (updPins s f).dma = s.dma := rfl
@[simp] theorem updPins_mbx (f : Pins → Pins) : (updPins s f).mbx = s.mbx := rfl
@[simp] theorem updPins_lock (f : Pins → Pins) : (updPins s f).lock = s.lock := rfl
@[simp] theorem updPins_boot (f : Pins → Pins) : (updPins s f).boot = s.boot := rfl
@[simp] theorem updPins_sec (f : Pins → Pins) : (updPins s f).sec = s.sec := rfl
@[simp] theorem updPins_bus (f : Pins → Pins) : (updPins s f).bus = s.bus := rfl
@[simp] theorem updPins_out (f : Pins → Pins) : (updPins s f).out = s.out := rfl

/-! ## updBus -/

@[simp] theorem updBus_pending (f : Bus → Bus) : (updBus s f).pending = s.pending := rfl
@[simp] theorem updBus_freshCount (f : Bus → Bus) : (updBus s f).freshCount = s.freshCount := rfl
@[simp] theorem updBus_mod (f : Bus → Bus) : (updBus s f).mod = s.mod := rfl
@[simp] theorem updBus_pins (f : Bus → Bus) : (updBus s f).pins = s.pins := rfl
@[simp] theorem updBus_tb (f : Bus → Bus) : (updBus s f).tb = s.tb := rfl
@[simp] theorem updBus_ldg (f : Bus → Bus) : (updBus s f).ldg = s.ldg := rfl
@[simp] theorem updBus_pwr (f : Bus → Bus) : (updBus s f).pwr = s.pwr := rfl
@[simp] theorem updBus_flt (f : Bus → Bus) : (updBus s f).flt = s.flt := rfl
@[simp] theorem updBus_ch (f : Bus → Bus) : (updBus s f).ch = s.ch := rfl
@[simp] theorem updBus_unit (f : Bus → Bus) : (updBus s f).unit = s.unit := rfl
@[simp] theorem updBus_comb (f : Bus → Bus) : (updBus s f).comb = s.comb := rfl
@[simp] theorem updBus_cal (f : Bus → Bus) : (updBus s f).cal = s.cal := rfl
@[simp] theorem updBus_seq (f : Bus → Bus) : (updBus s f).seq = s.seq := rfl
@[simp] theorem updBus_sq (f : Bus → Bus) : (updBus s f).sq = s.sq := rfl
@[simp] theorem updBus_sto (f : Bus → Bus) : (updBus s f).sto = s.sto := rfl
@[simp] theorem updBus_jx (f : Bus → Bus) : (updBus s f).jx = s.jx := rfl
@[simp] theorem updBus_hst (f : Bus → Bus) : (updBus s f).hst = s.hst := rfl
@[simp] theorem updBus_dma (f : Bus → Bus) : (updBus s f).dma = s.dma := rfl
@[simp] theorem updBus_mbx (f : Bus → Bus) : (updBus s f).mbx = s.mbx := rfl
@[simp] theorem updBus_lock (f : Bus → Bus) : (updBus s f).lock = s.lock := rfl
@[simp] theorem updBus_boot (f : Bus → Bus) : (updBus s f).boot = s.boot := rfl
@[simp] theorem updBus_sec (f : Bus → Bus) : (updBus s f).sec = s.sec := rfl
@[simp] theorem updBus_bus (f : Bus → Bus) : (updBus s f).bus = f s.bus := rfl
@[simp] theorem updBus_out (f : Bus → Bus) : (updBus s f).out = s.out := rfl

/-! ## sendMsix -/

@[simp] theorem sendMsix_pending (v : Nat) : (sendMsix s v).pending = s.pending := rfl
@[simp] theorem sendMsix_freshCount (v : Nat) : (sendMsix s v).freshCount = s.freshCount := rfl
@[simp] theorem sendMsix_mod (v : Nat) : (sendMsix s v).mod = s.mod := rfl
@[simp] theorem sendMsix_pins (v : Nat) : (sendMsix s v).pins = s.pins := rfl
@[simp] theorem sendMsix_tb (v : Nat) : (sendMsix s v).tb = s.tb := rfl
@[simp] theorem sendMsix_ldg (v : Nat) : (sendMsix s v).ldg = s.ldg := rfl
@[simp] theorem sendMsix_pwr (v : Nat) : (sendMsix s v).pwr = s.pwr := rfl
@[simp] theorem sendMsix_flt (v : Nat) : (sendMsix s v).flt = s.flt := rfl
@[simp] theorem sendMsix_ch (v : Nat) : (sendMsix s v).ch = s.ch := rfl
@[simp] theorem sendMsix_unit (v : Nat) : (sendMsix s v).unit = s.unit := rfl
@[simp] theorem sendMsix_comb (v : Nat) : (sendMsix s v).comb = s.comb := rfl
@[simp] theorem sendMsix_cal (v : Nat) : (sendMsix s v).cal = s.cal := rfl
@[simp] theorem sendMsix_seq (v : Nat) : (sendMsix s v).seq = s.seq := rfl
@[simp] theorem sendMsix_sq (v : Nat) : (sendMsix s v).sq = s.sq := rfl
@[simp] theorem sendMsix_sto (v : Nat) : (sendMsix s v).sto = s.sto := rfl
@[simp] theorem sendMsix_jx (v : Nat) : (sendMsix s v).jx = s.jx := rfl
@[simp] theorem sendMsix_hst (v : Nat) : (sendMsix s v).hst = s.hst := rfl
@[simp] theorem sendMsix_dma (v : Nat) : (sendMsix s v).dma = s.dma := rfl
@[simp] theorem sendMsix_mbx (v : Nat) : (sendMsix s v).mbx = s.mbx := rfl
@[simp] theorem sendMsix_lock (v : Nat) : (sendMsix s v).lock = s.lock := rfl
@[simp] theorem sendMsix_boot (v : Nat) : (sendMsix s v).boot = s.boot := rfl
@[simp] theorem sendMsix_sec (v : Nat) : (sendMsix s v).sec = s.sec := rfl
@[simp] theorem sendMsix_bus (v : Nat) : (sendMsix s v).bus = s.bus := rfl
@[simp] theorem sendMsix_out (v : Nat) : (sendMsix s v).out = { s.out with msix := v :: s.out.msix } := rfl

/-! ## sendFrame -/

@[simp] theorem sendFrame_pending (f : Frame) : (sendFrame s f).pending = s.pending := rfl
@[simp] theorem sendFrame_freshCount (f : Frame) : (sendFrame s f).freshCount = s.freshCount := rfl
@[simp] theorem sendFrame_mod (f : Frame) : (sendFrame s f).mod = s.mod := rfl
@[simp] theorem sendFrame_pins (f : Frame) : (sendFrame s f).pins = s.pins := rfl
@[simp] theorem sendFrame_tb (f : Frame) : (sendFrame s f).tb = s.tb := rfl
@[simp] theorem sendFrame_ldg (f : Frame) : (sendFrame s f).ldg = s.ldg := rfl
@[simp] theorem sendFrame_pwr (f : Frame) : (sendFrame s f).pwr = s.pwr := rfl
@[simp] theorem sendFrame_flt (f : Frame) : (sendFrame s f).flt = s.flt := rfl
@[simp] theorem sendFrame_ch (f : Frame) : (sendFrame s f).ch = s.ch := rfl
@[simp] theorem sendFrame_unit (f : Frame) : (sendFrame s f).unit = s.unit := rfl
@[simp] theorem sendFrame_comb (f : Frame) : (sendFrame s f).comb = s.comb := rfl
@[simp] theorem sendFrame_cal (f : Frame) : (sendFrame s f).cal = s.cal := rfl
@[simp] theorem sendFrame_seq (f : Frame) : (sendFrame s f).seq = s.seq := rfl
@[simp] theorem sendFrame_sq (f : Frame) : (sendFrame s f).sq = s.sq := rfl
@[simp] theorem sendFrame_sto (f : Frame) : (sendFrame s f).sto = s.sto := rfl
@[simp] theorem sendFrame_jx (f : Frame) :
    (sendFrame s f).jx = { s.jx with line := lineAdd (lineNow s) f s.jx.line } := rfl
@[simp] theorem sendFrame_hst (f : Frame) : (sendFrame s f).hst = s.hst := rfl
@[simp] theorem sendFrame_dma (f : Frame) : (sendFrame s f).dma = s.dma := rfl
@[simp] theorem sendFrame_mbx (f : Frame) : (sendFrame s f).mbx = s.mbx := rfl
@[simp] theorem sendFrame_lock (f : Frame) : (sendFrame s f).lock = s.lock := rfl
@[simp] theorem sendFrame_boot (f : Frame) : (sendFrame s f).boot = s.boot := rfl
@[simp] theorem sendFrame_sec (f : Frame) : (sendFrame s f).sec = s.sec := rfl
@[simp] theorem sendFrame_bus (f : Frame) : (sendFrame s f).bus = s.bus := rfl
@[simp] theorem sendFrame_out (f : Frame) : (sendFrame s f).out = { s.out with ring := f :: s.out.ring } := rfl

/-! ## sendAvs -/

@[simp] theorem sendAvs_pending (mv : Nat) : (sendAvs s mv).pending = s.pending := rfl
@[simp] theorem sendAvs_freshCount (mv : Nat) : (sendAvs s mv).freshCount = s.freshCount := rfl
@[simp] theorem sendAvs_mod (mv : Nat) : (sendAvs s mv).mod = s.mod := rfl
@[simp] theorem sendAvs_pins (mv : Nat) : (sendAvs s mv).pins = s.pins := rfl
@[simp] theorem sendAvs_tb (mv : Nat) : (sendAvs s mv).tb = s.tb := rfl
@[simp] theorem sendAvs_ldg (mv : Nat) : (sendAvs s mv).ldg = s.ldg := rfl
@[simp] theorem sendAvs_pwr (mv : Nat) : (sendAvs s mv).pwr = s.pwr := rfl
@[simp] theorem sendAvs_flt (mv : Nat) : (sendAvs s mv).flt = s.flt := rfl
@[simp] theorem sendAvs_ch (mv : Nat) : (sendAvs s mv).ch = s.ch := rfl
@[simp] theorem sendAvs_unit (mv : Nat) : (sendAvs s mv).unit = s.unit := rfl
@[simp] theorem sendAvs_comb (mv : Nat) : (sendAvs s mv).comb = s.comb := rfl
@[simp] theorem sendAvs_cal (mv : Nat) : (sendAvs s mv).cal = s.cal := rfl
@[simp] theorem sendAvs_seq (mv : Nat) : (sendAvs s mv).seq = s.seq := rfl
@[simp] theorem sendAvs_sq (mv : Nat) : (sendAvs s mv).sq = s.sq := rfl
@[simp] theorem sendAvs_sto (mv : Nat) : (sendAvs s mv).sto = s.sto := rfl
@[simp] theorem sendAvs_jx (mv : Nat) : (sendAvs s mv).jx = s.jx := rfl
@[simp] theorem sendAvs_hst (mv : Nat) : (sendAvs s mv).hst = s.hst := rfl
@[simp] theorem sendAvs_dma (mv : Nat) : (sendAvs s mv).dma = s.dma := rfl
@[simp] theorem sendAvs_mbx (mv : Nat) : (sendAvs s mv).mbx = s.mbx := rfl
@[simp] theorem sendAvs_lock (mv : Nat) : (sendAvs s mv).lock = s.lock := rfl
@[simp] theorem sendAvs_boot (mv : Nat) : (sendAvs s mv).boot = s.boot := rfl
@[simp] theorem sendAvs_sec (mv : Nat) : (sendAvs s mv).sec = s.sec := rfl
@[simp] theorem sendAvs_bus (mv : Nat) : (sendAvs s mv).bus = s.bus := rfl
@[simp] theorem sendAvs_out (mv : Nat) : (sendAvs s mv).out = { s.out with avs := mv :: s.out.avs } := rfl

/-! ## sendHost -/

@[simp] theorem sendHost_pending (a : Nat) (bs : List Byte) : (sendHost s a bs).pending = s.pending := rfl
@[simp] theorem sendHost_freshCount (a : Nat) (bs : List Byte) : (sendHost s a bs).freshCount = s.freshCount := rfl
@[simp] theorem sendHost_mod (a : Nat) (bs : List Byte) : (sendHost s a bs).mod = s.mod := rfl
@[simp] theorem sendHost_pins (a : Nat) (bs : List Byte) : (sendHost s a bs).pins = s.pins := rfl
@[simp] theorem sendHost_tb (a : Nat) (bs : List Byte) : (sendHost s a bs).tb = s.tb := rfl
@[simp] theorem sendHost_ldg (a : Nat) (bs : List Byte) : (sendHost s a bs).ldg = s.ldg := rfl
@[simp] theorem sendHost_pwr (a : Nat) (bs : List Byte) : (sendHost s a bs).pwr = s.pwr := rfl
@[simp] theorem sendHost_flt (a : Nat) (bs : List Byte) : (sendHost s a bs).flt = s.flt := rfl
@[simp] theorem sendHost_ch (a : Nat) (bs : List Byte) : (sendHost s a bs).ch = s.ch := rfl
@[simp] theorem sendHost_unit (a : Nat) (bs : List Byte) : (sendHost s a bs).unit = s.unit := rfl
@[simp] theorem sendHost_comb (a : Nat) (bs : List Byte) : (sendHost s a bs).comb = s.comb := rfl
@[simp] theorem sendHost_cal (a : Nat) (bs : List Byte) : (sendHost s a bs).cal = s.cal := rfl
@[simp] theorem sendHost_seq (a : Nat) (bs : List Byte) : (sendHost s a bs).seq = s.seq := rfl
@[simp] theorem sendHost_sq (a : Nat) (bs : List Byte) : (sendHost s a bs).sq = s.sq := rfl
@[simp] theorem sendHost_sto (a : Nat) (bs : List Byte) : (sendHost s a bs).sto = s.sto := rfl
@[simp] theorem sendHost_jx (a : Nat) (bs : List Byte) : (sendHost s a bs).jx = s.jx := rfl
@[simp] theorem sendHost_hst (a : Nat) (bs : List Byte) : (sendHost s a bs).hst = s.hst := rfl
@[simp] theorem sendHost_dma (a : Nat) (bs : List Byte) : (sendHost s a bs).dma = s.dma := rfl
@[simp] theorem sendHost_mbx (a : Nat) (bs : List Byte) : (sendHost s a bs).mbx = s.mbx := rfl
@[simp] theorem sendHost_lock (a : Nat) (bs : List Byte) : (sendHost s a bs).lock = s.lock := rfl
@[simp] theorem sendHost_boot (a : Nat) (bs : List Byte) : (sendHost s a bs).boot = s.boot := rfl
@[simp] theorem sendHost_sec (a : Nat) (bs : List Byte) : (sendHost s a bs).sec = s.sec := rfl
@[simp] theorem sendHost_bus (a : Nat) (bs : List Byte) : (sendHost s a bs).bus = s.bus := rfl
@[simp] theorem sendHost_out (a : Nat) (bs : List Byte) :
    (sendHost s a bs).out = { s.out with host := (a, bs) :: s.out.host } := rfl

/-! ## send -/

@[simp] theorem send_pending (kind source detail : Nat) : (send s kind source detail).pending = s.pending := rfl
@[simp] theorem send_freshCount (kind source detail : Nat) :
    (send s kind source detail).freshCount = s.freshCount := rfl
@[simp] theorem send_mod (kind source detail : Nat) : (send s kind source detail).mod = s.mod := rfl
@[simp] theorem send_pins (kind source detail : Nat) : (send s kind source detail).pins = s.pins := rfl
@[simp] theorem send_tb (kind source detail : Nat) : (send s kind source detail).tb = s.tb := rfl
@[simp] theorem send_ldg (kind source detail : Nat) : (send s kind source detail).ldg = s.ldg := rfl
@[simp] theorem send_pwr (kind source detail : Nat) : (send s kind source detail).pwr = s.pwr := rfl
@[simp] theorem send_flt (kind source detail : Nat) :
    (send s kind source detail).flt = { s.flt with inbox := s.flt.inbox ++ [⟨⟨kind, source, detail⟩, s.tb.now⟩] } := rfl
@[simp] theorem send_ch (kind source detail : Nat) : (send s kind source detail).ch = s.ch := rfl
@[simp] theorem send_unit (kind source detail : Nat) : (send s kind source detail).unit = s.unit := rfl
@[simp] theorem send_comb (kind source detail : Nat) : (send s kind source detail).comb = s.comb := rfl
@[simp] theorem send_cal (kind source detail : Nat) : (send s kind source detail).cal = s.cal := rfl
@[simp] theorem send_seq (kind source detail : Nat) : (send s kind source detail).seq = s.seq := rfl
@[simp] theorem send_sq (kind source detail : Nat) : (send s kind source detail).sq = s.sq := rfl
@[simp] theorem send_sto (kind source detail : Nat) : (send s kind source detail).sto = s.sto := rfl
@[simp] theorem send_jx (kind source detail : Nat) : (send s kind source detail).jx = s.jx := rfl
@[simp] theorem send_hst (kind source detail : Nat) : (send s kind source detail).hst = s.hst := rfl
@[simp] theorem send_dma (kind source detail : Nat) : (send s kind source detail).dma = s.dma := rfl
@[simp] theorem send_mbx (kind source detail : Nat) : (send s kind source detail).mbx = s.mbx := rfl
@[simp] theorem send_lock (kind source detail : Nat) : (send s kind source detail).lock = s.lock := rfl
@[simp] theorem send_boot (kind source detail : Nat) : (send s kind source detail).boot = s.boot := rfl
@[simp] theorem send_sec (kind source detail : Nat) : (send s kind source detail).sec = s.sec := rfl
@[simp] theorem send_bus (kind source detail : Nat) : (send s kind source detail).bus = s.bus := rfl
@[simp] theorem send_out (kind source detail : Nat) : (send s kind source detail).out = s.out := rfl

/-! ## One instance and the others -/

theorem updCh_self (c : Fin 128) (f : Channel → Channel) : (updCh s c f).ch[c] = f s.ch[c] := by simp [updCh]
theorem updCh_other (c d : Fin 128) (f : Channel → Channel) (h : c ≠ d) : (updCh s c f).ch[d] = s.ch[d] := by
  have h' : c.val ≠ d.val := fun e => h (Fin.ext e)
  simp [updCh, h']
theorem updUnit_self (c : Fin 144) (f : CalUnit → CalUnit) : (updUnit s c f).unit[c] = f s.unit[c] := by simp [updUnit]
theorem updUnit_other (c d : Fin 144) (f : CalUnit → CalUnit) (h : c ≠ d) : (updUnit s c f).unit[d] = s.unit[d] := by
  have h' : c.val ≠ d.val := fun e => h (Fin.ext e)
  simp [updUnit, h']
theorem updComb_self (c : Fin 16) (f : Comb → Comb) : (updComb s c f).comb[c] = f s.comb[c] := by simp [updComb]
theorem updComb_other (c d : Fin 16) (f : Comb → Comb) (h : c ≠ d) : (updComb s c f).comb[d] = s.comb[d] := by
  have h' : c.val ≠ d.val := fun e => h (Fin.ext e)
  simp [updComb, h']
theorem updQ_self (c : Fin 32) (f : Queue → Queue) : (updQ s c f).sq[c] = f s.sq[c] := by simp [updQ]
theorem updQ_other (c d : Fin 32) (f : Queue → Queue) (h : c ≠ d) : (updQ s c f).sq[d] = s.sq[d] := by
  have h' : c.val ≠ d.val := fun e => h (Fin.ext e)
  simp [updQ, h']
theorem updDma_self (c : Fin 8) (f : Dma → Dma) : (updDma s c f).dma[c] = f s.dma[c] := by simp [updDma]
theorem updDma_other (c d : Fin 8) (f : Dma → Dma) (h : c ≠ d) : (updDma s c f).dma[d] = s.dma[d] := by
  have h' : c.val ≠ d.val := fun e => h (Fin.ext e)
  simp [updDma, h']

end Sys2Proof.Machine
end

