-- ==== Sys2Proof/Laws/KeepsReaction.lean ====
section
/-!
SUPPORT. What the operations of the queues, calibration, fault reactions, the collector and the boundary keep: each takes a state that Keeps relates to `s₀` to another.
-/

namespace Sys2Proof.Machine

variable {s₀ s : State}

theorem updWm_keeps (h : Keeps s₀ s) :
    Keeps s₀ (updWm s) := by
  unfold updWm
  repeat' first
    | with_reducible assumption
    | intro _
    | with_reducible apply updPins_keeps
    | with_reducible apply keeps_ite
    | split
    | dsimp only
    | rfl

theorem endDrop_keeps {n : Fin 32} (h : Keeps s₀ s) :
    Keeps s₀ (endDrop s n) := by
  unfold endDrop
  repeat' first
    | with_reducible assumption
    | intro _
    | with_reducible refine updQ_same ?_ ?_ ?_ ?_ ?_
    | with_reducible apply send_keeps
    | with_reducible apply keeps_ite
    | split
    | dsimp only
    | rfl

theorem queueAccept_keeps {n : Fin 32} {i : QItem} (h : Keeps s₀ s) :
    Keeps s₀ (queueWrite.queueAccept s n i) := by
  simp only [queueWrite.queueAccept]
  split
  · exact updWm_keeps (updQ_keeps' (send_keeps h) fun q hq =>
      dropItem_balanced (q := { q with pktOpen := false, pktLen := 0 }) hq)
  · rename_i hc
    split
    · refine updWm_keeps (updQ_keeps (send_keeps h) fun hq => ?_)
      split
      · exact pushItem_balanced (breakPacket_balanced hq) hc
      · exact breakPacket_balanced hq
    · exact updWm_keeps (updQ_keeps h fun hq => pushItem_balanced hq hc)

theorem queueWrite_keeps {n : Fin 32} {i : QItem} (h : Keeps s₀ s) : Keeps s₀ (queueWrite s n i) := by
  simp only [queueWrite]
  split
  · exact h
  · split
    · exact updWm_keeps (updQ_keeps' h fun _ => dropItem_balanced)
    · exact queueAccept_keeps (keeps_ite (endDrop_keeps h) h)

theorem takeItem_keeps {n : Fin 32} (h : Keeps s₀ s) : Keeps s₀ (takeItem s n).2 := by
  simp only [takeItem]
  split
  · rename_i hv
    simp only [Bool.and_eq_true, decide_eq_true_eq] at hv
    split
    · rename_i hi
      exact updWm_keeps (updQ_keeps h fun hq => takeHead_balanced hq hv.2 hi)
    · exact h
  · exact h

theorem checkPacket_keeps {n : Fin 32} (h : Keeps s₀ s) :
    Keeps s₀ (checkPacket s n) := by
  unfold checkPacket
  repeat' first
    | with_reducible assumption
    | intro _
    | with_reducible refine updQ_same ?_ ?_ ?_ ?_ ?_
    | with_reducible apply send_keeps
    | with_reducible apply keeps_ite
    | split
    | dsimp only
    | rfl

theorem sendPacket_keeps {n : Fin 32} (h : Keeps s₀ s) :
    Keeps s₀ (sendPacket s n) := by
  unfold sendPacket
  repeat' first
    | with_reducible assumption
    | intro _
    | with_reducible refine updQ_same ?_ ?_ ?_ ?_ ?_
    | with_reducible apply sendNew_keeps
    | with_reducible apply keeps_ite
    | split
    | dsimp only
    | rfl

theorem endPacket_keeps {n : Fin 32} (h : Keeps s₀ s) :
    Keeps s₀ (endPacket s n) := by
  unfold endPacket
  repeat' first
    | with_reducible assumption
    | intro _
    | with_reducible apply send_keeps
    | with_reducible refine updQ_same ?_ ?_ ?_ ?_ ?_
    | with_reducible apply keeps_ite
    | split
    | dsimp only
    | rfl

theorem gather_keeps {n : Fin 32} {i : QItem} {f : State → Fin 32 → State} (h : Keeps s₀ s)
    (hf : ∀ s n, Keeps s₀ s → Keeps s₀ (f s n)) : Keeps s₀ (gather s n i f) := by
  unfold gather
  repeat' first
    | with_reducible assumption
    | with_reducible apply keeps_ite
    | with_reducible refine updQ_same ?_ (fun _ => rfl) (fun _ => rfl) (fun _ => rfl) (fun _ => rfl)
    | apply hf
    | dsimp only

theorem sendSlot_keeps {x : StreamSlot} (h : Keeps s₀ s) :
    Keeps s₀ (sendSlot s x) := by
  unfold sendSlot
  repeat' first
    | with_reducible assumption
    | intro _
    | with_reducible apply keeps_ite
    | split
    | dsimp only
    | with_reducible refine keeps_mk ?_ rfl rfl rfl rfl

theorem queueRead_keeps {n : Fin 32} (h : Keeps s₀ s) :
    Keeps s₀ (queueRead s n) := by
  unfold queueRead
  repeat' first
    | with_reducible assumption
    | intro _
    | with_reducible apply takeItem_keeps
    | with_reducible apply gather_keeps
    | with_reducible apply sendPacket_keeps
    | with_reducible apply sendSlot_keeps
    | with_reducible apply checkPacket_keeps
    | with_reducible apply endPacket_keeps
    | with_reducible apply keeps_ite
    | with_reducible refine keeps_snd ?_ ‹_ = (_, _)›
    | split
    | dsimp only

theorem injectOne_keeps {n : Fin 32} (h : Keeps s₀ s) :
    Keeps s₀ (injectOne s n) := by
  unfold injectOne
  repeat' first
    | with_reducible assumption
    | intro _
    | with_reducible refine updQ_same ?_ ?_ ?_ ?_ ?_
    | with_reducible apply send_keeps
    | with_reducible apply writeTarget_keeps
    | with_reducible apply ownedBy_keeps
    | with_reducible apply updPg_keeps
    | with_reducible apply updCh_keeps
    | with_reducible apply keeps_ite
    | split
    | dsimp only
    | rfl
    | with_reducible refine keeps_mk ?_ rfl rfl rfl rfl

theorem injectAll_keeps (h : Keeps s₀ s) :
    Keeps s₀ (injectAll s) := by
  unfold injectAll
  repeat' first
    | with_reducible assumption
    | intro _
    | with_reducible apply injectOne_keeps
    | with_reducible refine keeps_foldl ?_ ?_
    | with_reducible apply keeps_ite
    | split
    | dsimp only

theorem startPort_keeps {n : Fin 32} (h : Keeps s₀ s) :
    Keeps s₀ (startPort s n) := by
  unfold startPort
  repeat' first
    | with_reducible assumption
    | intro _
    | with_reducible apply sendSlot_keeps
    | with_reducible apply keeps_ite
    | split
    | dsimp only

theorem writeQueueEn_keeps {n : Fin 32} {en : Bool} (h : Keeps s₀ s) :
    Keeps s₀ (writeQueueEn s n en) := by
  unfold writeQueueEn
  repeat' first
    | with_reducible assumption
    | intro _
    | with_reducible refine updQ_same ?_ ?_ ?_ ?_ ?_
    | with_reducible apply admitQueue_keeps
    | with_reducible apply startPort_keeps
    | with_reducible apply keeps_ite
    | with_reducible refine keeps_snd ?_ ‹_ = (_, _)›
    | split
    | dsimp only
    | rfl

theorem beginCommit_keeps {c : Fin 16} {i : Fin 9} {r : Record} (h : Keeps s₀ s) :
    Keeps s₀ (beginCommit s c i r) := by
  unfold beginCommit
  repeat' first
    | with_reducible assumption
    | intro _
    | with_reducible refine updComb_same ?_ (fun _ => rfl) (fun _ => rfl) (fun _ => rfl) (fun _ => rfl) (fun _ => rfl)
    | with_reducible apply updUnit_keeps
    | with_reducible apply keeps_ite
    | split
    | dsimp only

theorem dropCommit_keeps {c : Fin 16} {r : CalRun} (h : Keeps s₀ s) :
    Keeps s₀ (dropCommit s c r) := by
  unfold dropCommit
  repeat' first
    | with_reducible assumption
    | intro _
    | with_reducible refine updComb_same ?_ (fun _ => rfl) (fun _ => rfl) (fun _ => rfl) (fun _ => rfl) (fun _ => rfl)
    | with_reducible apply keeps_ite
    | split
    | dsimp only

theorem unitNotice_keeps {p : Fin 144} {kind d : Nat} (h : Keeps s₀ s) :
    Keeps s₀ (unitNotice s p kind d) := by
  unfold unitNotice
  repeat' first
    | with_reducible assumption
    | intro _
    | with_reducible apply send_keeps
    | with_reducible apply keeps_ite
    | split
    | dsimp only

theorem deferUnit_keeps {p : Fin 144} (h : Keeps s₀ s) :
    Keeps s₀ (deferUnit s p) := by
  unfold deferUnit
  repeat' first
    | with_reducible assumption
    | intro _
    | with_reducible apply unitNotice_keeps
    | with_reducible apply updUnit_keeps
    | with_reducible refine keeps_foldl ?_ ?_
    | with_reducible apply keeps_ite
    | split
    | dsimp only

theorem rejectTerms_keeps {c : Fin 16} (h : Keeps s₀ s) :
    Keeps s₀ (rejectTerms s c) := by
  unfold rejectTerms
  repeat' first
    | with_reducible assumption
    | intro _
    | with_reducible apply updUnit_keeps
    | with_reducible apply cmdRej_keeps
    | with_reducible refine keeps_foldl ?_ ?_
    | with_reducible apply keeps_ite
    | split
    | dsimp only

theorem startRun_keeps {c : Fin 16} {u : Fin 9} {kind : RunKind} {b : Nat} (h : Keeps s₀ s) :
    Keeps s₀ (startRun s c u kind b) := by
  unfold startRun
  repeat' first
    | with_reducible assumption
    | intro _
    | with_reducible refine updComb_same ?_ (fun _ => rfl) (fun _ => rfl) (fun _ => rfl) (fun _ => rfl) (fun _ => rfl)
    | with_reducible apply updUnit_keeps
    | with_reducible apply updCh_keeps
    | with_reducible apply keeps_ite
    | split
    | dsimp only

theorem deferDue_keeps {c : Fin 16} {b : Nat} (h : Keeps s₀ s) :
    Keeps s₀ (deferDue s c b) := by
  unfold deferDue
  repeat' first
    | with_reducible assumption
    | intro _
    | with_reducible apply deferUnit_keeps
    | with_reducible refine keeps_foldl ?_ ?_
    | with_reducible apply keeps_ite
    | split
    | dsimp only

theorem startFirst_keeps {c : Fin 16} {b : Nat} {l : List (Fin 9)} (h : Keeps s₀ s) :
    Keeps s₀ (startFirst s c b l) := by
  induction l generalizing s with
  | nil => exact h
  | cons u l ih =>
    unfold startFirst
    repeat' first
      | with_reducible assumption
      | with_reducible apply ih
      | with_reducible apply startRun_keeps
      | with_reducible apply deferUnit_keeps
      | split

theorem freeComb_keeps {c : Fin 16} {r : CalRun} (h : Keeps s₀ s) :
    Keeps s₀ (freeComb s c r) := by
  unfold freeComb
  repeat' first
    | with_reducible assumption
    | intro _
    | with_reducible refine updComb_same ?_ (fun _ => rfl) (fun _ => rfl) (fun _ => rfl) (fun _ => rfl) (fun _ => rfl)
    | with_reducible apply updUnit_keeps
    | with_reducible apply updMs_keeps
    | with_reducible apply keeps_ite
    | split
    | dsimp only

theorem finishRun_keeps {c : Fin 16} {r : CalRun} (h : Keeps s₀ s) :
    Keeps s₀ (finishRun s c r) := by
  unfold finishRun
  repeat' first
    | with_reducible assumption
    | intro _
    | with_reducible apply freeComb_keeps
    | with_reducible apply updUnit_keeps
    | with_reducible apply updCh_keeps
    | with_reducible apply keeps_ite
    | split
    | dsimp only

theorem dropRun_keeps {c : Fin 16} {r : CalRun} (h : Keeps s₀ s) :
    Keeps s₀ (dropRun s c r) := by
  unfold dropRun
  repeat' first
    | with_reducible assumption
    | intro _
    | with_reducible apply freeComb_keeps
    | with_reducible apply keeps_ite
    | split
    | dsimp only

theorem endRun_keeps {c : Fin 16} {r : CalRun} (h : Keeps s₀ s) :
    Keeps s₀ (endRun s c r) := by
  unfold endRun
  repeat' first
    | with_reducible assumption
    | intro _
    | with_reducible apply dropRun_keeps
    | with_reducible apply finishRun_keeps
    | with_reducible apply keeps_ite
    | split
    | dsimp only

theorem abortRun_keeps {c : Fin 16} {cause : CalCause} {atOnce : Bool} (h : Keeps s₀ s) :
    Keeps s₀ (abortRun s c cause atOnce) := by
  unfold abortRun
  repeat' first
    | with_reducible assumption
    | intro _
    | with_reducible apply dropRun_keeps
    | with_reducible apply dropCommit_keeps
    | with_reducible apply unitNotice_keeps
    | with_reducible apply updUnit_keeps
    | with_reducible refine updComb_same ?_ (fun _ => rfl) (fun _ => rfl) (fun _ => rfl) (fun _ => rfl) (fun _ => rfl)
    | with_reducible apply keeps_ite
    | split
    | dsimp only

theorem abortUnitRun_keeps {c : Fin 16} {u : Fin 9} {cause : CalCause} (h : Keeps s₀ s) :
    Keeps s₀ (abortUnitRun s c u cause) := by
  unfold abortUnitRun
  repeat' first
    | with_reducible assumption
    | intro _
    | with_reducible apply abortRun_keeps
    | with_reducible apply keeps_ite
    | split
    | dsimp only

theorem rejectRun_keeps {p : Fin 144} {cause : CalCause} (h : Keeps s₀ s) :
    Keeps s₀ (rejectRun s p cause) := by
  unfold rejectRun
  repeat' first
    | with_reducible assumption
    | intro _
    | with_reducible apply unitNotice_keeps
    | with_reducible apply updUnit_keeps
    | with_reducible apply keeps_ite
    | split
    | dsimp only

theorem acceptRun_keeps {c : Fin 16} {r : CalRun} {x : Record} (h : Keeps s₀ s) :
    Keeps s₀ (acceptRun s c r x) := by
  unfold acceptRun
  repeat' first
    | with_reducible assumption
    | intro _
    | with_reducible apply updUnit_keeps
    | with_reducible apply beginCommit_keeps
    | with_reducible refine updComb_same ?_ (fun _ => rfl) (fun _ => rfl) (fun _ => rfl) (fun _ => rfl) (fun _ => rfl)
    | with_reducible apply keeps_ite
    | split
    | dsimp only

theorem dropCommit_repairPend (s : State) (c : Fin 16) (r : CalRun) :
    (dropCommit s c r).comb[c].repairPend = s.comb[c].repairPend := by
  unfold dropCommit
  split <;> simp [updComb]

theorem freeComb_repairPend (s : State) (c : Fin 16) (r : CalRun) :
    (freeComb s c r).comb[c].repairPend = s.comb[c].repairPend := by
  unfold freeComb
  dsimp only
  split
  · split <;> simp [updComb, updUnit, updMs, updCh]
  · simp [updComb, updUnit]

/-- An aborted run leaves the repair that waits alone. -/
theorem abortRun_repairPend (s : State) (c : Fin 16) (cause : CalCause) (o : Bool) :
    (abortRun s c cause o).comb[c].repairPend = s.comb[c].repairPend := by
  unfold abortRun
  split
  · rfl
  · rename_i r _
    dsimp only
    have hd : ∀ f, (updUnit (dropCommit (unitNotice s (unitAt c r.unit) 0x44 cause.code) c r) (unitAt c r.unit)
        f).comb[c].repairPend = s.comb[c].repairPend := fun _ => dropCommit_repairPend _ c r
    split
    · split
      · exact freeComb_repairPend s c r
      · rfl
    · split
      · rw [updComb_self]
        exact hd _
      · exact (freeComb_repairPend _ c r).trans (hd _)

theorem tryRepair_keeps {c : Fin 16} (h : Keeps s₀ s) : Keeps s₀ (tryRepair s c) := by
  unfold tryRepair
  split
  · exact h
  · rename_i i hi
    refine keeps_ite h ?_
    have key : ∀ t : State, Keeps s₀ t → t.comb[c].repairPend = some i →
        Keeps s₀ (if spareInRun t.comb[c].run then t
          else beginCommit (updComb t c fun k => { k with repairPend := none, repairCommit := some i }) c 8
            (repairRec t c i)) := fun t ht hp =>
      keeps_ite ht (beginCommit_keeps (updComb_keeps ht fun hk => startRepair_legal hk hp))
    exact key (if spareInRun s.comb[c].run then abortRun s c .repair false else s)
      (keeps_ite (abortRun_keeps h) h) (by
        split
        · exact (abortRun_repairPend ..).trans hi
        · exact hi)

theorem takeMap_keeps {c : Fin 16} {i : Fin 8} (h : Keeps s₀ s) (hm : s.comb[c].mapPend = some i) :
    Keeps s₀ (takeMap s c i) :=
  send_keeps (updComb_keeps h fun hk => takeMap_legal hk hm)

theorem takeRelease_keeps {c : Fin 16} (h : Keeps s₀ s) : Keeps s₀ (takeRelease s c) :=
  updComb_keeps h takeRelease_legal

theorem handBoundary_keeps {c : Fin 16} {r : CalRun} {b : Nat} (h : Keeps s₀ s) :
    Keeps s₀ (handBoundary s c r b) := by
  unfold handBoundary
  repeat' first
    | with_reducible assumption
    | intro _
    | with_reducible apply dropRun_keeps
    | with_reducible refine updComb_same ?_ (fun _ => rfl) (fun _ => rfl) (fun _ => rfl) (fun _ => rfl) (fun _ => rfl)
    | with_reducible apply updUnit_keeps
    | with_reducible apply endRun_keeps
    | with_reducible apply keeps_ite
    | split
    | dsimp only

theorem advanceRun_keeps {c : Fin 16} {r : CalRun} {b : Nat} (h : Keeps s₀ s) :
    Keeps s₀ (advanceRun s c r b) := by
  unfold advanceRun
  repeat' first
    | with_reducible assumption
    | intro _
    | with_reducible refine updComb_same ?_ (fun _ => rfl) (fun _ => rfl) (fun _ => rfl) (fun _ => rfl) (fun _ => rfl)
    | with_reducible apply updUnit_keeps
    | with_reducible apply handBoundary_keeps
    | with_reducible apply keeps_ite
    | split
    | dsimp only

theorem runBoundary_keeps {c : Fin 16} {b : Nat} (h : Keeps s₀ s) : Keeps s₀ (runBoundary s c b) := by
  unfold runBoundary
  split
  · exact keeps_ite (handBoundary_keeps h) (advanceRun_keeps h)
  · exact h

theorem mapBoundary_keeps {c : Fin 16} (h : Keeps s₀ s) : Keeps s₀ (mapBoundary s c) := by
  have hmap : Keeps s₀ (match s.comb[c].mapPend with
      | some i => takeMap s c i
      | none => s) := by
    split
    · exact takeMap_keeps h ‹_›
    · exact h
  exact keeps_ite (takeRelease_keeps hmap) hmap

theorem calBoundary_keeps {b : Nat} {c : Fin 16} (h : Keeps s₀ s) : Keeps s₀ (calBoundary s b c) := by
  have hall := rejectTerms_keeps (c := c) (tryRepair_keeps (c := c) (mapBoundary_keeps (c := c)
    (runBoundary_keeps (c := c) (b := b) h)))
  unfold calBoundary
  generalize rejectTerms _ c = t at hall ⊢
  have hdef : Keeps s₀ (if t.mod.mode.operating then deferDue t c b else t) :=
    keeps_ite (deferDue_keeps hall) hall
  with_reducible exact keeps_ite (startFirst_keeps hdef) hdef

theorem reactCh_keeps {c : Fin 128} {kind : Nat} {cause : CalCause} (h : Keeps s₀ s) :
    Keeps s₀ (reactCh s c kind cause) := by
  unfold reactCh
  repeat' first
    | with_reducible assumption
    | intro _
    | with_reducible apply cutWindow_keeps
    | with_reducible apply abortUnitRun_keeps
    | with_reducible apply endTests_keeps
    | with_reducible apply updCh_keeps
    | with_reducible apply keeps_ite
    | split
    | dsimp only

theorem discardQueues_keeps {cov : Fin 128 → Bool} (h : Keeps s₀ s) : Keeps s₀ (discardQueues s cov) := by
  refine updWm_keeps (keeps_sq h (fun hq q => ?_) rfl rfl rfl rfl rfl rfl rfl)
  simp only [Fin.getElem_fin, Vector.getElem_map]
  split
  · exact discardQueue_balanced (hq q)
  · exact hq q

theorem timersOff_keeps {r : Fin 4 → Bool} (h : Keeps s₀ s) :
    Keeps s₀ (timersOff s r) := by
  unfold timersOff
  repeat' first
    | with_reducible assumption
    | intro _
    | with_reducible apply updSeq_keeps
    | with_reducible apply keeps_ite
    | split
    | dsimp only

theorem reactChans_keeps {cov : Fin 128 → Bool} {own : Fin 128 → Nat} {cause : CalCause} (h : Keeps s₀ s) :
    Keeps s₀ (reactChans s cov own cause) := by
  unfold reactChans
  repeat' first
    | with_reducible assumption
    | intro _
    | with_reducible refine keeps_forCh ?_ ?_
    | with_reducible apply reactCh_keeps
    | with_reducible apply discardQueues_keeps
    | with_reducible apply keeps_ite
    | split
    | dsimp only

theorem abortRuns_keeps {k : Fin 16 → Bool} {cause : CalCause} {atOnce : Bool} (h : Keeps s₀ s) :
    Keeps s₀ (abortRuns s k cause atOnce) := by
  unfold abortRuns
  repeat' first
    | with_reducible assumption
    | intro _
    | with_reducible refine keeps_forComb ?_ ?_
    | with_reducible apply abortRun_keeps
    | with_reducible apply keeps_ite
    | split
    | dsimp only

theorem dropStops_keeps (h : Keeps s₀ s) :
    Keeps s₀ (dropStops s) := by
  unfold dropStops
  repeat' first
    | with_reducible assumption
    | intro _
    | with_reducible apply mapCh_keeps
    | with_reducible apply keeps_ite
    | split
    | dsimp only

theorem discardModule_keeps {own : Fin 128 → Nat} {cause : CalCause} (h : Keeps s₀ s) :
    Keeps s₀ (discardModule s own cause) := by
  have hq := timersOff_keeps (r := fun _ => true) (endStreams_keeps (abortRuns_keeps (k := fun _ => true)
    (cause := cause) (atOnce := false) (dropStops_keeps (reactChans_keeps (cov := fun _ => true)
      (own := own) (cause := cause) h))))
  exact updMod_keeps (keeps_mk (updWm_keeps (mapQ_keeps hq fun _ => discardQueue_balanced)) rfl rfl rfl rfl)

theorem lockdown_keeps {own : Fin 128 → Nat} (h : Keeps s₀ s) :
    Keeps s₀ (lockdown s own) := by
  unfold lockdown
  repeat' first
    | with_reducible assumption
    | intro _
    | with_reducible apply discardModule_keeps
    | with_reducible apply setMode_keeps
    | with_reducible apply updMod_keeps
    | with_reducible apply keeps_ite
    | split
    | dsimp only

theorem spareFault_keeps {kind source : Nat} (h : Keeps s₀ s) :
    Keeps s₀ (spareFault s kind source) := by
  unfold spareFault
  repeat' first
    | with_reducible assumption
    | intro _
    | with_reducible apply abortUnitRun_keeps
    | with_reducible refine updComb_same ?_ (fun _ => rfl) (fun _ => rfl) (fun _ => rfl) (fun _ => rfl) (fun _ => rfl)
    | with_reducible apply send_keeps
    | with_reducible apply keeps_ite
    | split
    | dsimp only

theorem sendFault6_keeps {m : Msg} {tick : Nat} (h : Keeps s₀ s) :
    Keeps s₀ (sendFault6 s m tick) := by
  unfold sendFault6
  repeat' first
    | with_reducible assumption
    | intro _
    | with_reducible apply updJx_keeps
    | with_reducible apply sendFrame_keeps
    | with_reducible apply keeps_ite
    | split
    | dsimp only

theorem waggleLevel_keeps {level : Nat} (h : Keeps s₀ s) :
    Keeps s₀ (waggleLevel s level) := by
  unfold waggleLevel
  repeat' first
    | with_reducible assumption
    | intro _
    | with_reducible refine stopWaggle_keeps (by decide) ?_
    | with_reducible apply keeps_ite
    | split
    | dsimp only

theorem react_keeps {m : Msg} {level tick : Nat} (h : Keeps s₀ s) :
    Keeps s₀ (react s m level tick) := by
  unfold react
  repeat' first
    | with_reducible assumption
    | intro _
    | with_reducible apply waggleLevel_keeps
    | with_reducible apply spareFault_keeps
    | with_reducible apply sendFault6_keeps
    | with_reducible apply lockdown_keeps
    | with_reducible apply reactChans_keeps
    | with_reducible apply abortRuns_keeps
    | with_reducible apply timersOff_keeps
    | with_reducible apply keeps_ite
    | split
    | dsimp only

theorem newTick_stopCause (f : Collector) (t : Nat) : (newTick f t).stopCause = f.stopCause := rfl

theorem beginTick_stopCause (f : Collector) (t : Nat) : (beginTick f t).stopCause = f.stopCause := by
  unfold beginTick
  split <;> rfl

theorem accessTick_keeps (h : Keeps s₀ s) : Keeps s₀ (accessTick s) :=
  keeps_ite (updFlt_keeps h (beginTick_stopCause _ _)) (updFlt_keeps h (newTick_stopCause _ _))

theorem noteOnset_stopCause (f : Collector) (e : Entry) : (noteOnset f e).stopCause = f.stopCause := by
  unfold noteOnset setOutLevel
  dsimp only
  split <;> rfl

theorem takeOnset_keeps {e : Entry} (h : Keeps s₀ s) : Keeps s₀ (takeOnset s e) :=
  sendMsix_keeps (react_keeps (updFlt_keeps h (noteOnset_stopCause _ _)))

theorem takeEnds_stopCause (l : List Msg) (f : Collector) : (l.foldl takeEnd f).stopCause = f.stopCause := by
  induction l generalizing f with
  | nil => rfl
  | cons m l ih => exact ih _

theorem ackKinds_stopCause (l : List Nat) (f : Collector) : (l.foldl ackKind f).stopCause = f.stopCause := by
  induction l generalizing f with
  | nil => rfl
  | cons k l ih =>
    refine (ih _).trans ?_
    unfold ackKind setOutLevel
    repeat' split
    all_goals rfl

theorem ackTick_stopCause (f : Collector) : (ackTick f).stopCause = f.stopCause := ackKinds_stopCause _ _

theorem addAcks_stopCause (l : List Nat) (f : Collector) : (l.foldl addAck f).stopCause = f.stopCause := by
  induction l generalizing f with
  | nil => rfl
  | cons k l ih => exact ih _

theorem pruneSpares_keeps (h : Keeps s₀ s) : Keeps s₀ (pruneSpares s) := by
  refine ⟨h.pending, fun ha => ?_⟩
  obtain ⟨hq, hl, hs, hw, hk⟩ := h.sound ha
  refine ⟨hq, hl, hs, hw, fun c => ?_⟩
  simpa [pruneSpares, Comb.legal, Comb.oneRepair] using hk c

theorem pruneAcked_keeps (h : Keeps s₀ s) : Keeps s₀ (pruneAcked s) := keeps_ite h (pruneSpares_keeps h)

theorem collectTick_keeps {t : Nat} {ms : List Msg} (h : Keeps s₀ s) : Keeps s₀ (collectTick s t ms) := by
  unfold collectTick
  refine updFlt_keeps (pruneAcked_keeps (updFlt_keeps (keeps_foldl (fun _ _ hs => takeOnset_keeps hs)
    (updFlt_keeps h ?_)) ?_)) ?_
  · exact beginTick_stopCause _ _
  · exact (ackTick_stopCause _).trans (takeEnds_stopCause _ _)
  · rfl

theorem drain_keeps (h : Keeps s₀ s) : Keeps s₀ (drain s) := by
  unfold drain
  exact keeps_foldl (fun _ _ hs => collectTick_keeps hs) (updFlt_keeps h rfl)

theorem collect_keeps (h : Keeps s₀ s) : Keeps s₀ (collect s) :=
  keeps_ite h (drain_keeps (drain_keeps (keeps_ite h (accessTick_keeps h))))

theorem present_keeps {ms : List Msg} (h : Keeps s₀ s) :
    Keeps s₀ (present s ms) := by
  unfold present
  repeat' first
    | with_reducible assumption
    | intro _
    | with_reducible apply collect_keeps
    | with_reducible apply send_keeps
    | with_reducible refine keeps_foldl ?_ ?_
    | with_reducible apply keeps_ite
    | split
    | dsimp only

theorem ackFaults_keeps {v : Word} (h : Keeps s₀ s) : Keeps s₀ (ackFaults s v) :=
  keeps_ite h (keeps_ite (updFlt_keeps (collect_keeps h) rfl)
    (pruneSpares_keeps (updFlt_keeps (accessTick_keeps (collect_keeps h))
      ((ackTick_stopCause _).trans (addAcks_stopCause _ _)))))

theorem clearHist_keeps (h : Keeps s₀ s) : Keeps s₀ (clearHist s) :=
  keeps_ite h (updFlt_keeps (accessTick_keeps (collect_keeps h)) rfl)

theorem clearFirst_keeps (h : Keeps s₀ s) : Keeps s₀ (clearFirst s) :=
  keeps_ite h (updFlt_keeps (accessTick_keeps (collect_keeps h)) rfl)

theorem writeWaggle_keeps {v : Word} (h : Keeps s₀ s) :
    Keeps s₀ (writeWaggle s v) := by
  unfold writeWaggle
  repeat' first
    | with_reducible assumption
    | intro _
    | with_reducible apply updFlt_keeps
    | with_reducible refine stopWaggle_keeps (by decide) ?_
    | with_reducible apply keeps_ite
    | split
    | dsimp only
    | rfl

theorem bootFail_keeps {err kind detail : Nat} (h : Keeps s₀ s) :
    Keeps s₀ (bootFail s err kind detail) := by
  unfold bootFail
  repeat' first
    | with_reducible assumption
    | intro _
    | with_reducible apply present_keeps
    | with_reducible apply updBoot_keeps
    | with_reducible apply keeps_ite
    | split
    | dsimp only

theorem reachBoundary_keeps {b : Nat} (h : Keeps s₀ s) :
    Keeps s₀ (reachBoundary s b) := by
  unfold reachBoundary
  repeat' first
    | with_reducible assumption
    | intro _
    | with_reducible apply updTb_keeps
    | with_reducible apply keeps_ite
    | split
    | dsimp only
    | with_reducible refine keeps_mk ?_ rfl rfl rfl rfl

theorem takePeriod_keeps (h : Keeps s₀ s) :
    Keeps s₀ (takePeriod s) := by
  unfold takePeriod
  repeat' first
    | with_reducible assumption
    | intro _
    | with_reducible apply refreshRates_keeps
    | with_reducible apply updTb_keeps
    | with_reducible apply keeps_ite
    | split
    | dsimp only
    | with_reducible refine keeps_mk ?_ rfl rfl rfl rfl

theorem decidePeriod_keeps {b : Nat} (h : Keeps s₀ s) :
    Keeps s₀ (decidePeriod s b) := by
  unfold decidePeriod
  repeat' first
    | with_reducible assumption
    | intro _
    | with_reducible apply admitFrame_keeps
    | with_reducible apply updTb_keeps
    | with_reducible apply keeps_ite
    | with_reducible refine keeps_snd ?_ ‹_ = (_, _)›
    | split
    | dsimp only
    | with_reducible refine keeps_mk ?_ rfl rfl rfl rfl

theorem enterHold_keeps {b : Nat} (h : Keeps s₀ s) :
    Keeps s₀ (enterHold s b) := by
  unfold enterHold
  repeat' first
    | with_reducible assumption
    | intro _
    | with_reducible apply setMode_keeps
    | with_reducible apply updMod_keeps
    | with_reducible apply mapCh_keeps
    | with_reducible refine keeps_forCh ?_ ?_
    | with_reducible apply cutWindow_keeps
    | with_reducible apply keeps_ite
    | split
    | dsimp only

theorem leaveHold_keeps {b : Nat} (h : Keeps s₀ s) :
    Keeps s₀ (leaveHold s b) := by
  unfold leaveHold
  repeat' first
    | with_reducible assumption
    | intro _
    | with_reducible apply setMode_keeps
    | with_reducible apply updSeq_keeps
    | with_reducible apply mapCh_keeps
    | with_reducible apply keeps_ite
    | split
    | dsimp only

theorem readyReservations_keeps (h : Keeps s₀ s) :
    Keeps s₀ (readyReservations s) := by
  unfold readyReservations
  repeat' first
    | with_reducible assumption
    | intro _
    | with_reducible apply updCh_keeps
    | with_reducible apply updSw_keeps
    | with_reducible apply updStream_keeps
    | with_reducible refine keeps_foldl ?_ ?_
    | with_reducible apply keeps_ite
    | split
    | dsimp only

theorem decideReady_keeps (h : Keeps s₀ s) : Keeps s₀ (decideReady s) := by
  have hd : Keeps s₀ (decideReq s (readyReservations s) accounts true).2 :=
    decideReq_keeps h (readyReservations_keeps h)
  refine keeps_ite h (keeps_ite ?_ (send_keeps (updMod_keeps hd)))
  exact keeps_mk (updMod_keeps hd) rfl rfl rfl rfl

theorem takeSafe_keeps (h : Keeps s₀ s) :
    Keeps s₀ (takeSafe s) := by
  unfold takeSafe
  repeat' first
    | with_reducible assumption
    | intro _
    | with_reducible apply updMod_keeps
    | with_reducible apply cmdRej_keeps
    | with_reducible refine keeps_forCh ?_ ?_
    | with_reducible apply stopCh_keeps
    | with_reducible apply keeps_ite
    | split
    | dsimp only

theorem stopSafed_keeps (h : Keeps s₀ s) :
    Keeps s₀ (stopSafed s) := by
  unfold stopSafed
  repeat' first
    | with_reducible assumption
    | intro _
    | with_reducible apply mapCh_keeps
    | with_reducible apply keeps_ite
    | split
    | dsimp only

theorem modeRequests_keeps {b : Nat} (h : Keeps s₀ s) :
    Keeps s₀ (modeRequests s b) := by
  unfold modeRequests
  repeat' first
    | with_reducible assumption
    | intro _
    | with_reducible apply takeSafe_keeps
    | with_reducible apply updMod_keeps
    | with_reducible apply cmdRej_keeps
    | with_reducible apply enterHold_keeps
    | with_reducible apply setMode_keeps
    | with_reducible apply leaveHold_keeps
    | with_reducible apply decideReady_keeps
    | with_reducible apply keeps_ite
    | with_reducible refine keeps_snd ?_ ‹_ = (_, _)›
    | split
    | dsimp only

theorem autoStart_keeps (h : Keeps s₀ s) :
    Keeps s₀ (autoStart s) := by
  unfold autoStart
  repeat' first
    | with_reducible assumption
    | intro _
    | with_reducible apply startCh_keeps
    | with_reducible apply updMod_keeps
    | with_reducible refine keeps_foldl ?_ ?_
    | with_reducible apply keeps_ite
    | split
    | dsimp only

theorem channelBoundary_keeps {b : Nat}  {c : Fin 128} (h : Keeps s₀ s) :
    Keeps s₀ (channelBoundary b s c) := by
  unfold channelBoundary
  repeat' first
    | with_reducible assumption
    | intro _
    | with_reducible apply listBoundary_keeps
    | with_reducible apply updCh_keeps
    | with_reducible apply rangeBoundary_keeps
    | with_reducible apply keeps_ite
    | split
    | dsimp only

theorem channelFrame_keeps {f : FrameInputs}  {c : Fin 128} (h : Keeps s₀ s) :
    Keeps s₀ (channelFrame f s c) := by
  unfold channelFrame
  repeat' first
    | with_reducible assumption
    | intro _
    | with_reducible apply updCh_keeps
    | with_reducible apply updEng_keeps
    | with_reducible apply engineFrame_keeps
    | with_reducible apply endUnit_keeps
    | with_reducible apply keeps_ite
    | split
    | dsimp only
    | with_reducible refine keeps_mk ?_ rfl rfl rfl rfl

theorem budgetFrame_keeps {f : FrameInputs}  {d : Fin 2} (h : Keeps s₀ s) :
    Keeps s₀ (budgetFrame f s d) := by
  unfold budgetFrame
  repeat' first
    | with_reducible assumption
    | intro _
    | with_reducible apply updPwr_keeps
    | with_reducible apply endState_keeps
    | with_reducible apply keeps_ite
    | split
    | dsimp only
    | with_reducible refine keeps_mk ?_ rfl rfl rfl rfl

theorem cslFrame_keeps {f : FrameInputs} {live : Bool}  {c : Fin 16} (h : Keeps s₀ s) :
    Keeps s₀ (cslFrame f live s c) := by
  unfold cslFrame
  repeat' first
    | with_reducible assumption
    | intro _
    | with_reducible refine updComb_same ?_ (fun _ => rfl) (fun _ => rfl) (fun _ => rfl) (fun _ => rfl) (fun _ => rfl)
    | with_reducible apply endState_keeps
    | with_reducible apply keeps_ite
    | split
    | dsimp only

theorem crossbarFrame_keeps {f : FrameInputs}  {c : Fin 16} (h : Keeps s₀ s) :
    Keeps s₀ (crossbarFrame f s c) := by
  unfold crossbarFrame
  repeat' first
    | with_reducible assumption
    | intro _
    | with_reducible apply raiseState_keeps
    | with_reducible apply endState_keeps
    | with_reducible apply keeps_ite
    | split
    | dsimp only

theorem boundaryStart_keeps {b dt told : Nat} {changed : Bool} (h : Keeps s₀ s) :
    Keeps s₀ (boundaryStart s b dt told changed) := by
  unfold boundaryStart
  repeat' first
    | with_reducible assumption
    | intro _
    | with_reducible apply modeRequests_keeps
    | with_reducible apply autoStart_keeps
    | with_reducible apply updSeq_keeps
    | with_reducible apply updPwr_keeps
    | with_reducible apply injectAll_keeps
    | with_reducible apply stopSafed_keeps
    | with_reducible refine keeps_forCh ?_ ?_
    | with_reducible apply takeSafedStop_keeps
    | with_reducible apply takeStart_keeps
    | with_reducible apply decideStreams_keeps
    | with_reducible apply decideArm_keeps
    | with_reducible apply completeSafe_keeps
    | with_reducible apply mapCh_keeps
    | with_reducible apply channelBoundary_keeps
    | with_reducible refine keeps_forComb ?_ ?_
    | with_reducible apply calBoundary_keeps
    | with_reducible apply keeps_ite
    | split
    | dsimp only

theorem boundaryFrame_keeps {f : FrameInputs} {b : Nat} (h : Keeps s₀ s) :
    Keeps s₀ (boundaryFrame s f b) := by
  unfold boundaryFrame
  repeat' first
    | with_reducible assumption
    | intro _
    | with_reducible apply updPwr_keeps
    | with_reducible apply mapCh_keeps
    | with_reducible refine keeps_forCh ?_ ?_
    | with_reducible apply channelFrame_keeps
    | with_reducible apply budgetFrame_keeps
    | with_reducible refine keeps_forComb ?_ ?_
    | with_reducible apply crossbarFrame_keeps
    | with_reducible apply cslFrame_keeps
    | with_reducible apply captureFrame_keeps
    | with_reducible refine keeps_foldl ?_ ?_
    | with_reducible apply keeps_ite
    | split
    | dsimp only

theorem frameBoundary_keeps {f : FrameInputs} (h : Keeps s₀ s) :
    Keeps s₀ (frameBoundary s f) := by
  unfold frameBoundary
  repeat' first
    | with_reducible assumption
    | intro _
    | with_reducible apply collect_keeps
    | with_reducible apply tryJoin_keeps
    | with_reducible apply reachBoundary_keeps
    | with_reducible apply takePeriod_keeps
    | with_reducible apply boundaryFrame_keeps
    | with_reducible apply boundaryStart_keeps
    | with_reducible apply decidePeriod_keeps
    | with_reducible refine keeps_forComb ?_ ?_
    | with_reducible apply cslFrame_keeps
    | with_reducible apply keeps_ite
    | split
    | dsimp only

theorem writeSwCtrl_keeps {c : Fin 128} {v : Word} (h : Keeps s₀ s) :
    Keeps s₀ (writeSwCtrl s c v) := by
  unfold writeSwCtrl
  repeat' first
    | with_reducible assumption
    | intro _
    | with_reducible apply updSw_keeps
    | with_reducible apply armList_keeps
    | with_reducible apply keeps_ite
    | split
    | dsimp only

theorem ch64Write_keeps {c : Fin 128} {o : Nat} {v : DWord} (h : Keeps s₀ s) :
    Keeps s₀ (ch64Write s c o v) := by
  unfold ch64Write
  repeat' first
    | with_reducible assumption
    | intro _
    | with_reducible apply updCh_keeps
    | with_reducible apply writeComp_keeps
    | with_reducible apply writeTarget_keeps
    | with_reducible apply keeps_ite
    | split
    | dsimp only

theorem calTerm_keeps {c : Fin 128} {k : RunKind} (h : Keeps s₀ s) :
    Keeps s₀ (calTerm s c k) := by
  unfold calTerm
  repeat' first
    | with_reducible assumption
    | intro _
    | with_reducible apply updUnit_keeps
    | with_reducible apply cmdRej_keeps
    | with_reducible apply keeps_ite
    | split
    | dsimp only

theorem calTermClear_keeps {c : Fin 128} (h : Keeps s₀ s) :
    Keeps s₀ (calTermClear s c) := by
  unfold calTermClear
  repeat' first
    | with_reducible assumption
    | intro _
    | with_reducible apply beginCommit_keeps
    | with_reducible apply updUnit_keeps
    | with_reducible apply cmdRej_keeps
    | with_reducible apply keeps_ite
    | split
    | dsimp only

theorem writeCalCmd_keeps {c : Fin 128} {v : Word} (h : Keeps s₀ s) :
    Keeps s₀ (writeCalCmd s c v) := by
  unfold writeCalCmd
  repeat' first
    | with_reducible assumption
    | intro _
    | with_reducible apply updUnit_keeps
    | with_reducible apply calTerm_keeps
    | with_reducible apply calTermClear_keeps
    | with_reducible apply cmdRej_keeps
    | with_reducible apply keeps_ite
    | split
    | dsimp only

theorem writeSpareCmd_keeps {c : Fin 16} {v : Word} (h : Keeps s₀ s) :
    Keeps s₀ (writeSpareCmd s c v) := by
  unfold writeSpareCmd
  repeat' first
    | with_reducible assumption
    | intro _
    | with_reducible apply updUnit_keeps
    | with_reducible apply cmdRej_keeps
    | with_reducible apply keeps_ite
    | split
    | dsimp only

theorem writeChCtrl_keeps {c : Fin 128} {v : Word} (h : Keeps s₀ s) :
    Keeps s₀ (writeChCtrl s c v) := by
  unfold writeChCtrl
  repeat' first
    | with_reducible assumption
    | intro _
    | with_reducible apply stopCommand_keeps
    | with_reducible apply updCh_keeps
    | with_reducible apply startCh_keeps
    | with_reducible apply keeps_ite
    | split
    | dsimp only

theorem ctWrite_keeps {c : Fin 128} {i : Fin 4} {v : Word} {o : Nat} (h : Keeps s₀ s) :
    Keeps s₀ (ctWrite s c i v o) := by
  unfold ctWrite
  split
  · exact updCh_keeps h
  · exact updCh_keeps h
  · exact updEng_keeps h
  · exact h

theorem chWrite_keeps {c : Fin 128} {o : Nat} {v : Word} (h : Keeps s₀ s) :
    Keeps s₀ (chWrite s c o v) := by
  unfold chWrite
  repeat' first
    | with_reducible assumption
    | intro _
    | with_reducible apply ctWrite_keeps
    | with_reducible apply writeChCtrl_keeps
    | with_reducible apply updCh_keeps
    | with_reducible apply writeRange_keeps
    | with_reducible apply updMs_keeps
    | with_reducible apply updEng_keeps
    | with_reducible apply updPg_keeps
    | with_reducible apply writeSwCtrl_keeps
    | with_reducible apply updSw_keeps
    | with_reducible apply writeCalCmd_keeps
    | with_reducible apply updUnit_keeps
    | with_reducible apply keeps_ite
    | split
    | dsimp only

theorem cmbRej_keeps {c : Fin 16} (h : Keeps s₀ s) :
    Keeps s₀ (cmbRej s c) := by
  unfold cmbRej
  repeat' first
    | with_reducible assumption
    | intro _
    | with_reducible refine updComb_same ?_ (fun _ => rfl) (fun _ => rfl) (fun _ => rfl) (fun _ => rfl) (fun _ => rfl)
    | with_reducible apply keeps_ite
    | split
    | dsimp only

/-- A repair asked for where none is recorded or on its way. -/
theorem askRepair_legal {k : Comb} {i : Fin 8} (h : k.legal) (ha : k.assigned = 15) (hr : ¬repairing k = true) :
    Comb.legal { k with repairPend := some i } := by
  simp only [repairing, Bool.or_eq_true, not_or, Bool.not_eq_true, Option.isSome_eq_false_iff,
    Option.isNone_iff_eq_none] at hr
  rcases h with ⟨-, hm, -⟩ | ⟨j, hj, -⟩
  · exact Or.inl ⟨ha, hm, Or.inr hr.1.2, Or.inl hr.2⟩
  · have := j.isLt
    omega

theorem repairUnit_keeps {c : Fin 16} {unit : Nat} (h : Keeps s₀ s) : Keeps s₀ (repairUnit s c unit) := by
  unfold repairUnit
  split
  · dsimp only
    split
    · exact cmbRej_keeps h
    · rename_i hg
      simp only [Bool.or_eq_true, not_or, bne_iff_ne, ne_eq, Decidable.not_not] at hg
      exact tryRepair_keeps (updComb_keeps h fun hk => askRepair_legal hk hg.1.1.1 hg.1.2)
  · exact cmbRej_keeps h

theorem releaseUnit_keeps {c : Fin 16} (h : Keeps s₀ s) :
    Keeps s₀ (releaseUnit s c) := by
  unfold releaseUnit
  repeat' first
    | with_reducible assumption
    | intro _
    | with_reducible refine updComb_same ?_ (fun _ => rfl) (fun _ => rfl) (fun _ => rfl) (fun _ => rfl) (fun _ => rfl)
    | with_reducible apply cmbRej_keeps
    | with_reducible apply keeps_ite
    | split
    | dsimp only

theorem cmbWrite_keeps {c : Fin 16} {o : Nat} {v : Word} (h : Keeps s₀ s) :
    Keeps s₀ (cmbWrite s c o v) := by
  unfold cmbWrite
  repeat' first
    | with_reducible assumption
    | intro _
    | with_reducible refine updComb_same ?_ (fun _ => rfl) (fun _ => rfl) (fun _ => rfl) (fun _ => rfl) (fun _ => rfl)
    | with_reducible apply cmbRej_keeps
    | with_reducible apply repairUnit_keeps
    | with_reducible apply releaseUnit_keeps
    | with_reducible apply keeps_ite
    | with_reducible refine keeps_snd ?_ ‹_ = (_, _)›
    | split
    | dsimp only

end Sys2Proof.Machine
end

