-- ==== Sys2Proof/Laws/KeepsModes.lean ====
section
/-!
SUPPORT. What the operations of the modes, the host link, the secure core, power and triggers keep: each takes a state that Keeps relates to `s₀` to another.
-/

namespace Sys2Proof.Machine

variable {s₀ s : State}

theorem clearMaster_keeps {id : Nat} (h : Keeps s₀ s) :
    Keeps s₀ (clearMaster s id) := by
  unfold clearMaster
  repeat' first
    | with_reducible assumption
    | intro _
    | with_reducible apply updBus_keeps
    | with_reducible apply keeps_ite
    | split
    | dsimp only

theorem mapMbx_keeps {f : Nat → MbxChan → MbxChan} (h : Keeps s₀ s) :
    Keeps s₀ (mapMbx s f) := by
  unfold mapMbx
  repeat' first
    | with_reducible assumption
    | intro _
    | with_reducible apply keeps_ite
    | split
    | dsimp only
    | with_reducible refine keeps_mk ?_ rfl rfl rfl rfl

theorem endSession_keeps (h : Keeps s₀ s) :
    Keeps s₀ (endSession s) := by
  unfold endSession
  repeat' first
    | with_reducible assumption
    | intro _
    | with_reducible apply mapMbx_keeps
    | with_reducible apply updSec_keeps
    | with_reducible apply keeps_ite
    | split
    | dsimp only

theorem linkReset_keeps (h : Keeps s₀ s) :
    Keeps s₀ (linkReset s) := by
  unfold linkReset
  repeat' first
    | with_reducible assumption
    | intro _
    | with_reducible apply mapMbx_keeps
    | with_reducible apply clearMaster_keeps
    | with_reducible apply freeLocks_keeps
    | with_reducible apply endSession_keeps
    | with_reducible apply keeps_ite
    | split
    | dsimp only
    | with_reducible refine keeps_mk ?_ rfl rfl rfl rfl

theorem appReset_keeps {cause : Nat} (h : Keeps s₀ s) :
    Keeps s₀ (appReset s cause) := by
  unfold appReset
  repeat' first
    | with_reducible assumption
    | intro _
    | with_reducible apply mapMbx_keeps
    | with_reducible apply updMod_keeps
    | with_reducible apply clearMaster_keeps
    | with_reducible apply freeLocks_keeps
    | with_reducible apply keeps_ite
    | split
    | dsimp only

theorem secureReset_keeps (h : Keeps s₀ s) :
    Keeps s₀ (secureReset s) := by
  unfold secureReset
  repeat' first
    | with_reducible assumption
    | intro _
    | with_reducible apply endSession_keeps
    | with_reducible apply mapMbx_keeps
    | with_reducible apply updSec_keeps
    | with_reducible apply clearMaster_keeps
    | with_reducible apply freeLocks_keeps
    | with_reducible apply keeps_ite
    | split
    | dsimp only

theorem sendMsg3_keeps {m : Msg} (h : Keeps s₀ s) :
    Keeps s₀ (sendMsg3 s m) := by
  unfold sendMsg3
  repeat' first
    | with_reducible assumption
    | intro _
    | with_reducible apply send_keeps
    | with_reducible apply keeps_ite
    | split
    | dsimp only

theorem secureRestart_keeps {c : SecureCheck} (h : Keeps s₀ s) :
    Keeps s₀ (secureRestart s c) := by
  unfold secureRestart
  repeat' first
    | with_reducible assumption
    | intro _
    | with_reducible apply updSec_keeps
    | with_reducible apply sendMsg3_keeps
    | with_reducible apply keeps_ite
    | split
    | dsimp only

theorem porstReset_keeps (h : Keeps s₀ s) : Keeps s₀ (porstReset s) := by
  refine ⟨h.pending, fun ha => ?_⟩
  obtain ⟨-, -, hs, -, -⟩ := h.sound ha
  refine ⟨fun q => ?_, fun l => ?_, hs, ⟨by simp [porstReset, State.reset, Pins.reset, Collector.reset], fun _ => rfl⟩,
    fun c => ?_⟩
  · simpa [porstReset, State.reset] using Queue.reset_balanced
  · simp [porstReset, State.reset]
  · simpa [porstReset, State.reset] using Comb.reset_legal

theorem roundLife_keeps (h : Keeps s₀ s) :
    Keeps s₀ (roundLife s) := by
  unfold roundLife
  repeat' first
    | with_reducible assumption
    | intro _
    | with_reducible apply updMod_keeps
    | with_reducible apply keeps_ite
    | split
    | dsimp only

theorem clearStore_keeps (h : Keeps s₀ s) : Keeps s₀ (clearStore s) :=
  updSto_keeps h fun _ => rfl

theorem porstAssert_keeps (h : Keeps s₀ s) :
    Keeps s₀ (porstAssert s) := by
  unfold porstAssert
  repeat' first
    | with_reducible assumption
    | intro _
    | with_reducible apply updPins_keeps
    | with_reducible apply secureReset_keeps
    | with_reducible apply appReset_keeps
    | with_reducible apply porstReset_keeps
    | with_reducible apply keeps_ite
    | split
    | dsimp only
    | rfl

theorem dropCombRun_keeps {c : Fin 16} (h : Keeps s₀ s) :
    Keeps s₀ (dropCombRun s c) := by
  unfold dropCombRun
  repeat' first
    | with_reducible assumption
    | intro _
    | with_reducible apply dropRun_keeps
    | with_reducible apply keeps_ite
    | split
    | dsimp only

theorem dropAll_keeps (h : Keeps s₀ s) : Keeps s₀ (dropAll s) :=
  closeBypass_keeps (keeps_forComb (fun _ _ ht => dropCombRun_keeps ht)
    (mapCh_keeps (collect_keeps (discardModule_keeps h))))

theorem fallToBypass_keeps (h : Keeps s₀ s) :
    Keeps s₀ (fallToBypass s) := by
  unfold fallToBypass
  repeat' first
    | with_reducible assumption
    | intro _
    | with_reducible refine stopWaggle_keeps (by decide) ?_
    | with_reducible apply updMod_keeps
    | with_reducible apply setMode_keeps
    | with_reducible apply updTb_keeps
    | with_reducible apply keeps_ite
    | split
    | dsimp only

theorem clearLost_keeps (h : Keeps s₀ s) : Keeps s₀ (clearLost s) := by
  unfold clearLost
  exact keeps_mk h rfl rfl rfl rfl

theorem unloadImage_keeps (h : Keeps s₀ s) : Keeps s₀ (unloadImage s) := by
  unfold unloadImage mapCh
  refine keeps_sq h (fun hq q => ?_) rfl rfl rfl rfl rfl rfl rfl
  simpa [Queue.balanced] using hq q

theorem supplyLost_keeps (h : Keeps s₀ s) : Keeps s₀ (supplyLost s) :=
  unloadImage_keeps (clearLost_keeps (fallToBypass_keeps (dropAll_keeps h)))

theorem supplyOut_keeps {rail : Nat} (h : Keeps s₀ s) :
    Keeps s₀ (supplyOut s rail) := by
  unfold supplyOut
  repeat' first
    | with_reducible assumption
    | intro _
    | with_reducible apply supplyLost_keeps
    | with_reducible apply roundLife_keeps
    | with_reducible apply clearStore_keeps
    | with_reducible apply keeps_ite
    | split
    | dsimp only

theorem powerCycle_keeps (h : Keeps s₀ s) :
    Keeps s₀ (powerCycle s) := by
  unfold powerCycle
  repeat' first
    | with_reducible assumption
    | intro _
    | with_reducible apply updPins_keeps
    | with_reducible apply clearStore_keeps
    | with_reducible apply roundLife_keeps
    | with_reducible apply porstReset_keeps
    | with_reducible apply keeps_ite
    | split
    | dsimp only
    | rfl

theorem estopAtStart_keeps (h : Keeps s₀ s) :
    Keeps s₀ (estopAtStart s) := by
  unfold estopAtStart
  repeat' first
    | with_reducible assumption
    | intro _
    | with_reducible apply raiseState_keeps
    | with_reducible apply keeps_ite
    | split
    | dsimp only

theorem bootStart_keeps (h : Keeps s₀ s) :
    Keeps s₀ (bootStart s) := by
  unfold bootStart
  repeat' first
    | with_reducible assumption
    | intro _
    | with_reducible apply closeBypass_keeps
    | with_reducible apply setMode_keeps
    | with_reducible apply unloadImage_keeps
    | with_reducible refine stopWaggle_keeps (by decide) ?_
    | with_reducible apply estopAtStart_keeps
    | with_reducible apply updMod_keeps
    | with_reducible apply keeps_ite
    | split
    | dsimp only
    | with_reducible refine keeps_mk ?_ rfl rfl rfl rfl

theorem bootFromBypass_keeps {rise : Bool} (h : Keeps s₀ s) :
    Keeps s₀ (bootFromBypass s rise) := by
  unfold bootFromBypass
  repeat' first
    | with_reducible assumption
    | intro _
    | with_reducible apply bootStart_keeps
    | with_reducible apply updMod_keeps
    | with_reducible apply keeps_ite
    | split
    | dsimp only
    | with_reducible refine keeps_mk ?_ rfl rfl rfl rfl

theorem powerGood_keeps {x : PowerUp} (h : Keeps s₀ s) :
    Keeps s₀ (powerGood s x) := by
  unfold powerGood
  repeat' first
    | with_reducible assumption
    | intro _
    | with_reducible apply updPins_keeps
    | with_reducible apply updMod_keeps
    | with_reducible apply bootFromBypass_keeps
    | with_reducible apply secureRestart_keeps
    | with_reducible apply keeps_ite
    | split
    | dsimp only
    | rfl

theorem stepFail_keeps {r : BootReport} {err kind detail : Nat} (h : Keeps s₀ s) :
    Keeps s₀ (stepFail s r err kind detail) := by
  unfold stepFail
  repeat' first
    | with_reducible assumption
    | intro _
    | with_reducible apply bootFail_keeps
    | with_reducible apply updBoot_keeps
    | with_reducible apply keeps_ite
    | split
    | dsimp only

theorem stepFailErr_keeps {r : BootReport} {err kind : Nat} (h : Keeps s₀ s) :
    Keeps s₀ (stepFailErr s r err kind) := by
  unfold stepFailErr
  repeat' first
    | with_reducible assumption
    | intro _
    | with_reducible apply stepFail_keeps
    | with_reducible apply keeps_ite
    | split
    | dsimp only

theorem stepDone_keeps {k : Nat} (h : Keeps s₀ s) :
    Keeps s₀ (stepDone s k) := by
  unfold stepDone
  repeat' first
    | with_reducible assumption
    | intro _
    | with_reducible apply updBoot_keeps
    | with_reducible apply keeps_ite
    | split
    | dsimp only

theorem bootStep1_keeps {r : BootReport} (h : Keeps s₀ s) :
    Keeps s₀ (bootStep1 s r) := by
  unfold bootStep1
  repeat' first
    | with_reducible assumption
    | intro _
    | with_reducible apply present_keeps
    | with_reducible apply updBoot_keeps
    | with_reducible apply stepFailErr_keeps
    | with_reducible apply updTb_keeps
    | with_reducible apply requestVcore_keeps
    | with_reducible apply stepDone_keeps
    | with_reducible apply keeps_ite
    | split
    | dsimp only
    | with_reducible refine keeps_mk ?_ rfl rfl rfl rfl

theorem bootStep2_keeps {r : BootReport} (h : Keeps s₀ s) :
    Keeps s₀ (bootStep2 s r) := by
  unfold bootStep2
  repeat' first
    | with_reducible assumption
    | intro _
    | with_reducible apply stepFail_keeps
    | with_reducible apply stepFailErr_keeps
    | with_reducible apply stepDone_keeps
    | with_reducible apply updBoot_keeps
    | with_reducible apply keeps_ite
    | split
    | dsimp only
    | with_reducible refine keeps_mk ?_ rfl rfl rfl rfl

theorem bootStep3_keeps {r : BootReport} (h : Keeps s₀ s) :
    Keeps s₀ (bootStep3 s r) := by
  unfold bootStep3
  repeat' first
    | with_reducible assumption
    | intro _
    | with_reducible apply stepFailErr_keeps
    | with_reducible apply stepDone_keeps
    | with_reducible apply updBoot_keeps
    | with_reducible apply keeps_ite
    | split
    | dsimp only

theorem bootStep4_keeps {r : BootReport} (h : Keeps s₀ s) :
    Keeps s₀ (bootStep4 s r) := by
  unfold bootStep4
  repeat' first
    | with_reducible assumption
    | intro _
    | with_reducible apply stepFailErr_keeps
    | with_reducible apply storeWrite_keeps
    | with_reducible apply stepDone_keeps
    | with_reducible apply updBoot_keeps
    | with_reducible apply keeps_ite
    | split
    | dsimp only

theorem bootStep5_keeps {r : BootReport} (h : Keeps s₀ s) :
    Keeps s₀ (bootStep5 s r) := by
  unfold bootStep5
  repeat' first
    | with_reducible assumption
    | intro _
    | with_reducible apply stepFailErr_keeps
    | with_reducible apply stepDone_keeps
    | with_reducible apply keeps_ite
    | split
    | dsimp only

theorem bootStep6_keeps {r : BootReport} (h : Keeps s₀ s) :
    Keeps s₀ (bootStep6 s r) := by
  unfold bootStep6
  repeat' first
    | with_reducible assumption
    | intro _
    | with_reducible apply stepFailErr_keeps
    | with_reducible apply stepDone_keeps
    | with_reducible apply keeps_ite
    | split
    | dsimp only

theorem loadTables_wf {l : List (Nat × List Byte)} {m : List Host.Cell} (h : Memory.wf m = true) :
    Memory.wf (l.foldl (fun x p => memWriteN x p.1 p.2) m) = true := by
  induction l generalizing m with
  | nil => exact h
  | cons p l ih => exact ih (memWriteN_wf h)

theorem loadQueues_balanced {m : Image} {v : Vector Queue 32} (h : ∀ q : Fin 32, v[q].balanced) (q : Fin 32) :
    (loadQueues m v)[q].balanced := by
  simp only [loadQueues, Fin.getElem_fin, Vector.getElem_ofFn]
  split <;> exact h q

theorem loadImage_keeps {m : Image} (h : Keeps s₀ s) : Keeps s₀ (loadImage s m) := by
  unfold loadImage mapCh
  refine ⟨h.pending, fun ha => ?_⟩
  obtain ⟨hq, hl, hs, hw, hk⟩ := h.sound ha
  refine ⟨?_, ?_, ?_, ?_, ?_⟩
  · exact loadQueues_balanced hq
  · exact hl
  · exact loadTables_wf hs
  · exact hw
  · exact hk

theorem bootStep7_keeps {r : BootReport} (h : Keeps s₀ s) :
    Keeps s₀ (bootStep7 s r) := by
  unfold bootStep7
  repeat' first
    | with_reducible assumption
    | intro _
    | with_reducible apply stepFailErr_keeps
    | with_reducible apply stepDone_keeps
    | with_reducible apply loadImage_keeps
    | with_reducible apply keeps_ite
    | with_reducible refine keeps_snd ?_ ‹_ = (_, _)›
    | split
    | dsimp only

theorem bootStep8_keeps (h : Keeps s₀ s) :
    Keeps s₀ (bootStep8 s) := by
  unfold bootStep8
  repeat' first
    | with_reducible assumption
    | intro _
    | with_reducible apply unitNotice_keeps
    | with_reducible apply stepDone_keeps
    | with_reducible refine keeps_foldl ?_ ?_
    | with_reducible apply keeps_ite
    | split
    | dsimp only
    | with_reducible refine keeps_mk ?_ rfl rfl rfl rfl

theorem enterSafe_keeps (h : Keeps s₀ s) :
    Keeps s₀ (enterSafe s) := by
  unfold enterSafe
  repeat' first
    | with_reducible assumption
    | intro _
    | with_reducible apply ringAtSafe_keeps
    | with_reducible apply connectAtEntry_keeps
    | with_reducible apply setMode_keeps
    | with_reducible apply keeps_ite
    | split
    | dsimp only

theorem bootStep9_keeps {r : BootReport} (h : Keeps s₀ s) :
    Keeps s₀ (bootStep9 s r) := by
  unfold bootStep9
  repeat' first
    | with_reducible assumption
    | intro _
    | with_reducible refine updSto_same ?_ rfl
    | with_reducible apply updBoot_keeps
    | with_reducible apply updWm_keeps
    | with_reducible apply enterSafe_keeps
    | with_reducible apply updMod_keeps
    | with_reducible apply keeps_ite
    | split
    | dsimp only
    | with_reducible refine keeps_mk ?_ rfl rfl rfl rfl

theorem bootStep_keeps {r : BootReport} (h : Keeps s₀ s) :
    Keeps s₀ (bootStep s r) := by
  unfold bootStep
  repeat' first
    | with_reducible assumption
    | intro _
    | with_reducible apply bootStep1_keeps
    | with_reducible apply bootStep2_keeps
    | with_reducible apply bootStep3_keeps
    | with_reducible apply bootStep4_keeps
    | with_reducible apply bootStep5_keeps
    | with_reducible apply bootStep6_keeps
    | with_reducible apply bootStep7_keeps
    | with_reducible apply bootStep8_keeps
    | with_reducible apply bootStep9_keeps
    | with_reducible apply keeps_ite
    | split
    | dsimp only

theorem bootFailFree_keeps {err kind detail : Nat} (h : Keeps s₀ s) :
    Keeps s₀ (bootFailFree s err kind detail) := by
  unfold bootFailFree
  repeat' first
    | with_reducible assumption
    | intro _
    | with_reducible apply bootFail_keeps
    | with_reducible apply updBoot_keeps
    | with_reducible apply keeps_ite
    | split
    | dsimp only
    | with_reducible refine keeps_mk ?_ rfl rfl rfl rfl

theorem railViolation_keeps {rail : Fin 7} {above : Bool} (h : Keeps s₀ s) :
    Keeps s₀ (railViolation s rail above) := by
  unfold railViolation
  repeat' first
    | with_reducible assumption
    | intro _
    | with_reducible apply updPwr_keeps
    | with_reducible apply endState_keeps
    | with_reducible apply bootFailFree_keeps
    | with_reducible apply raiseState_keeps
    | with_reducible refine keeps_foldl ?_ ?_
    | with_reducible apply keeps_ite
    | split
    | dsimp only

theorem railRestored_keeps {rail : Fin 7} (h : Keeps s₀ s) :
    Keeps s₀ (railRestored s rail) := by
  unfold railRestored
  repeat' first
    | with_reducible assumption
    | intro _
    | with_reducible apply updPwr_keeps
    | with_reducible apply endState_keeps
    | with_reducible refine keeps_foldl ?_ ?_
    | with_reducible apply keeps_ite
    | split
    | dsimp only

theorem estopCh_keeps {c : Fin 128} (h : Keeps s₀ s) :
    Keeps s₀ (estopCh s c) := by
  unfold estopCh
  repeat' first
    | with_reducible assumption
    | intro _
    | with_reducible apply reactCh_keeps
    | with_reducible apply updCh_keeps
    | with_reducible apply keeps_ite
    | split
    | dsimp only

theorem estopFall_keeps (h : Keeps s₀ s) :
    Keeps s₀ (estopFall s) := by
  unfold estopFall
  repeat' first
    | with_reducible assumption
    | intro _
    | with_reducible apply updPins_keeps
    | with_reducible apply abortRuns_keeps
    | with_reducible apply raiseState_keeps
    | with_reducible refine keeps_forCh ?_ ?_
    | with_reducible apply estopCh_keeps
    | with_reducible apply keeps_ite
    | split
    | dsimp only
    | rfl

theorem estopRise_keeps (h : Keeps s₀ s) :
    Keeps s₀ (estopRise s) := by
  unfold estopRise
  repeat' first
    | with_reducible assumption
    | intro _
    | with_reducible apply endState_keeps
    | with_reducible apply updPins_keeps
    | with_reducible apply keeps_ite
    | split
    | dsimp only
    | rfl

theorem hizAll_keeps (h : Keeps s₀ s) :
    Keeps s₀ (hizAll s) := by
  unfold hizAll
  repeat' first
    | with_reducible assumption
    | intro _
    | with_reducible apply mapCh_keeps
    | with_reducible apply keeps_ite
    | split
    | dsimp only

theorem stallCollector_keeps (h : Keeps s₀ s) :
    Keeps s₀ (stallCollector s) := by
  unfold stallCollector
  repeat' first
    | with_reducible assumption
    | intro _
    | with_reducible apply discardModule_keeps
    | with_reducible apply updMod_keeps
    | with_reducible apply lockdown_keeps
    | with_reducible refine stopWaggle_keeps (by decide) ?_
    | with_reducible apply hizAll_keeps
    | with_reducible apply setMode_keeps
    | with_reducible apply keeps_ite
    | split
    | dsimp only

theorem watchdogExpires_keeps (h : Keeps s₀ s) :
    Keeps s₀ (watchdogExpires s) := by
  unfold watchdogExpires
  repeat' first
    | with_reducible assumption
    | intro _
    | with_reducible apply appReset_keeps
    | with_reducible apply present_keeps
    | with_reducible refine stopWaggle_keeps (by decide) ?_
    | with_reducible apply keeps_ite
    | split
    | dsimp only

theorem cmdReady_keeps (h : Keeps s₀ s) :
    Keeps s₀ (cmdReady s) := by
  unfold cmdReady
  repeat' first
    | with_reducible assumption
    | intro _
    | with_reducible apply updMod_keeps
    | with_reducible apply cmdRej_keeps
    | with_reducible apply keeps_ite
    | split
    | dsimp only

theorem cmdRun_keeps (h : Keeps s₀ s) :
    Keeps s₀ (cmdRun s) := by
  unfold cmdRun
  repeat' first
    | with_reducible assumption
    | intro _
    | with_reducible apply updMod_keeps
    | with_reducible apply cmdRej_keeps
    | with_reducible apply keeps_ite
    | split
    | dsimp only

theorem cmdHold_keeps (h : Keeps s₀ s) :
    Keeps s₀ (cmdHold s) := by
  unfold cmdHold
  repeat' first
    | with_reducible assumption
    | intro _
    | with_reducible apply updMod_keeps
    | with_reducible apply cmdRej_keeps
    | with_reducible apply keeps_ite
    | split
    | dsimp only

theorem cmdSafe_keeps (h : Keeps s₀ s) :
    Keeps s₀ (cmdSafe s) := by
  unfold cmdSafe
  repeat' first
    | with_reducible assumption
    | intro _
    | with_reducible apply updMod_keeps
    | with_reducible apply cmdRej_keeps
    | with_reducible apply keeps_ite
    | split
    | dsimp only

theorem cmdRecover_keeps (h : Keeps s₀ s) :
    Keeps s₀ (cmdRecover s) := by
  unfold cmdRecover
  repeat' first
    | with_reducible assumption
    | intro _
    | with_reducible apply cmdRej_keeps
    | with_reducible apply bootStart_keeps
    | with_reducible apply enterSafe_keeps
    | with_reducible apply releaseAll_keeps
    | with_reducible apply updMod_keeps
    | with_reducible apply keeps_ite
    | split
    | dsimp only

theorem writeModCtrl_keeps {v : Word} (h : Keeps s₀ s) :
    Keeps s₀ (writeModCtrl s v) := by
  unfold writeModCtrl
  repeat' first
    | with_reducible assumption
    | intro _
    | with_reducible apply cmdReady_keeps
    | with_reducible apply cmdRun_keeps
    | with_reducible apply cmdHold_keeps
    | with_reducible apply cmdSafe_keeps
    | with_reducible apply cmdRecover_keeps
    | with_reducible apply cmdRej_keeps
    | with_reducible apply keeps_ite
    | split
    | dsimp only

theorem readyComplete_keeps (h : Keeps s₀ s) :
    Keeps s₀ (readyComplete s) := by
  unfold readyComplete
  repeat' first
    | with_reducible assumption
    | intro _
    | with_reducible apply setMode_keeps
    | with_reducible apply updMod_keeps
    | with_reducible apply updStream_keeps
    | with_reducible apply updSw_keeps
    | with_reducible apply autoStart_keeps
    | with_reducible refine keeps_foldl ?_ ?_
    | with_reducible apply keeps_ite
    | split
    | dsimp only

theorem waggleStart_keeps (h : Keeps s₀ s) :
    Keeps s₀ (waggleStart s) := by
  unfold waggleStart
  repeat' first
    | with_reducible assumption
    | intro _
    | with_reducible apply startWaggle_keeps
    | with_reducible apply keeps_ite
    | split
    | dsimp only

theorem waggleResume_keeps (h : Keeps s₀ s) :
    Keeps s₀ (waggleResume s) := by
  unfold waggleResume
  repeat' first
    | with_reducible assumption
    | intro _
    | with_reducible apply startWaggle_keeps
    | with_reducible apply keeps_ite
    | split
    | dsimp only

theorem denyHost_keeps {n : Fin 20} (h : Keeps s₀ s) :
    Keeps s₀ (denyHost s n) := by
  unfold denyHost
  repeat' first
    | with_reducible assumption
    | intro _
    | with_reducible apply updSec_keeps
    | with_reducible apply keeps_ite
    | split
    | dsimp only

theorem mbxWrite_keeps {n : Fin 20} {h2c : Bool} {v : Word} (h : Keeps s₀ s) :
    Keeps s₀ (mbxWrite s n h2c v) := by
  unfold mbxWrite
  repeat' first
    | with_reducible assumption
    | intro _
    | with_reducible apply updMbx_keeps
    | with_reducible apply denyHost_keeps
    | with_reducible apply keeps_ite
    | split
    | dsimp only

theorem mbxRead_keeps {n : Fin 20} {h2c : Bool} (h : Keeps s₀ s) :
    Keeps s₀ (mbxRead s n h2c) := by
  unfold mbxRead
  repeat' first
    | with_reducible assumption
    | intro _
    | with_reducible apply updBus_keeps
    | with_reducible apply updMbx_keeps
    | with_reducible apply denyHost_keeps
    | with_reducible apply keeps_ite
    | split
    | dsimp only

theorem answer_keeps {n : Fin 20} {op tag result : Nat} (h : Keeps s₀ s) :
    Keeps s₀ (answer s n op tag result) := by
  unfold answer
  repeat' first
    | with_reducible assumption
    | intro _
    | with_reducible apply updMbx_keeps
    | with_reducible apply keeps_ite
    | split
    | dsimp only

theorem serveNs_keeps {n : Fin 16} {request : Word} {op result : Nat} (h : Keeps s₀ s) :
    Keeps s₀ (serveNs s n request op result) := by
  unfold serveNs
  repeat' first
    | with_reducible assumption
    | intro _
    | with_reducible apply answer_keeps
    | with_reducible apply keeps_ite
    | split
    | dsimp only

theorem serveUnknown_keeps {n : Fin 16} {request : Word} (h : Keeps s₀ s) :
    Keeps s₀ (serveUnknown s n request) := by
  unfold serveUnknown
  repeat' first
    | with_reducible assumption
    | intro _
    | with_reducible apply answer_keeps
    | with_reducible apply keeps_ite
    | split
    | dsimp only

theorem takeLock_keeps {m : Master} {l : Fin 64} (h : Keeps s₀ s) : Keeps s₀ (takeLock s m.id l) := by
  unfold takeLock
  split
  · exact setLock_keeps h (by cases m <;> decide)
  · exact h

theorem writeLock_keeps {id : Nat} {l : Fin 64} {v : Word} (h : Keeps s₀ s) :
    Keeps s₀ (writeLock s id l v) := by
  unfold writeLock
  split
  · exact setLock_keeps h (Nat.zero_le _)
  · exact h

theorem dmaFinish_keeps {e : Fin 8} {flags : Nat} {code : DmaCode} {done : Nat} (h : Keeps s₀ s) :
    Keeps s₀ (dmaFinish s e flags code done) := by
  unfold dmaFinish
  repeat' first
    | with_reducible assumption
    | intro _
    | with_reducible apply sendHost_keeps
    | with_reducible apply updDma_keeps
    | with_reducible apply sendMsix_keeps
    | with_reducible apply keeps_ite
    | split
    | dsimp only

theorem dmaToStore_keeps {e : Fin 8} {d : Desc} {bytes : List Byte} {bad : Bool} (h : Keeps s₀ s) :
    Keeps s₀ (dmaToStore s e d bytes bad) :=
  keeps_ite (dmaFinish_keeps (storePerm_keeps h)) (keeps_ite (dmaFinish_keeps (updSto_same h rfl))
    (keeps_ite (dmaFinish_keeps (storeWrite_keeps h)) (dmaFinish_keeps (storeWrite_keeps h))))

theorem dmaFromStore_keeps {e : Fin 8} {d : Desc} (h : Keeps s₀ s) : Keeps s₀ (dmaFromStore s e d) :=
  keeps_ite (dmaFinish_keeps (sendHost_keeps h)) (dmaFinish_keeps (storePerm_keeps h))

theorem pushItems_keeps {q : Fin 32} {l : List QItem} (h : Keeps s₀ s) : Keeps s₀ (pushItems s q l).2 := by
  induction l generalizing s with
  | nil => exact h
  | cons i l ih =>
    unfold pushItems
    split
    · exact h
    · exact ih (queueWrite_keeps h)

theorem dmaWait_keeps {e : Fin 8} {d : Desc} {moved : Nat} (h : Keeps s₀ s) :
    Keeps s₀ (dmaWait s e d moved) := by
  unfold dmaWait
  repeat' first
    | with_reducible assumption
    | intro _
    | with_reducible apply updDma_keeps
    | with_reducible apply keeps_ite
    | split
    | dsimp only

theorem dmaToQueue_keeps {e : Fin 8} {d : Desc} {bytes : List Byte} {bad : Bool} (h : Keeps s₀ s) :
    Keeps s₀ (dmaToQueue s e d bytes bad) :=
  keeps_ite (dmaFinish_keeps h) (keeps_ite (dmaWait_keeps h)
    (keeps_ite (dmaWait_keeps (pushItems_keeps h)) (dmaFinish_keeps (pushItems_keeps h))))

theorem pullItems_keeps {q : Fin 32} {n : Nat} (h : Keeps s₀ s) : Keeps s₀ (pullItems q n s).2 := by
  induction n generalizing s with
  | zero => exact h
  | succ n ih =>
    unfold pullItems
    split
    · exact ih (keeps_snd (takeItem_keeps h) ‹_›)
    · exact keeps_snd (takeItem_keeps h) ‹_›

theorem dmaFromQueue_keeps {e : Fin 8} {d : Desc} (h : Keeps s₀ s) : Keeps s₀ (dmaFromQueue s e d) :=
  keeps_ite (dmaFinish_keeps h)
    (dmaFinish_keeps (keeps_ite (pullItems_keeps h) (sendHost_keeps (pullItems_keeps h))))

theorem advanceRp_keeps {n : Fin 31} (h : Keeps s₀ s) :
    Keeps s₀ (advanceRp s n) := by
  unfold advanceRp
  repeat' first
    | with_reducible assumption
    | intro _
    | with_reducible apply updRing_keeps
    | with_reducible apply keeps_ite
    | split
    | dsimp only

theorem blockBad_keeps {n : Fin 31} (h : Keeps s₀ s) :
    Keeps s₀ (blockBad s n) := by
  unfold blockBad
  repeat' first
    | with_reducible assumption
    | intro _
    | with_reducible apply send_keeps
    | with_reducible apply keeps_ite
    | split
    | dsimp only

theorem pullBlocks_keeps {r : Fin 31} {n x : Nat} {p : Bool} (h : Keeps s₀ s) :
    Keeps s₀ (pullBlocks r n x p s).2.2 := by
  induction n generalizing s x p with
  | zero => exact h
  | succ n ih =>
    unfold pullBlocks
    split
    · exact h
    · exact ih (advanceRp_keeps (sendHost_keeps (keeps_ite h (blockBad_keeps h))))

theorem dmaFromRing_keeps {e : Fin 8} {d : Desc} (h : Keeps s₀ s) : Keeps s₀ (dmaFromRing s e d) := by
  unfold dmaFromRing
  split
  · exact dmaFinish_keeps h
  · exact dmaFinish_keeps (pullBlocks_keeps h)

theorem dmaOperate_keeps {e : Fin 8} {d : Desc} {bytes : List Byte} {hostErr : Bool} (h : Keeps s₀ s) :
    Keeps s₀ (dmaOperate s e d bytes hostErr) := by
  unfold dmaOperate
  repeat' first
    | with_reducible assumption
    | intro _
    | with_reducible apply updDma_keeps
    | with_reducible apply dmaToStore_keeps
    | with_reducible apply dmaFromStore_keeps
    | with_reducible apply dmaToQueue_keeps
    | with_reducible apply dmaFromQueue_keeps
    | with_reducible apply dmaFromRing_keeps
    | with_reducible apply keeps_ite
    | split
    | dsimp only

theorem dmaAborted_keeps {e : Fin 8} {d : Desc} {bytes : List Byte} (h : Keeps s₀ s) :
    Keeps s₀ (dmaAborted s e d bytes) := by
  unfold dmaAborted
  repeat' first
    | with_reducible assumption
    | intro _
    | with_reducible apply dmaFinish_keeps
    | with_reducible apply storeWrite_keeps
    | with_reducible apply keeps_ite
    | split
    | dsimp only

theorem dmaUnread_keeps {e : Fin 8} (h : Keeps s₀ s) :
    Keeps s₀ (dmaUnread s e) := by
  unfold dmaUnread
  repeat' first
    | with_reducible assumption
    | intro _
    | with_reducible apply dmaFinish_keeps
    | with_reducible apply keeps_ite
    | split
    | dsimp only
    | with_reducible refine keeps_mk ?_ rfl rfl rfl rfl

theorem dmaGot_keeps {e : Fin 8} {d : Desc} {bytes : List Byte} {hostErr : Bool} (h : Keeps s₀ s) :
    Keeps s₀ (dmaGot s e d bytes hostErr) := by
  unfold dmaGot
  repeat' first
    | with_reducible assumption
    | intro _
    | with_reducible apply dmaFinish_keeps
    | with_reducible apply dmaOperate_keeps
    | with_reducible apply keeps_ite
    | split
    | dsimp only

theorem dmaDescriptor_keeps {e : Fin 8} {d : Desc} {bytes : List Byte} {reads : DmaRead} (h : Keeps s₀ s) :
    Keeps s₀ (dmaDescriptor s e d bytes reads) := by
  unfold dmaDescriptor
  repeat' first
    | with_reducible assumption
    | intro _
    | with_reducible apply dmaGot_keeps
    | with_reducible apply dmaUnread_keeps
    | with_reducible apply dmaAborted_keeps
    | with_reducible apply keeps_ite
    | split
    | dsimp only

theorem dmaEnable_keeps {e : Fin 8} {en : Bool} (h : Keeps s₀ s) :
    Keeps s₀ (dmaEnable s e en) := by
  unfold dmaEnable
  repeat' first
    | with_reducible assumption
    | intro _
    | with_reducible apply updDma_keeps
    | with_reducible apply admitDma_keeps
    | with_reducible apply keeps_ite
    | with_reducible refine keeps_snd ?_ ‹_ = (_, _)›
    | split
    | dsimp only

theorem dmaAbort_keeps {e : Fin 8} (h : Keeps s₀ s) : Keeps s₀ (dmaAbort s e) := by
  have hcur : Keeps s₀ (match s.dma[e].cur with
      | some (_, d) => dmaFinish s e d.flags .aborted s.dma[e].moved
      | none => updDma s e fun d => { d with aborting := true }) := by
    split
    · exact dmaFinish_keeps h
    · exact updDma_keeps h
  unfold dmaAbort
  refine updDma_keeps (keeps_ite hcur h)

theorem dmaTail_keeps {e : Fin 8} {v : Word} (h : Keeps s₀ s) :
    Keeps s₀ (dmaTail s e v) := by
  unfold dmaTail
  repeat' first
    | with_reducible assumption
    | intro _
    | with_reducible apply updDma_keeps
    | with_reducible apply keeps_ite
    | split
    | dsimp only

theorem authStart_keeps (h : Keeps s₀ s) :
    Keeps s₀ (authStart s) := by
  unfold authStart
  repeat' first
    | with_reducible assumption
    | intro _
    | with_reducible apply endSession_keeps
    | with_reducible apply updSec_keeps
    | with_reducible apply keeps_ite
    | split
    | dsimp only
    | with_reducible refine keeps_mk ?_ rfl rfl rfl rfl

theorem authVerify_keeps (h : Keeps s₀ s) :
    Keeps s₀ (authVerify s) := by
  unfold authVerify
  repeat' first
    | with_reducible assumption
    | intro _
    | with_reducible apply updSec_keeps
    | with_reducible apply keeps_ite
    | split
    | dsimp only

theorem authFail_keeps (h : Keeps s₀ s) :
    Keeps s₀ (authFail s) := by
  unfold authFail
  repeat' first
    | with_reducible assumption
    | intro _
    | with_reducible apply updSec_keeps
    | with_reducible apply sendMsg3_keeps
    | with_reducible apply keeps_ite
    | split
    | dsimp only

theorem authOpen_keeps {key : BitVec 768} {eph : List Byte} (h : Keeps s₀ s) :
    Keeps s₀ (authOpen s key eph) := by
  unfold authOpen
  repeat' first
    | with_reducible assumption
    | intro _
    | with_reducible apply updSec_keeps
    | with_reducible apply keeps_ite
    | split
    | dsimp only
    | with_reducible refine keeps_mk ?_ rfl rfl rfl rfl

theorem authDone_keeps (h : Keeps s₀ s) :
    Keeps s₀ (authDone s) := by
  unfold authDone
  repeat' first
    | with_reducible assumption
    | intro _
    | with_reducible apply authOpen_keeps
    | with_reducible apply authFail_keeps
    | with_reducible apply keeps_ite
    | split
    | dsimp only

theorem scAnswer_keeps {ch : Fin 4} {request : Word} {st : ScStatus} (h : Keeps s₀ s) :
    Keeps s₀ (scAnswer s ch request st) := by
  unfold scAnswer
  repeat' first
    | with_reducible assumption
    | intro _
    | with_reducible apply answer_keeps
    | with_reducible apply keeps_ite
    | split
    | dsimp only

theorem provision_keeps {ch : Fin 4} {request : Word} {op n : Nat} {f : List Byte → Sec → Sec} (h : Keeps s₀ s) :
    Keeps s₀ (provision s ch request op n f) := by
  unfold provision
  repeat' first
    | with_reducible assumption
    | intro _
    | with_reducible apply scAnswer_keeps
    | with_reducible apply updSec_keeps
    | with_reducible apply keeps_ite
    | split
    | dsimp only

theorem serveAttest_keeps {ch : Fin 4} {request : Word} (h : Keeps s₀ s) :
    Keeps s₀ (serveAttest s ch request) := by
  unfold serveAttest
  repeat' first
    | with_reducible assumption
    | intro _
    | with_reducible apply scAnswer_keeps
    | with_reducible apply updSec_keeps
    | with_reducible apply keeps_ite
    | split
    | dsimp only

theorem servePolicy_keeps {ch : Fin 4} {request : Word} (h : Keeps s₀ s) :
    Keeps s₀ (servePolicy s ch request) := by
  unfold servePolicy
  repeat' first
    | with_reducible assumption
    | intro _
    | with_reducible apply scAnswer_keeps
    | with_reducible apply updSec_keeps
    | with_reducible apply keeps_ite
    | split
    | dsimp only

theorem serveBadOp_keeps {ch : Fin 4} {request : Word} (h : Keeps s₀ s) :
    Keeps s₀ (serveBadOp s ch request) := by
  unfold serveBadOp
  repeat' first
    | with_reducible assumption
    | intro _
    | with_reducible apply scAnswer_keeps
    | with_reducible apply keeps_ite
    | split
    | dsimp only

theorem serveClose_keeps {ch : Fin 4} {request : Word} (h : Keeps s₀ s) :
    Keeps s₀ (serveClose s ch request) := by
  unfold serveClose
  repeat' first
    | with_reducible assumption
    | intro _
    | with_reducible apply endSession_keeps
    | with_reducible apply keeps_ite
    | split
    | dsimp only

theorem eraseKeys_keeps {ok : Bool} (h : Keeps s₀ s) :
    Keeps s₀ (eraseKeys s ok) := by
  unfold eraseKeys
  repeat' first
    | with_reducible assumption
    | intro _
    | with_reducible apply updSec_keeps
    | with_reducible apply endSession_keeps
    | with_reducible apply keeps_ite
    | split
    | dsimp only

theorem enterOpen_keeps {x : SecureCheck} (h : Keeps s₀ s) :
    Keeps s₀ (enterOpen s x) := by
  unfold enterOpen
  repeat' first
    | with_reducible assumption
    | intro _
    | with_reducible apply secureRestart_keeps
    | with_reducible apply secureReset_keeps
    | with_reducible apply hizAll_keeps
    | with_reducible apply discardModule_keeps
    | with_reducible apply lockdown_keeps
    | with_reducible apply closeBypass_keeps
    | with_reducible refine stopWaggle_keeps (by decide) ?_
    | with_reducible apply setMode_keeps
    | with_reducible apply updMod_keeps
    | with_reducible apply keeps_ite
    | split
    | dsimp only

theorem openDebug_keeps {x : OpenReport} (h : Keeps s₀ s) :
    Keeps s₀ (openDebug s x) := by
  unfold openDebug
  repeat' first
    | with_reducible assumption
    | intro _
    | with_reducible apply eraseKeys_keeps
    | with_reducible apply enterOpen_keeps
    | with_reducible apply present_keeps
    | with_reducible apply keeps_ite
    | split
    | dsimp only

theorem debugOpen_keeps {from? : Option (Fin 4 × Word)} {x : OpenReport} (h : Keeps s₀ s) :
    Keeps s₀ (debugOpen s from? x) := by
  unfold debugOpen
  repeat' first
    | with_reducible assumption
    | intro _
    | with_reducible apply openDebug_keeps
    | with_reducible apply sendMsg3_keeps
    | with_reducible apply scAnswer_keeps
    | with_reducible apply keeps_ite
    | split
    | dsimp only

theorem takeTemp_keeps {temps : Vector Rat 22}  {i : Fin 22} (h : Keeps s₀ s) :
    Keeps s₀ (takeTemp temps s i) := by
  unfold takeTemp
  repeat' first
    | with_reducible assumption
    | intro _
    | with_reducible apply updPwr_keeps
    | with_reducible apply raiseState_keeps
    | with_reducible apply endState_keeps
    | with_reducible apply keeps_ite
    | split
    | dsimp only

theorem takeTemps_keeps {temps : Vector Rat 22} (h : Keeps s₀ s) :
    Keeps s₀ (takeTemps s temps) := by
  unfold takeTemps
  repeat' first
    | with_reducible assumption
    | intro _
    | with_reducible apply takeTemp_keeps
    | with_reducible refine keeps_foldl ?_ ?_
    | with_reducible apply keeps_ite
    | split
    | dsimp only

theorem takeReports_keeps {r : Vector Rat 16} (h : Keeps s₀ s) :
    Keeps s₀ (takeReports s r) := by
  unfold takeReports
  repeat' first
    | with_reducible assumption
    | intro _
    | with_reducible apply updLdg_keeps
    | with_reducible apply steer_keeps
    | with_reducible apply trackMargin_keeps
    | with_reducible apply speedMargins_keeps
    | with_reducible refine keeps_foldl ?_ ?_
    | with_reducible apply keeps_ite
    | split
    | dsimp only

theorem stepDown_keeps (h : Keeps s₀ s) :
    Keeps s₀ (stepDown s) := by
  unfold stepDown
  repeat' first
    | with_reducible assumption
    | intro _
    | with_reducible apply requestVcore_keeps
    | with_reducible apply updLdg_keeps
    | with_reducible apply keeps_ite
    | split
    | dsimp only

theorem confirmVcore_keeps (h : Keeps s₀ s) :
    Keeps s₀ (confirmVcore s) := by
  unfold confirmVcore
  repeat' first
    | with_reducible assumption
    | intro _
    | with_reducible apply updLdg_keeps
    | with_reducible apply trackMargin_keeps
    | with_reducible apply steer_keeps
    | with_reducible apply keeps_ite
    | split
    | dsimp only

theorem writeVmin_keeps {v : Word} (h : Keeps s₀ s) :
    Keeps s₀ (writeVmin s v) := by
  unfold writeVmin
  repeat' first
    | with_reducible assumption
    | intro _
    | with_reducible apply steer_keeps
    | with_reducible apply updLdg_keeps
    | with_reducible apply updTb_keeps
    | with_reducible apply keeps_ite
    | split
    | dsimp only
    | with_reducible refine keeps_mk ?_ rfl rfl rfl rfl

theorem writeFrame_keeps {v : Word} (h : Keeps s₀ s) :
    Keeps s₀ (writeFrame s v) := by
  unfold writeFrame
  repeat' first
    | with_reducible assumption
    | intro _
    | with_reducible apply updTb_keeps
    | with_reducible apply keeps_ite
    | split
    | dsimp only
    | with_reducible refine keeps_mk ?_ rfl rfl rfl rfl

theorem writeFrameAt_keeps {v : DWord} (h : Keeps s₀ s) :
    Keeps s₀ (writeFrameAt s v) := by
  unfold writeFrameAt
  repeat' first
    | with_reducible assumption
    | intro _
    | with_reducible apply updTb_keeps
    | with_reducible apply keeps_ite
    | split
    | dsimp only
    | with_reducible refine keeps_mk ?_ rfl rfl rfl rfl

theorem deadlineMiss_keeps {a : Account} (h : Keeps s₀ s) :
    Keeps s₀ (deadlineMiss s a) := by
  unfold deadlineMiss
  repeat' first
    | with_reducible assumption
    | intro _
    | with_reducible apply updCh_keeps
    | with_reducible apply raiseUnit_keeps
    | with_reducible apply updSeq_keeps
    | with_reducible refine updSto_same ?_ rfl
    | with_reducible apply send_keeps
    | with_reducible refine keeps_foldl ?_ ?_
    | with_reducible apply keeps_ite
    | split
    | dsimp only
    | with_reducible refine keeps_mk ?_ rfl rfl rfl rfl

theorem requestHold_keeps (h : Keeps s₀ s) :
    Keeps s₀ (requestHold s) := by
  unfold requestHold
  repeat' first
    | with_reducible assumption
    | intro _
    | with_reducible apply updMod_keeps
    | with_reducible apply keeps_ite
    | split
    | dsimp only

theorem trigEdge_keeps {pin : Fin 16} {rising : Bool} (h : Keeps s₀ s) :
    Keeps s₀ (trigEdge s pin rising) := by
  unfold trigEdge
  repeat' first
    | with_reducible assumption
    | intro _
    | with_reducible apply updTrig_keeps
    | with_reducible apply deliver_keeps
    | with_reducible apply requestHold_keeps
    | with_reducible apply keeps_ite
    | split
    | dsimp only

theorem pulseEnd_keeps {pin : Fin 16} (h : Keeps s₀ s) :
    Keeps s₀ (pulseEnd s pin) := by
  unfold pulseEnd
  repeat' first
    | with_reducible assumption
    | intro _
    | with_reducible apply updTrig_keeps
    | with_reducible apply reachTick_keeps
    | with_reducible apply keeps_ite
    | split
    | dsimp only

theorem fireTimer_keeps {r : Fin 4} {n : Fin 16} (h : Keeps s₀ s) :
    Keeps s₀ (fireTimer s r n) := by
  unfold fireTimer
  repeat' first
    | with_reducible assumption
    | intro _
    | with_reducible apply updTimer_keeps
    | with_reducible apply reachTick_keeps
    | with_reducible apply emitTo_keeps
    | with_reducible apply deliver_keeps
    | with_reducible apply keeps_ite
    | split
    | dsimp only

theorem executeEvent_keeps {n : Fin 32} (h : Keeps s₀ s) :
    Keeps s₀ (executeEvent s n) := by
  unfold executeEvent
  repeat' first
    | with_reducible assumption
    | intro _
    | with_reducible apply updSeq_keeps
    | with_reducible apply reachTick_keeps
    | with_reducible apply requestHold_keeps
    | with_reducible apply deliver_keeps
    | with_reducible apply keeps_ite
    | split
    | dsimp only

theorem regionEvent_keeps {r : Fin 4} {v : Word} (h : Keeps s₀ s) :
    Keeps s₀ (regionEvent s r v) := by
  unfold regionEvent
  repeat' first
    | with_reducible assumption
    | intro _
    | with_reducible apply deliver_keeps
    | with_reducible apply keeps_ite
    | split
    | dsimp only

theorem ssiErrors_keeps {n : Fin 32} (h : Keeps s₀ s) :
    Keeps s₀ (ssiErrors s n) := by
  unfold ssiErrors
  repeat' first
    | with_reducible assumption
    | intro _
    | with_reducible refine keeps_forCh ?_ ?_
    | with_reducible apply updEnc_keeps
    | with_reducible apply raiseUnit_keeps
    | with_reducible apply keeps_ite
    | split
    | dsimp only

theorem stepEnds_keeps {c : Fin 128} (h : Keeps s₀ s) :
    Keeps s₀ (stepEnds s c) := by
  unfold stepEnds
  repeat' first
    | with_reducible assumption
    | intro _
    | with_reducible apply endStep_keeps
    | with_reducible apply updSw_keeps
    | with_reducible apply keeps_ite
    | split
    | dsimp only

theorem windowOpens_keeps {c : Fin 128} (h : Keeps s₀ s) :
    Keeps s₀ (windowOpens s c) := by
  unfold windowOpens
  repeat' first
    | with_reducible assumption
    | intro _
    | with_reducible apply updSw_keeps
    | with_reducible apply reachTick_keeps
    | with_reducible apply keeps_ite
    | split
    | dsimp only

theorem windowCloses_keeps {c : Fin 128} {a : Aperture} (h : Keeps s₀ s) :
    Keeps s₀ (windowCloses s c a) := by
  unfold windowCloses
  repeat' first
    | with_reducible assumption
    | intro _
    | with_reducible apply updSw_keeps
    | with_reducible apply reachTick_keeps
    | with_reducible apply keeps_ite
    | split
    | dsimp only

theorem resultReady_keeps {c : Fin 128} (h : Keeps s₀ s) :
    Keeps s₀ (resultReady s c) := by
  unfold resultReady
  repeat' first
    | with_reducible assumption
    | intro _
    | with_reducible apply updSw_keeps
    | with_reducible apply addSample_keeps
    | with_reducible refine keeps_foldl ?_ ?_
    | with_reducible apply keeps_ite
    | split
    | dsimp only

theorem waitTimeout_keeps {c : Fin 128} (h : Keeps s₀ s) :
    Keeps s₀ (waitTimeout s c) := by
  unfold waitTimeout
  repeat' first
    | with_reducible assumption
    | intro _
    | with_reducible apply send_keeps
    | with_reducible apply updSw_keeps
    | with_reducible apply keeps_ite
    | split
    | dsimp only

theorem outEvent_keeps {c : Fin 128} (h : Keeps s₀ s) :
    Keeps s₀ (outEvent s c) := by
  unfold outEvent
  repeat' first
    | with_reducible assumption
    | intro _
    | with_reducible apply emitOut_keeps
    | with_reducible apply updSw_keeps
    | with_reducible apply reachTick_keeps
    | with_reducible apply keeps_ite
    | split
    | dsimp only

end Sys2Proof.Machine
end

