-- ==== Sys2Proof/Laws/KeepsRing.lean ====
section
/-!
SUPPORT. What the operations of the ring port and the registers keep: each takes a state that Keeps relates to `s₀` to another.
-/

namespace Sys2Proof.Machine

variable {s₀ s : State}

theorem raiseLoss_keeps {detail : Nat} (h : Keeps s₀ s) :
    Keeps s₀ (raiseLoss s detail) := by
  unfold raiseLoss
  repeat' first
    | with_reducible assumption
    | intro _
    | with_reducible apply send_keeps
    | with_reducible apply raiseState_keeps
    | with_reducible apply keeps_ite
    | split
    | dsimp only

theorem lossOpen_keeps {cause : Nat} (h : Keeps s₀ s) :
    Keeps s₀ (lossOpen s cause) := by
  unfold lossOpen
  repeat' first
    | with_reducible assumption
    | intro _
    | with_reducible apply raiseLoss_keeps
    | with_reducible apply keeps_ite
    | split
    | dsimp only

theorem lossClosed_keeps {cause : Nat} (h : Keeps s₀ s) :
    Keeps s₀ (lossClosed s cause) := by
  unfold lossClosed
  repeat' first
    | with_reducible assumption
    | intro _
    | with_reducible apply endState_keeps
    | with_reducible apply raiseLoss_keeps
    | with_reducible apply closeBypass_keeps
    | with_reducible apply keeps_ite
    | split
    | dsimp only

theorem becomeFormed_keeps (h : Keeps s₀ s) :
    Keeps s₀ (becomeFormed s) := by
  unfold becomeFormed
  repeat' first
    | with_reducible assumption
    | intro _
    | with_reducible apply endState_keeps
    | with_reducible apply updJx_keeps
    | with_reducible apply keeps_ite
    | split
    | dsimp only

theorem ringJoin_keeps (h : Keeps s₀ s) :
    Keeps s₀ (ringJoin s) := by
  unfold ringJoin
  repeat' first
    | with_reducible assumption
    | intro _
    | with_reducible apply tryJoin_keeps
    | with_reducible apply updJx_keeps
    | with_reducible apply keeps_ite
    | split
    | dsimp only

theorem ringLeave_keeps (h : Keeps s₀ s) :
    Keeps s₀ (ringLeave s) := by
  unfold ringLeave
  repeat' first
    | with_reducible assumption
    | intro _
    | with_reducible apply updJx_keeps
    | with_reducible apply closeBypass_keeps
    | with_reducible apply keeps_ite
    | split
    | dsimp only

theorem ringHoldAll_keeps (h : Keeps s₀ s) :
    Keeps s₀ (ringHoldAll s) := by
  unfold ringHoldAll
  repeat' first
    | with_reducible assumption
    | intro _
    | with_reducible apply sendRingEvent_keeps
    | with_reducible apply keeps_ite
    | split
    | dsimp only

theorem localTrained_keeps {ok : Bool} (h : Keeps s₀ s) :
    Keeps s₀ (localTrained s ok) := by
  unfold localTrained
  repeat' first
    | with_reducible assumption
    | intro _
    | with_reducible apply tryJoin_keeps
    | with_reducible apply updJx_keeps
    | with_reducible apply lossClosed_keeps
    | with_reducible apply keeps_ite
    | split
    | dsimp only

theorem linkTrained_keeps (h : Keeps s₀ s) :
    Keeps s₀ (linkTrained s) := by
  unfold linkTrained
  repeat' first
    | with_reducible assumption
    | intro _
    | with_reducible apply send_keeps
    | with_reducible apply updJx_keeps
    | with_reducible apply keeps_ite
    | split
    | dsimp only

theorem breakRing_keeps (h : Keeps s₀ s) :
    Keeps s₀ (breakRing s) := by
  unfold breakRing
  repeat' first
    | with_reducible assumption
    | intro _
    | with_reducible apply updJx_keeps
    | with_reducible apply leaveFormed_keeps
    | with_reducible apply keeps_ite
    | split
    | dsimp only

theorem lossTimeout_keeps {noLock : Bool} (h : Keeps s₀ s) :
    Keeps s₀ (lossTimeout s noLock) := by
  unfold lossTimeout
  repeat' first
    | with_reducible assumption
    | intro _
    | with_reducible apply breakRing_keeps
    | with_reducible apply lossOpen_keeps
    | with_reducible apply keeps_ite
    | split
    | dsimp only

theorem lockLost_keeps (h : Keeps s₀ s) :
    Keeps s₀ (lockLost s) := by
  unfold lockLost
  repeat' first
    | with_reducible assumption
    | intro _
    | with_reducible apply updJx_keeps
    | with_reducible apply breakRing_keeps
    | with_reducible apply keeps_ite
    | split
    | dsimp only

theorem alignedLost_keeps (h : Keeps s₀ s) :
    Keeps s₀ (alignedLost s) := by
  unfold alignedLost
  repeat' first
    | with_reducible assumption
    | intro _
    | with_reducible apply updJx_keeps
    | with_reducible apply keeps_ite
    | split
    | dsimp only

theorem noteUpstream_keeps {f : Frame} (h : Keeps s₀ s) :
    Keeps s₀ (noteUpstream s f) := by
  unfold noteUpstream
  repeat' first
    | with_reducible assumption
    | intro _
    | with_reducible apply updJx_keeps
    | with_reducible apply keeps_ite
    | split
    | dsimp only

theorem noteBadCrc_keeps {f : Frame} (h : Keeps s₀ s) :
    Keeps s₀ (noteBadCrc s f) := by
  unfold noteBadCrc
  repeat' first
    | with_reducible assumption
    | intro _
    | with_reducible apply updJx_keeps
    | with_reducible apply keeps_ite
    | split
    | dsimp only

theorem forward_keeps {f : Frame} {ok : Bool} (h : Keeps s₀ s) :
    Keeps s₀ (forward s f ok) := by
  unfold forward
  repeat' first
    | with_reducible assumption
    | intro _
    | with_reducible apply updJx_keeps
    | with_reducible apply sendFrame_keeps
    | with_reducible apply keeps_ite
    | split
    | dsimp only

theorem receive_keeps {f : Frame} {back use : State → Frame → State} {thr : State → Frame → Frame}
    (h : Keeps s₀ s) (hb : ∀ s f, Keeps s₀ s → Keeps s₀ (back s f)) (hu : ∀ s f, Keeps s₀ s → Keeps s₀ (use s f)) :
    Keeps s₀ (receive s f back use thr) := by
  unfold receive
  repeat' first
    | with_reducible assumption
    | with_reducible apply keeps_ite
    | with_reducible apply forward_keeps
    | with_reducible apply noteBadCrc_keeps
    | with_reducible apply noteUpstream_keeps
    | apply hb
    | apply hu
    | dsimp only

theorem dropOwn_keeps {x0 : Frame} (h : Keeps s₀ s) :
    Keeps s₀ (dropOwn s x0) := by
  unfold dropOwn
  repeat' first
    | with_reducible assumption
    | intro _
    | with_reducible apply keeps_ite
    | split
    | dsimp only

theorem transit_keeps {f : Frame} (h : Keeps s₀ s) :
    Keeps s₀ (transit s f) := by
  unfold transit
  repeat' first
    | with_reducible assumption
    | intro _
    | with_reducible apply receive_keeps
    | with_reducible apply dropOwn_keeps
    | with_reducible apply keeps_ite
    | split
    | dsimp only

theorem ringCrcDue_keeps (h : Keeps s₀ s) :
    Keeps s₀ (ringCrcDue s) := by
  unfold ringCrcDue
  repeat' first
    | with_reducible assumption
    | intro _
    | with_reducible apply updJx_keeps
    | with_reducible apply send_keeps
    | with_reducible apply keeps_ite
    | split
    | dsimp only

theorem sendRound_keeps {type arg : Nat} {payload : List Byte} (h : Keeps s₀ s) :
    Keeps s₀ (sendRound s type arg payload) := by
  unfold sendRound
  repeat' first
    | with_reducible assumption
    | intro _
    | with_reducible apply sendNew_keeps
    | with_reducible apply updJx_keeps
    | with_reducible apply keeps_ite
    | split
    | dsimp only

theorem endRound_keeps {f : Frame} (h : Keeps s₀ s) :
    Keeps s₀ (endRound s f) := by
  unfold endRound
  repeat' first
    | with_reducible assumption
    | intro _
    | with_reducible apply updJx_keeps
    | with_reducible apply keeps_ite
    | split
    | dsimp only

theorem sendEnum_keeps {pass map sum : Nat} (h : Keeps s₀ s) :
    Keeps s₀ (sendEnum s pass map sum) := by
  unfold sendEnum
  repeat' first
    | with_reducible assumption
    | intro _
    | with_reducible apply sendRound_keeps
    | with_reducible apply keeps_ite
    | split
    | dsimp only

theorem startEnum_keeps (h : Keeps s₀ s) :
    Keeps s₀ (startEnum s) := by
  unfold startEnum
  repeat' first
    | with_reducible assumption
    | intro _
    | with_reducible apply updJx_keeps
    | with_reducible apply sendEnum_keeps
    | with_reducible apply keeps_ite
    | split
    | dsimp only

theorem enumUse_keeps {f : Frame} (h : Keeps s₀ s) :
    Keeps s₀ (enumUse s f) := by
  unfold enumUse
  repeat' first
    | with_reducible assumption
    | intro _
    | with_reducible apply lossClosed_keeps
    | with_reducible apply updJx_keeps
    | with_reducible apply becomeFormed_keeps
    | with_reducible apply keeps_ite
    | split
    | dsimp only

theorem enumBack_keeps {f : Frame} (h : Keeps s₀ s) :
    Keeps s₀ (enumBack s f) := by
  unfold enumBack
  repeat' first
    | with_reducible assumption
    | intro _
    | with_reducible apply endRound_keeps
    | with_reducible apply lossClosed_keeps
    | with_reducible apply updJx_keeps
    | with_reducible apply lossOpen_keeps
    | with_reducible apply sendEnum_keeps
    | with_reducible apply becomeFormed_keeps
    | with_reducible apply keeps_ite
    | split
    | dsimp only

theorem takeEnum_keeps {f : Frame} (h : Keeps s₀ s) : Keeps s₀ (takeEnum s f) :=
  receive_keeps h (fun _ _ => enumBack_keeps) fun _ _ => enumUse_keeps

theorem sendTime_keeps (h : Keeps s₀ s) :
    Keeps s₀ (sendTime s) := by
  unfold sendTime
  repeat' first
    | with_reducible assumption
    | intro _
    | with_reducible apply reachTick_keeps
    | with_reducible apply sendRound_keeps
    | with_reducible apply updJx_keeps
    | with_reducible apply keeps_ite
    | split
    | dsimp only

theorem stepTime_keeps {est : Rat} (h : Keeps s₀ s) :
    Keeps s₀ (stepTime s est) := by
  unfold stepTime
  repeat' first
    | with_reducible assumption
    | intro _
    | with_reducible apply updMod_keeps
    | with_reducible apply updTb_keeps
    | with_reducible apply updJx_keeps
    | with_reducible apply keeps_ite
    | split
    | dsimp only
    | with_reducible refine keeps_mk ?_ rfl rfl rfl rfl

theorem timeUse_keeps {f : Frame} (h : Keeps s₀ s) :
    Keeps s₀ (timeUse s f) := by
  unfold timeUse
  repeat' first
    | with_reducible assumption
    | intro _
    | with_reducible apply lossClosed_keeps
    | with_reducible apply updJx_keeps
    | with_reducible apply stepTime_keeps
    | with_reducible apply keeps_ite
    | split
    | dsimp only
    | with_reducible refine keeps_mk ?_ rfl rfl rfl rfl

theorem timeBack_keeps {f : Frame} (h : Keeps s₀ s) :
    Keeps s₀ (timeBack s f) := by
  unfold timeBack
  repeat' first
    | with_reducible assumption
    | intro _
    | with_reducible apply endRound_keeps
    | with_reducible apply lossClosed_keeps
    | with_reducible apply updJx_keeps
    | with_reducible apply startEnum_keeps
    | with_reducible apply keeps_ite
    | split
    | dsimp only

theorem takeTime_keeps {f : Frame} {residence : Nat} (h : Keeps s₀ s) : Keeps s₀ (takeTime s f residence) :=
  receive_keeps h (fun _ _ => timeBack_keeps) fun _ _ => timeUse_keeps

theorem eventUse_keeps {f : Frame} (h : Keeps s₀ s) :
    Keeps s₀ (eventUse s f) := by
  unfold eventUse
  repeat' first
    | with_reducible assumption
    | intro _
    | with_reducible apply takeRingEvent_keeps
    | with_reducible apply keeps_ite
    | split
    | dsimp only

theorem takeEvent_keeps {f : Frame} (h : Keeps s₀ s) : Keeps s₀ (takeEvent s f) :=
  receive_keeps h (fun _ _ => dropOwn_keeps) fun _ _ => eventUse_keeps

theorem fault6Use_keeps {f : Frame} (h : Keeps s₀ s) :
    Keeps s₀ (fault6Use s f) := by
  unfold fault6Use
  repeat' first
    | with_reducible assumption
    | intro _
    | with_reducible apply send_keeps
    | with_reducible apply updJx_keeps
    | with_reducible apply keeps_ite
    | split
    | dsimp only

theorem fault6Back_keeps {f : Frame} (h : Keeps s₀ s) :
    Keeps s₀ (fault6Back s f) := by
  unfold fault6Back
  repeat' first
    | with_reducible assumption
    | intro _
    | with_reducible apply updJx_keeps
    | with_reducible apply keeps_ite
    | split
    | dsimp only

theorem takeFault6_keeps {f : Frame} (h : Keeps s₀ s) : Keeps s₀ (takeFault6 s f) :=
  receive_keeps h (fun _ _ => fault6Back_keeps) fun _ _ => fault6Use_keeps

theorem resendFault6_keeps (h : Keeps s₀ s) :
    Keeps s₀ (resendFault6 s) := by
  unfold resendFault6
  repeat' first
    | with_reducible assumption
    | intro _
    | with_reducible apply sendFrame_keeps
    | with_reducible refine keeps_foldl ?_ ?_
    | with_reducible apply keeps_ite
    | split
    | dsimp only

theorem blockUse_keeps {f : Frame} (h : Keeps s₀ s) :
    Keeps s₀ (blockUse s f) := by
  unfold blockUse
  repeat' first
    | with_reducible assumption
    | intro _
    | with_reducible apply send_keeps
    | with_reducible apply writeBlock_keeps
    | with_reducible apply keeps_ite
    | split
    | dsimp only

theorem takeBlock_keeps {f : Frame} (h : Keeps s₀ s) : Keeps s₀ (takeBlock s f) :=
  receive_keeps h (fun _ _ => dropOwn_keeps) fun _ _ => blockUse_keeps

theorem pushFrame_keeps {f : Frame} {bad : Bool} (h : Keeps s₀ s) :
    Keeps s₀ (pushFrame s f bad) := by
  unfold pushFrame
  repeat' first
    | with_reducible assumption
    | intro _
    | with_reducible apply updJx_keeps
    | with_reducible apply queueWrite_keeps
    | with_reducible refine keeps_foldl ?_ ?_
    | with_reducible apply keeps_ite
    | split
    | dsimp only

theorem takeQitems_keeps {f : Frame} (h : Keeps s₀ s) : Keeps s₀ (takeQitems s f) :=
  keeps_ite (pushFrame_keeps (keeps_ite (noteUpstream_keeps h) (noteBadCrc_keeps (noteUpstream_keeps h))))
    (receive_keeps h (fun _ _ => dropOwn_keeps) fun _ _ => dropOwn_keeps)

theorem egressBlock_keeps {n : Fin 31} (h : Keeps s₀ s) :
    Keeps s₀ (egressBlock s n) := by
  unfold egressBlock
  repeat' first
    | with_reducible assumption
    | intro _
    | with_reducible apply sendFrame_keeps
    | with_reducible apply updJx_keeps
    | with_reducible apply advanceRp_keeps
    | with_reducible apply blockBad_keeps
    | with_reducible apply keeps_ite
    | split
    | dsimp only

theorem raTimeout_keeps {m : Fin 2} (h : Keeps s₀ s) :
    Keeps s₀ (raTimeout s m) := by
  unfold raTimeout
  repeat' first
    | with_reducible assumption
    | intro _
    | with_reducible apply updRa_keeps
    | with_reducible apply keeps_ite
    | split
    | dsimp only

theorem readClear_keeps {a : Nat} (h : Keeps s₀ s) :
    Keeps s₀ (readClear s a) := by
  unfold readClear
  repeat' first
    | with_reducible assumption
    | intro _
    | with_reducible apply updCh_keeps
    | with_reducible apply updRing_keeps
    | with_reducible apply updJx_keeps
    | with_reducible apply updEnc_keeps
    | with_reducible apply keeps_ite
    | split
    | dsimp only

theorem histRead_keeps {m : Master} {slot : Fin 33} {k : Nat} (h : Keeps s₀ s) :
    Keeps s₀ (histRead s m slot k).2 := by
  unfold histRead
  repeat' first
    | with_reducible assumption
    | intro _
    | with_reducible apply updBus_keeps
    | with_reducible apply keeps_ite
    | split
    | dsimp only

theorem sqRej_keeps {n : Fin 32} (h : Keeps s₀ s) :
    Keeps s₀ (sqRej s n) := by
  unfold sqRej
  repeat' first
    | with_reducible assumption
    | intro _
    | with_reducible refine updQ_same ?_ ?_ ?_ ?_ ?_
    | with_reducible apply keeps_ite
    | split
    | dsimp only
    | rfl

theorem sqRdLo_keeps {m : Master} {n : Fin 32} (h : Keeps s₀ s) :
    Keeps s₀ (sqRdLo s m n).2 := by
  unfold sqRdLo
  repeat' first
    | with_reducible assumption
    | intro _
    | with_reducible apply sqRej_keeps
    | with_reducible apply takeItem_keeps
    | with_reducible apply updBus_keeps
    | with_reducible apply keeps_ite
    | with_reducible refine keeps_snd ?_ ‹_ = (_, _)›
    | split
    | dsimp only

theorem mbxBlockRead_keeps {m : Master} {o : Nat} (h : Keeps s₀ s) :
    Keeps s₀ (mbxBlockRead s m o).2 := by
  unfold mbxBlockRead
  repeat' first
    | with_reducible assumption
    | intro _
    | with_reducible apply updMbx_keeps
    | with_reducible apply takeLock_keeps
    | with_reducible apply keeps_ite
    | split
    | dsimp only

theorem bar2Read_keeps {o : Nat} (h : Keeps s₀ s) :
    Keeps s₀ (bar2Read s o).2 := by
  unfold bar2Read
  repeat' first
    | with_reducible assumption
    | intro _
    | with_reducible apply updSec_keeps
    | with_reducible apply updMbx_keeps
    | with_reducible apply keeps_ite
    | split
    | dsimp only

theorem secRead_keeps {o : Nat} (h : Keeps s₀ s) :
    Keeps s₀ (secRead s o).2 := by
  unfold secRead
  repeat' first
    | with_reducible assumption
    | intro _
    | with_reducible apply updMbx_keeps
    | with_reducible apply keeps_ite
    | split
    | dsimp only

theorem windowRead_keeps {m : Master} {o : Nat} (h : Keeps s₀ s) :
    Keeps s₀ (windowRead s m o).2 := by
  unfold windowRead
  repeat' first
    | with_reducible assumption
    | intro _
    | with_reducible apply secRead_keeps
    | with_reducible apply bar2Read_keeps
    | with_reducible apply keeps_ite
    | with_reducible refine keeps_snd ?_ ‹_ = (_, _)›
    | split
    | dsimp only

theorem busRead_keeps {m : Master} {a : Nat} (h : Keeps s₀ s) :
    Keeps s₀ (busRead s m a).2 := by
  unfold busRead
  repeat' first
    | with_reducible assumption
    | intro _
    | with_reducible apply windowRead_keeps
    | with_reducible apply updBus_keeps
    | with_reducible apply histRead_keeps
    | with_reducible apply mbxBlockRead_keeps
    | with_reducible apply sqRdLo_keeps
    | with_reducible apply readClear_keeps
    | with_reducible apply keeps_ite
    | with_reducible refine keeps_snd ?_ ‹_ = (_, _)›
    | split
    | dsimp only

theorem readRegister_keeps {m : Master} {a : Nat} {be : BitVec 4} (h : Keeps s₀ s) :
    Keeps s₀ (readRegister s m a be) := by
  unfold readRegister
  repeat' first
    | with_reducible assumption
    | intro _
    | with_reducible apply busRead_keeps
    | with_reducible apply updBus_keeps
    | with_reducible apply keeps_ite
    | with_reducible refine keeps_snd ?_ ‹_ = (_, _)›
    | split
    | dsimp only

theorem seqRej_keeps (h : Keeps s₀ s) :
    Keeps s₀ (seqRej s) := by
  unfold seqRej
  repeat' first
    | with_reducible assumption
    | intro _
    | with_reducible apply updSeq_keeps
    | with_reducible apply keeps_ite
    | split
    | dsimp only

theorem tmrRej_keeps (h : Keeps s₀ s) :
    Keeps s₀ (tmrRej s) := by
  unfold tmrRej
  repeat' first
    | with_reducible assumption
    | intro _
    | with_reducible apply updSeq_keeps
    | with_reducible apply keeps_ite
    | split
    | dsimp only

theorem pwrRej_keeps (h : Keeps s₀ s) :
    Keeps s₀ (pwrRej s) := by
  unfold pwrRej
  repeat' first
    | with_reducible assumption
    | intro _
    | with_reducible apply updPwr_keeps
    | with_reducible apply keeps_ite
    | split
    | dsimp only

theorem calRej_keeps (h : Keeps s₀ s) :
    Keeps s₀ (calRej s) := by
  unfold calRej
  repeat' first
    | with_reducible assumption
    | intro _
    | with_reducible apply keeps_ite
    | split
    | dsimp only
    | with_reducible refine keeps_mk ?_ rfl rfl rfl rfl

theorem dmaRej_keeps {e : Fin 8} (h : Keeps s₀ s) :
    Keeps s₀ (dmaRej s e) := by
  unfold dmaRej
  repeat' first
    | with_reducible assumption
    | intro _
    | with_reducible apply updDma_keeps
    | with_reducible apply keeps_ite
    | split
    | dsimp only

theorem pwr64Write_keeps {o : Nat} {v : DWord} (h : Keeps s₀ s) :
    Keeps s₀ (pwr64Write s o v) := by
  unfold pwr64Write
  repeat' first
    | with_reducible assumption
    | intro _
    | with_reducible apply updPwr_keeps
    | with_reducible apply pwrRej_keeps
    | with_reducible apply keeps_ite
    | split
    | dsimp only

theorem cal64Write_keeps {o : Nat} {v : DWord} (h : Keeps s₀ s) :
    Keeps s₀ (cal64Write s o v) := by
  unfold cal64Write
  repeat' first
    | with_reducible assumption
    | intro _
    | with_reducible apply calRej_keeps
    | with_reducible apply keeps_ite
    | split
    | dsimp only
    | with_reducible refine keeps_mk ?_ rfl rfl rfl rfl

theorem seq64Write_keeps {o : Nat} {v : DWord} (h : Keeps s₀ s) :
    Keeps s₀ (seq64Write s o v) := by
  unfold seq64Write
  repeat' first
    | with_reducible assumption
    | intro _
    | with_reducible apply updSeq_keeps
    | with_reducible apply seqRej_keeps
    | with_reducible apply updEnc_keeps
    | with_reducible apply updTimer_keeps
    | with_reducible apply tmrRej_keeps
    | with_reducible apply keeps_ite
    | split
    | dsimp only

theorem dmaBaseWrite_keeps {e : Fin 8} {v : DWord} (h : Keeps s₀ s) :
    Keeps s₀ (dmaBaseWrite s e v) := by
  unfold dmaBaseWrite
  repeat' first
    | with_reducible assumption
    | intro _
    | with_reducible apply updDma_keeps
    | with_reducible apply dmaRej_keeps
    | with_reducible apply keeps_ite
    | split
    | dsimp only

theorem commit64_keeps {a : Nat} {v : DWord} (h : Keeps s₀ s) :
    Keeps s₀ (commit64 s a v) := by
  unfold commit64
  repeat' first
    | with_reducible assumption
    | intro _
    | with_reducible apply ch64Write_keeps
    | with_reducible apply writeTarget_keeps
    | with_reducible apply writeFrameAt_keeps
    | with_reducible apply pwr64Write_keeps
    | with_reducible apply dmaBaseWrite_keeps
    | with_reducible apply cal64Write_keeps
    | with_reducible apply seq64Write_keeps
    | with_reducible apply keeps_ite
    | split
    | dsimp only

theorem modWrite_keeps {o : Nat} {v : Word} (h : Keeps s₀ s) :
    Keeps s₀ (modWrite s o v) := by
  unfold modWrite
  repeat' first
    | with_reducible assumption
    | intro _
    | with_reducible apply writeModCtrl_keeps
    | with_reducible apply updMod_keeps
    | with_reducible apply cmdRej_keeps
    | with_reducible apply keeps_ite
    | split
    | dsimp only

theorem tbWrite_keeps {o : Nat} {v : Word} (h : Keeps s₀ s) :
    Keeps s₀ (tbWrite s o v) := by
  unfold tbWrite
  repeat' first
    | with_reducible assumption
    | intro _
    | with_reducible apply writeFrame_keeps
    | with_reducible apply updTb_keeps
    | with_reducible apply writeVmin_keeps
    | with_reducible apply keeps_ite
    | split
    | dsimp only
    | with_reducible refine keeps_mk ?_ rfl rfl rfl rfl

theorem writeFltCtrl_keeps {v : Word} (h : Keeps s₀ s) :
    Keeps s₀ (writeFltCtrl s v) := by
  unfold writeFltCtrl
  repeat' first
    | with_reducible assumption
    | intro _
    | with_reducible apply clearHist_keeps
    | with_reducible apply clearFirst_keeps
    | with_reducible apply keeps_ite
    | split
    | dsimp only

theorem fltWrite_keeps {o : Nat} {v : Word} (h : Keeps s₀ s) :
    Keeps s₀ (fltWrite s o v) := by
  unfold fltWrite
  repeat' first
    | with_reducible assumption
    | intro _
    | with_reducible apply updFlt_keeps
    | with_reducible apply collect_keeps
    | with_reducible apply ackFaults_keeps
    | with_reducible apply writeFltCtrl_keeps
    | with_reducible apply writeWaggle_keeps
    | with_reducible apply keeps_ite
    | split
    | dsimp only
    | rfl

theorem mbxBlockWrite_keeps {m : Master} {o : Nat} {v : Word} (h : Keeps s₀ s) :
    Keeps s₀ (mbxBlockWrite s m o v) := by
  unfold mbxBlockWrite
  repeat' first
    | with_reducible assumption
    | intro _
    | with_reducible apply updMbx_keeps
    | with_reducible apply writeLock_keeps
    | with_reducible apply keeps_ite
    | split
    | dsimp only

theorem writeSqCtrl_keeps {n : Fin 32} {v : Word} (h : Keeps s₀ s) : Keeps s₀ (writeSqCtrl s n v) :=
  keeps_ite (updWm_keeps (updQ_keeps' (writeQueueEn_keeps h) fun _ => flushReq_balanced)) (writeQueueEn_keeps h)

theorem stageWord_keeps {m : Master} {a : Nat} {v : Word} (h : Keeps s₀ s) :
    Keeps s₀ (stageWord s m a v) := by
  unfold stageWord
  repeat' first
    | with_reducible assumption
    | intro _
    | with_reducible apply updBus_keeps
    | with_reducible apply keeps_ite
    | split
    | dsimp only

theorem sqWrHi_keeps {m : Master} {n : Fin 32} {v : Word} (h : Keeps s₀ s) :
    Keeps s₀ (sqWrHi s m n v) := by
  unfold sqWrHi
  repeat' first
    | with_reducible assumption
    | intro _
    | with_reducible apply sqRej_keeps
    | with_reducible apply queueWrite_keeps
    | with_reducible apply keeps_ite
    | split
    | dsimp only

theorem sqWrite_keeps {m : Master} {o : Nat} {v : Word} (h : Keeps s₀ s) :
    Keeps s₀ (sqWrite s m o v) := by
  unfold sqWrite
  split
  · dsimp only
    split
    all_goals
      repeat' first
        | with_reducible assumption
        | intro _
        | with_reducible apply updWm_keeps
        | with_reducible refine updQ_same ?_ ?_ ?_ ?_ ?_
        | with_reducible apply sqRej_keeps
        | with_reducible apply writeSqCtrl_keeps
        | with_reducible apply stageWord_keeps
        | with_reducible apply sqWrHi_keeps
        | with_reducible apply keeps_ite
        | rfl
  · exact updWm_keeps (updPins_keeps h rfl rfl)
  · exact h

theorem writeRingCfg_keeps {n : Fin 31} {v : Word} (h : Keeps s₀ s) :
    Keeps s₀ (writeRingCfg s n v) := by
  unfold writeRingCfg
  repeat' first
    | with_reducible assumption
    | intro _
    | with_reducible apply updRing_keeps
    | with_reducible apply keeps_ite
    | split
    | dsimp only

theorem ringWrite_keeps {n : Fin 31} {r : Nat} {v : Word} (h : Keeps s₀ s) :
    Keeps s₀ (ringWrite s n r v) := by
  unfold ringWrite
  repeat' first
    | with_reducible assumption
    | intro _
    | with_reducible apply writeRingCfg_keeps
    | with_reducible apply updRing_keeps
    | with_reducible apply keeps_ite
    | split
    | dsimp only

theorem writeStrCtrl_keeps {n : Fin 2048} {v : Word} (h : Keeps s₀ s) :
    Keeps s₀ (writeStrCtrl s n v) := by
  unfold writeStrCtrl
  repeat' first
    | with_reducible assumption
    | intro _
    | with_reducible apply updStream_keeps
    | with_reducible apply openStr_keeps
    | with_reducible apply closeStr_keeps
    | with_reducible apply keeps_ite
    | split
    | dsimp only

theorem strWrite_keeps {n : Fin 2048} {r : Nat} {v : Word} (h : Keeps s₀ s) :
    Keeps s₀ (strWrite s n r v) := by
  unfold strWrite
  repeat' first
    | with_reducible assumption
    | intro _
    | with_reducible apply updStream_keeps
    | with_reducible apply writeStrCtrl_keeps
    | with_reducible apply keeps_ite
    | split
    | dsimp only

theorem capWrite_keeps {o : Nat} {v : Word} (h : Keeps s₀ s) :
    Keeps s₀ (capWrite s o v) := by
  unfold capWrite
  repeat' first
    | with_reducible assumption
    | intro _
    | with_reducible refine updSto_same ?_ rfl
    | with_reducible apply ringWrite_keeps
    | with_reducible apply strWrite_keeps
    | with_reducible apply keeps_ite
    | split
    | dsimp only
    | with_reducible refine keeps_mk ?_ rfl rfl rfl rfl

theorem writeJxCtrl_keeps {v : Word} (h : Keeps s₀ s) :
    Keeps s₀ (writeJxCtrl s v) := by
  unfold writeJxCtrl
  repeat' first
    | with_reducible assumption
    | intro _
    | with_reducible apply ringJoin_keeps
    | with_reducible apply ringLeave_keeps
    | with_reducible apply ringHoldAll_keeps
    | with_reducible apply keeps_ite
    | split
    | dsimp only

theorem jxWrite_keeps {m : Master} {o : Nat} {v : Word} (h : Keeps s₀ s) :
    Keeps s₀ (jxWrite s m o v) := by
  unfold jxWrite
  repeat' first
    | with_reducible assumption
    | intro _
    | with_reducible apply updRa_keeps
    | with_reducible apply writeJxCtrl_keeps
    | with_reducible apply updJx_keeps
    | with_reducible apply keeps_ite
    | split
    | dsimp only

theorem writeDmaCtrl_keeps {e : Fin 8} {v : Word} (h : Keeps s₀ s) :
    Keeps s₀ (writeDmaCtrl s e v) := by
  unfold writeDmaCtrl
  repeat' first
    | with_reducible assumption
    | intro _
    | with_reducible apply dmaAbort_keeps
    | with_reducible apply dmaEnable_keeps
    | with_reducible apply keeps_ite
    | split
    | dsimp only

theorem dmaWrite_keeps {e : Fin 8} {r : Nat} {v : Word} (h : Keeps s₀ s) :
    Keeps s₀ (dmaWrite s e r v) := by
  unfold dmaWrite
  repeat' first
    | with_reducible assumption
    | intro _
    | with_reducible apply updDma_keeps
    | with_reducible apply dmaRej_keeps
    | with_reducible apply dmaTail_keeps
    | with_reducible apply writeDmaCtrl_keeps
    | with_reducible apply keeps_ite
    | split
    | dsimp only

theorem hstWrite_keeps {o : Nat} {v : Word} (h : Keeps s₀ s) :
    Keeps s₀ (hstWrite s o v) := by
  unfold hstWrite
  repeat' first
    | with_reducible assumption
    | intro _
    | with_reducible apply dmaWrite_keeps
    | with_reducible apply updHst_keeps
    | with_reducible apply keeps_ite
    | split
    | dsimp only

theorem writeAuthCtrl_keeps {v : Word} (h : Keeps s₀ s) :
    Keeps s₀ (writeAuthCtrl s v) := by
  unfold writeAuthCtrl
  repeat' first
    | with_reducible assumption
    | intro _
    | with_reducible apply authStart_keeps
    | with_reducible apply authVerify_keeps
    | with_reducible apply keeps_ite
    | split
    | dsimp only

theorem bootWrite_keeps {o : Nat} {v : Word} (h : Keeps s₀ s) :
    Keeps s₀ (bootWrite s o v) := by
  unfold bootWrite
  repeat' first
    | with_reducible assumption
    | intro _
    | with_reducible apply updSec_keeps
    | with_reducible apply writeAuthCtrl_keeps
    | with_reducible apply keeps_ite
    | split
    | dsimp only

theorem reqAllUnits_keeps (h : Keeps s₀ s) :
    Keeps s₀ (reqAllUnits s) := by
  unfold reqAllUnits
  repeat' first
    | with_reducible assumption
    | intro _
    | with_reducible apply keeps_ite
    | split
    | dsimp only
    | with_reducible refine keeps_mk ?_ rfl rfl rfl rfl

theorem calWrite_keeps {o : Nat} {v : Word} (h : Keeps s₀ s) :
    Keeps s₀ (calWrite s o v) := by
  unfold calWrite
  repeat' first
    | with_reducible assumption
    | intro _
    | with_reducible apply reqAllUnits_keeps
    | with_reducible apply keeps_ite
    | split
    | dsimp only
    | with_reducible refine keeps_mk ?_ rfl rfl rfl rfl

theorem encStruct_keeps {n : Fin 32} {ok : Bool} {f : Encoder → Encoder} (h : Keeps s₀ s) :
    Keeps s₀ (encStruct s n ok f) := by
  unfold encStruct
  repeat' first
    | with_reducible assumption
    | intro _
    | with_reducible apply updCh_keeps
    | with_reducible apply updEnc_keeps
    | with_reducible apply seqRej_keeps
    | with_reducible refine keeps_foldl ?_ ?_
    | with_reducible apply keeps_ite
    | split
    | dsimp only

theorem encWrite_keeps {n : Fin 32} {r : Nat} {v : Word} (h : Keeps s₀ s) :
    Keeps s₀ (encWrite s n r v) := by
  unfold encWrite
  repeat' first
    | with_reducible assumption
    | intro _
    | with_reducible apply encStruct_keeps
    | with_reducible apply keeps_ite
    | split
    | dsimp only

theorem timerWrite_keeps {t : Fin 64} {r : Nat} {v : Word} (h : Keeps s₀ s) :
    Keeps s₀ (timerWrite s t r v) := by
  unfold timerWrite
  repeat' first
    | with_reducible assumption
    | intro _
    | with_reducible apply updTimer_keeps
    | with_reducible apply tmrRej_keeps
    | with_reducible apply keeps_ite
    | split
    | dsimp only

theorem writeTrigCfg_keeps {n : Fin 16} {v : Word} (h : Keeps s₀ s) :
    Keeps s₀ (writeTrigCfg s n v) := by
  unfold writeTrigCfg
  repeat' first
    | with_reducible assumption
    | intro _
    | with_reducible apply updTrig_keeps
    | with_reducible apply seqRej_keeps
    | with_reducible apply keeps_ite
    | split
    | dsimp only

theorem seqWrite_keeps {o : Nat} {v : Word} (h : Keeps s₀ s) :
    Keeps s₀ (seqWrite s o v) := by
  unfold seqWrite
  repeat' first
    | with_reducible assumption
    | intro _
    | with_reducible apply updSeq_keeps
    | with_reducible apply tmrRej_keeps
    | with_reducible apply writeTrigCfg_keeps
    | with_reducible apply encWrite_keeps
    | with_reducible apply timerWrite_keeps
    | with_reducible apply regionEvent_keeps
    | with_reducible apply keeps_ite
    | split
    | dsimp only

theorem legacyRange_keeps {c : Fin 128} {v : Word} (h : Keeps s₀ s) :
    Keeps s₀ (legacyRange s c v) := by
  unfold legacyRange
  repeat' first
    | with_reducible assumption
    | intro _
    | with_reducible apply writeRange_keeps
    | with_reducible apply updRange_keeps
    | with_reducible apply keeps_ite
    | split
    | dsimp only

theorem legacyWrite_keeps {c : Fin 128} {r : Nat} {v : Word} (h : Keeps s₀ s) :
    Keeps s₀ (legacyWrite s c r v) := by
  unfold legacyWrite
  repeat' first
    | with_reducible assumption
    | intro _
    | with_reducible apply updCh_keeps
    | with_reducible apply legacyRange_keeps
    | with_reducible apply keeps_ite
    | split
    | dsimp only

theorem write32_keeps {m : Master} {a : Nat} {v : Word} (h : Keeps s₀ s) :
    Keeps s₀ (write32 s m a v) := by
  unfold write32
  repeat' first
    | with_reducible assumption
    | intro _
    | with_reducible apply chWrite_keeps
    | with_reducible apply writeSpareCmd_keeps
    | with_reducible apply updUnit_keeps
    | with_reducible apply cmbWrite_keeps
    | with_reducible apply legacyWrite_keeps
    | with_reducible apply modWrite_keeps
    | with_reducible apply tbWrite_keeps
    | with_reducible apply updPwr_keeps
    | with_reducible apply fltWrite_keeps
    | with_reducible apply mbxBlockWrite_keeps
    | with_reducible apply sqWrite_keeps
    | with_reducible apply capWrite_keeps
    | with_reducible apply jxWrite_keeps
    | with_reducible apply hstWrite_keeps
    | with_reducible apply bootWrite_keeps
    | with_reducible apply calWrite_keeps
    | with_reducible apply seqWrite_keeps
    | with_reducible apply keeps_ite
    | split
    | dsimp only

theorem putWindowWord_keeps {o : Nat} {v : Word} (h : Keeps s₀ s) :
    Keeps s₀ (putWindowWord s o v) := by
  unfold putWindowWord
  repeat' first
    | with_reducible assumption
    | intro _
    | with_reducible apply updSec_keeps
    | with_reducible apply keeps_ite
    | split
    | dsimp only

theorem bar2Write_keeps {o : Nat} {v : Word} (h : Keeps s₀ s) :
    Keeps s₀ (bar2Write s o v) := by
  unfold bar2Write
  repeat' first
    | with_reducible assumption
    | intro _
    | with_reducible apply updSec_keeps
    | with_reducible apply updMbx_keeps
    | with_reducible apply putWindowWord_keeps
    | with_reducible apply keeps_ite
    | split
    | dsimp only

theorem secWrite_keeps {o : Nat} {v : Word} (h : Keeps s₀ s) :
    Keeps s₀ (secWrite s o v) := by
  unfold secWrite
  repeat' first
    | with_reducible assumption
    | intro _
    | with_reducible apply updMbx_keeps
    | with_reducible apply putWindowWord_keeps
    | with_reducible apply keeps_ite
    | split
    | dsimp only

theorem windowWrite_keeps {m : Master} {o : Nat} {v : Word} (h : Keeps s₀ s) :
    Keeps s₀ (windowWrite s m o v) := by
  unfold windowWrite
  repeat' first
    | with_reducible assumption
    | intro _
    | with_reducible apply secWrite_keeps
    | with_reducible apply bar2Write_keeps
    | with_reducible apply keeps_ite
    | split
    | dsimp only

theorem commitHi_keeps {m : Master} {a : Nat} {v : Word} (h : Keeps s₀ s) :
    Keeps s₀ (commitHi s m a v) := by
  unfold commitHi
  repeat' first
    | with_reducible assumption
    | intro _
    | with_reducible apply commit64_keeps
    | with_reducible apply keeps_ite
    | split
    | dsimp only

theorem busWriteBase_keeps {m : Master} {a : Nat} {v : Word} (h : Keeps s₀ s) :
    Keeps s₀ (busWriteBase s m a v) := by
  unfold busWriteBase
  repeat' first
    | with_reducible assumption
    | intro _
    | with_reducible apply windowWrite_keeps
    | with_reducible apply stageWord_keeps
    | with_reducible apply commitHi_keeps
    | with_reducible apply write32_keeps
    | with_reducible apply keeps_ite
    | split
    | dsimp only

theorem agentRead_keeps {x n : Nat} (h : Keeps s₀ s) : Keeps s₀ (agentRead s x n).2.2.2 := by
  unfold agentRead
  split
  · exact h
  · dsimp only
    split
    · exact busRead_keeps (busRead_keeps h)
    · exact busRead_keeps h

theorem agentWrite_keeps {x n : Nat} {v w : Word} (h : Keeps s₀ s) :
    Keeps s₀ (agentWrite s x n v w).2 := by
  unfold agentWrite
  split
  · exact h
  · exact keeps_ite (busWriteBase_keeps (busWriteBase_keeps h)) (busWriteBase_keeps h)

theorem raEnd_keeps {m : Fin 2} {st : RaStatus} (h : Keeps s₀ s) :
    Keeps s₀ (raEnd s m st) := by
  unfold raEnd
  repeat' first
    | with_reducible assumption
    | intro _
    | with_reducible apply updRa_keeps
    | with_reducible apply keeps_ite
    | split
    | dsimp only

theorem raWords_keeps {m : Fin 2} {st : RaStatus} {n : Nat} {w0 w1 : Word} (h : Keeps s₀ s) :
    Keeps s₀ (raWords s m st n w0 w1) := by
  unfold raWords
  repeat' first
    | with_reducible assumption
    | intro _
    | with_reducible apply updRa_keeps
    | with_reducible apply raEnd_keeps
    | with_reducible apply keeps_ite
    | split
    | dsimp only

theorem raSend_keeps {m : Fin 2} {two : Bool} {type id n : Nat} {payload : List Byte} (h : Keeps s₀ s) :
    Keeps s₀ (raSend s m two type id n payload) := by
  unfold raSend
  repeat' first
    | with_reducible assumption
    | intro _
    | with_reducible apply updRa_keeps
    | with_reducible apply sendNew_keeps
    | with_reducible apply updJx_keeps
    | with_reducible apply keeps_ite
    | split
    | dsimp only

theorem issueRead_keeps {m : Fin 2} {two : Bool} (h : Keeps s₀ s) : Keeps s₀ (issueRead s m two) :=
  keeps_ite (updRa_keeps h) (keeps_ite (raEnd_keeps h)
    (keeps_ite (raWords_keeps (agentRead_keeps h)) (raSend_keeps h)))

theorem issueWrite_keeps {m : Fin 2} {two : Bool} (h : Keeps s₀ s) : Keeps s₀ (issueWrite s m two) :=
  keeps_ite (updRa_keeps h) (keeps_ite (raEnd_keeps (agentWrite_keeps h)) (raSend_keeps h))

theorem writeRaCmd_keeps {m : Fin 2} {v : Word} (h : Keeps s₀ s) :
    Keeps s₀ (writeRaCmd s m v) := by
  unfold writeRaCmd
  repeat' first
    | with_reducible assumption
    | intro _
    | with_reducible apply updRa_keeps
    | with_reducible apply issueRead_keeps
    | with_reducible apply issueWrite_keeps
    | with_reducible apply keeps_ite
    | split
    | dsimp only

theorem rdReqUse_keeps {f : Frame} (h : Keeps s₀ s) : Keeps s₀ (rdReqUse s f) :=
  keeps_ite h (sendReply_keeps (agentRead_keeps h))

theorem reqBack_keeps {f : Frame} (h : Keeps s₀ s) :
    Keeps s₀ (reqBack s f) := by
  unfold reqBack
  repeat' first
    | with_reducible assumption
    | intro _
    | with_reducible apply raEnd_keeps
    | with_reducible apply keeps_ite
    | split
    | dsimp only

theorem takeRdReq_keeps {f : Frame} (h : Keeps s₀ s) : Keeps s₀ (takeRdReq s f) :=
  receive_keeps h (fun _ _ => reqBack_keeps) fun _ _ => rdReqUse_keeps

theorem wrReqUse_keeps {f : Frame} (h : Keeps s₀ s) : Keeps s₀ (wrReqUse s f) :=
  keeps_ite (agentWrite_keeps h) (sendReply_keeps (agentWrite_keeps h))

theorem wrReqBack_keeps {f : Frame} (h : Keeps s₀ s) : Keeps s₀ (wrReqBack s f) := by
  unfold wrReqBack
  split
  · split
    rename_i e
    have ht := keeps_snd (agentWrite_keeps h) e
    split
    · exact raEnd_keeps ht
    · exact ht
  · exact reqBack_keeps h

theorem takeWrReq_keeps {f : Frame} (h : Keeps s₀ s) : Keeps s₀ (takeWrReq s f) :=
  receive_keeps h (fun _ _ => wrReqBack_keeps) fun _ _ => wrReqUse_keeps

theorem rdRspUse_keeps {f : Frame} (h : Keeps s₀ s) :
    Keeps s₀ (rdRspUse s f) := by
  unfold rdRspUse
  repeat' first
    | with_reducible assumption
    | intro _
    | with_reducible apply updRa_keeps
    | with_reducible apply keeps_ite
    | split
    | dsimp only

theorem takeRdRsp_keeps {f : Frame} (h : Keeps s₀ s) : Keeps s₀ (takeRdRsp s f) :=
  receive_keeps h (fun _ _ => dropOwn_keeps) fun _ _ => rdRspUse_keeps

theorem wrRspUse_keeps {f : Frame} (h : Keeps s₀ s) :
    Keeps s₀ (wrRspUse s f) := by
  unfold wrRspUse
  repeat' first
    | with_reducible assumption
    | intro _
    | with_reducible apply updRa_keeps
    | with_reducible apply keeps_ite
    | split
    | dsimp only

theorem takeWrRsp_keeps {f : Frame} (h : Keeps s₀ s) : Keeps s₀ (takeWrRsp s f) :=
  receive_keeps h (fun _ _ => dropOwn_keeps) fun _ _ => wrRspUse_keeps

theorem arrive_keeps {residence : Nat}  {f : Frame} (h : Keeps s₀ s) :
    Keeps s₀ (arrive residence s f) := by
  unfold arrive
  repeat' first
    | with_reducible assumption
    | intro _
    | with_reducible apply takeRdReq_keeps
    | with_reducible apply takeRdRsp_keeps
    | with_reducible apply takeWrReq_keeps
    | with_reducible apply takeWrRsp_keeps
    | with_reducible apply takeEvent_keeps
    | with_reducible apply takeFault6_keeps
    | with_reducible apply takeTime_keeps
    | with_reducible apply takeEnum_keeps
    | with_reducible apply takeBlock_keeps
    | with_reducible apply takeQitems_keeps
    | with_reducible apply transit_keeps
    | with_reducible apply keeps_ite
    | split
    | dsimp only

theorem writeLo_keeps {m : Master} {a : Nat} {be : BitVec 4} {v : Word} (h : Keeps s₀ s) :
    Keeps s₀ (writeLo s m a be v) := by
  unfold writeLo
  repeat' first
    | with_reducible assumption
    | intro _
    | with_reducible apply stageWord_keeps
    | with_reducible apply keeps_ite
    | split
    | dsimp only

theorem writeHi_keeps {m : Master} {a : Nat} {be : BitVec 4} {v : Word} (h : Keeps s₀ s) :
    Keeps s₀ (writeHi s m a be v) := by
  unfold writeHi
  repeat' first
    | with_reducible assumption
    | intro _
    | with_reducible apply commitHi_keeps
    | with_reducible apply keeps_ite
    | split
    | dsimp only

theorem writeOther_keeps {m : Master} {a : Nat} {be : BitVec 4} {v : Word} (h : Keeps s₀ s) :
    Keeps s₀ (writeOther s m a be v) := by
  unfold writeOther
  repeat' first
    | with_reducible assumption
    | intro _
    | with_reducible apply windowWrite_keeps
    | with_reducible apply writeRaCmd_keeps
    | with_reducible apply write32_keeps
    | with_reducible apply keeps_ite
    | split
    | dsimp only

theorem tapInstruction_keeps {ir : TapIr} (h : Keeps s₀ s) :
    Keeps s₀ (tapInstruction s ir) := by
  unfold tapInstruction
  repeat' first
    | with_reducible assumption
    | intro _
    | with_reducible apply updPins_keeps
    | with_reducible apply keeps_ite
    | split
    | dsimp only
    | rfl

end Sys2Proof.Machine
end

