-- ==== Sys2Proof/Laws/KeepsCommands.lean ====
section
/-!
SUPPORT. What the operations of the commands keep: each takes a state that Keeps relates to `s₀` to another.
-/

namespace Sys2Proof.Machine

variable {s₀ s : State}

theorem execPorstNAssert_keeps {t : State} (e : execPorstNAssert s = .next t) :
    Keeps s t := by
  unfold execPorstNAssert at e
  injection e with e
  subst e
  repeat' first
    | with_reducible exact Keeps.refl
    | intro _
    | with_reducible apply porstAssert_keeps
    | with_reducible apply keeps_ite
    | split
    | dsimp only

theorem execPowerGood_keeps {t : State} {x : PowerUp} (e : execPowerGood x s = .next t) :
    Keeps s t := by
  unfold execPowerGood at e
  injection e with e
  subst e
  repeat' first
    | with_reducible exact Keeps.refl
    | intro _
    | with_reducible apply powerGood_keeps
    | with_reducible apply keeps_ite
    | split
    | dsimp only

theorem execSupplyOutOfLimits_keeps {t : State} {rail : Fin 7} (e : execSupplyOutOfLimits rail s = .next t) :
    Keeps s t := by
  unfold execSupplyOutOfLimits at e
  injection e with e
  subst e
  repeat' first
    | with_reducible exact Keeps.refl
    | intro _
    | with_reducible apply supplyOut_keeps
    | with_reducible apply keeps_ite
    | split
    | dsimp only

theorem execSupplyWindowViolation_keeps {t : State} {rail : Fin 7} {above : Bool} (e : execSupplyWindowViolation rail above s = .next t) :
    Keeps s t := by
  unfold execSupplyWindowViolation at e
  injection e with e
  subst e
  repeat' first
    | with_reducible exact Keeps.refl
    | intro _
    | with_reducible apply railViolation_keeps
    | with_reducible apply keeps_ite
    | split
    | dsimp only

theorem execSupplyWindowRestored_keeps {t : State} {rail : Fin 7} (e : execSupplyWindowRestored rail s = .next t) :
    Keeps s t := by
  unfold execSupplyWindowRestored at e
  injection e with e
  subst e
  repeat' first
    | with_reducible exact Keeps.refl
    | intro _
    | with_reducible apply railRestored_keeps
    | with_reducible apply keeps_ite
    | split
    | dsimp only

theorem execOpenPowerCycle_keeps {t : State} (e : execOpenPowerCycle s = .next t) :
    Keeps s t := by
  unfold execOpenPowerCycle at e
  injection e with e
  subst e
  repeat' first
    | with_reducible exact Keeps.refl
    | intro _
    | with_reducible apply powerCycle_keeps
    | with_reducible apply keeps_ite
    | split
    | dsimp only

theorem execEstopNFall_keeps {t : State} (e : execEstopNFall s = .next t) :
    Keeps s t := by
  unfold execEstopNFall at e
  injection e with e
  subst e
  repeat' first
    | with_reducible exact Keeps.refl
    | intro _
    | with_reducible apply estopFall_keeps
    | with_reducible apply keeps_ite
    | split
    | dsimp only

theorem execEstopNRise_keeps {t : State} (e : execEstopNRise s = .next t) :
    Keeps s t := by
  unfold execEstopNRise at e
  injection e with e
  subst e
  repeat' first
    | with_reducible exact Keeps.refl
    | intro _
    | with_reducible apply estopRise_keeps
    | with_reducible apply keeps_ite
    | split
    | dsimp only

theorem perstChange_keeps {high : Bool} (h : Keeps s₀ s) :
    Keeps s₀ (perstChange s high) := by
  unfold perstChange
  repeat' first
    | with_reducible assumption
    | intro _
    | with_reducible apply updPins_keeps
    | with_reducible apply updHst_keeps
    | with_reducible apply linkReset_keeps
    | with_reducible apply keeps_ite
    | split
    | dsimp only
    | rfl

theorem execPePerstNChange_keeps {t : State} {high : Bool} (e : execPePerstNChange high s = .next t) :
    Keeps s t := by
  unfold execPePerstNChange at e
  injection e with e
  subst e
  repeat' first
    | with_reducible exact Keeps.refl
    | intro _
    | with_reducible apply perstChange_keeps
    | with_reducible apply keeps_ite
    | split
    | dsimp only

theorem linkUp_keeps {rate width : Nat} (h : Keeps s₀ s) :
    Keeps s₀ (linkUp s rate width) := by
  unfold linkUp
  repeat' first
    | with_reducible assumption
    | intro _
    | with_reducible apply send_keeps
    | with_reducible apply updHst_keeps
    | with_reducible apply keeps_ite
    | split
    | dsimp only

theorem execPcieLinkUp_keeps {t : State} {rate width : Nat} (e : execPcieLinkUp rate width s = .next t) :
    Keeps s t := by
  unfold execPcieLinkUp at e
  injection e with e
  subst e
  repeat' first
    | with_reducible exact Keeps.refl
    | intro _
    | with_reducible apply linkUp_keeps
    | with_reducible apply keeps_ite
    | split
    | dsimp only

theorem execFlr_keeps {t : State} (e : execFlr s = .next t) :
    Keeps s t := by
  unfold execFlr at e
  injection e with e
  subst e
  repeat' first
    | with_reducible exact Keeps.refl
    | intro _
    | with_reducible apply linkReset_keeps
    | with_reducible apply keeps_ite
    | split
    | dsimp only

theorem execD3hot_keeps {t : State} {enter : Bool} (e : execD3hot enter s = .next t) :
    Keeps s t := by
  unfold execD3hot at e
  injection e with e
  subst e
  repeat' first
    | with_reducible exact Keeps.refl
    | intro _
    | with_reducible apply updHst_keeps
    | with_reducible apply keeps_ite
    | split
    | dsimp only

theorem execTempSample_keeps {t : State} {temps : Vector Rat 22} (e : execTempSample temps s = .next t) :
    Keeps s t := by
  unfold execTempSample at e
  injection e with e
  subst e
  repeat' first
    | with_reducible exact Keeps.refl
    | intro _
    | with_reducible apply takeTemps_keeps
    | with_reducible apply keeps_ite
    | split
    | dsimp only

theorem execSentinelReport_keeps {t : State} {reports : Vector Rat 16} (e : execSentinelReport reports s = .next t) :
    Keeps s t := by
  unfold execSentinelReport at e
  injection e with e
  subst e
  repeat' first
    | with_reducible exact Keeps.refl
    | intro _
    | with_reducible apply takeReports_keeps
    | with_reducible apply keeps_ite
    | split
    | dsimp only

theorem execVcoreStepDown_keeps {t : State} (e : execVcoreStepDown s = .next t) :
    Keeps s t := by
  unfold execVcoreStepDown at e
  injection e with e
  subst e
  repeat' first
    | with_reducible exact Keeps.refl
    | intro _
    | with_reducible apply stepDown_keeps
    | with_reducible apply keeps_ite
    | split
    | dsimp only

theorem execVcoreSenseConfirm_keeps {t : State} (e : execVcoreSenseConfirm s = .next t) :
    Keeps s t := by
  unfold execVcoreSenseConfirm at e
  injection e with e
  subst e
  repeat' first
    | with_reducible exact Keeps.refl
    | intro _
    | with_reducible apply confirmVcore_keeps
    | with_reducible apply keeps_ite
    | split
    | dsimp only

theorem execVcoreMismatch_keeps {t : State} {above : Bool} (e : execVcoreMismatch above s = .next t) :
    Keeps s t := by
  unfold execVcoreMismatch at e
  injection e with e
  subst e
  repeat' first
    | with_reducible exact Keeps.refl
    | intro _
    | with_reducible apply railViolation_keeps
    | with_reducible apply keeps_ite
    | split
    | dsimp only

theorem execVcoreSenseRestored_keeps {t : State} (e : execVcoreSenseRestored s = .next t) :
    Keeps s t := by
  unfold execVcoreSenseRestored at e
  injection e with e
  subst e
  repeat' first
    | with_reducible exact Keeps.refl
    | intro _
    | with_reducible apply railRestored_keeps
    | with_reducible apply keeps_ite
    | split
    | dsimp only

theorem execTbLdgVminWrite_keeps {t : State} {v : Word} (e : execTbLdgVminWrite v s = .next t) :
    Keeps s t := by
  unfold execTbLdgVminWrite at e
  injection e with e
  subst e
  repeat' first
    | with_reducible exact Keeps.refl
    | intro _
    | with_reducible apply writeVmin_keeps
    | with_reducible apply keeps_ite
    | split
    | dsimp only

theorem causewayEvent_keeps {die : Fin 2} {retrain : Bool} (h : Keeps s₀ s) :
    Keeps s₀ (causewayEvent s die retrain) := by
  unfold causewayEvent
  repeat' first
    | with_reducible assumption
    | intro _
    | with_reducible apply send_keeps
    | with_reducible apply keeps_ite
    | split
    | dsimp only

theorem execCausewayCrc_keeps {t : State} {die : Fin 2} {retrain : Bool} (e : execCausewayCrc die retrain s = .next t) :
    Keeps s t := by
  unfold execCausewayCrc at e
  injection e with e
  subst e
  repeat' first
    | with_reducible exact Keeps.refl
    | intro _
    | with_reducible apply causewayEvent_keeps
    | with_reducible apply keeps_ite
    | split
    | dsimp only

theorem execBootStepComplete_keeps {t : State} {r : BootReport} (e : execBootStepComplete r s = .next t) :
    Keeps s t := by
  unfold execBootStepComplete at e
  injection e with e
  subst e
  repeat' first
    | with_reducible exact Keeps.refl
    | intro _
    | with_reducible apply bootStep_keeps
    | with_reducible apply keeps_ite
    | split
    | dsimp only

theorem execLoaderStall_keeps {t : State} (e : execLoaderStall s = .next t) :
    Keeps s t := by
  unfold execLoaderStall at e
  injection e with e
  subst e
  repeat' first
    | with_reducible exact Keeps.refl
    | intro _
    | with_reducible apply bootFailFree_keeps
    | with_reducible apply keeps_ite
    | split
    | dsimp only

theorem execRefSettled_keeps {t : State} (e : execRefSettled s = .next t) :
    Keeps s t := by
  unfold execRefSettled at e
  injection e with e
  subst e
  repeat' first
    | with_reducible exact Keeps.refl
    | intro _
    | with_reducible apply updMod_keeps
    | with_reducible apply keeps_ite
    | split
    | dsimp only

theorem execReady_keeps {t : State} (e : execReady s = .next t) :
    Keeps s t := by
  unfold execReady at e
  injection e with e
  subst e
  repeat' first
    | with_reducible exact Keeps.refl
    | intro _
    | with_reducible apply cmdReady_keeps
    | with_reducible apply keeps_ite
    | split
    | dsimp only

theorem execReadyComplete_keeps {t : State} (e : execReadyComplete s = .next t) :
    Keeps s t := by
  unfold execReadyComplete at e
  injection e with e
  subst e
  repeat' first
    | with_reducible exact Keeps.refl
    | intro _
    | with_reducible apply readyComplete_keeps
    | with_reducible apply keeps_ite
    | split
    | dsimp only

theorem execRun_keeps {t : State} (e : execRun s = .next t) :
    Keeps s t := by
  unfold execRun at e
  injection e with e
  subst e
  repeat' first
    | with_reducible exact Keeps.refl
    | intro _
    | with_reducible apply cmdRun_keeps
    | with_reducible apply keeps_ite
    | split
    | dsimp only

theorem execHold_keeps {t : State} (e : execHold s = .next t) :
    Keeps s t := by
  unfold execHold at e
  injection e with e
  subst e
  repeat' first
    | with_reducible exact Keeps.refl
    | intro _
    | with_reducible apply cmdHold_keeps
    | with_reducible apply keeps_ite
    | split
    | dsimp only

theorem execSafe_keeps {t : State} (e : execSafe s = .next t) :
    Keeps s t := by
  unfold execSafe at e
  injection e with e
  subst e
  repeat' first
    | with_reducible exact Keeps.refl
    | intro _
    | with_reducible apply cmdSafe_keeps
    | with_reducible apply keeps_ite
    | split
    | dsimp only

theorem execRecover_keeps {t : State} (e : execRecover s = .next t) :
    Keeps s t := by
  unfold execRecover at e
  injection e with e
  subst e
  repeat' first
    | with_reducible exact Keeps.refl
    | intro _
    | with_reducible apply cmdRecover_keeps
    | with_reducible apply keeps_ite
    | split
    | dsimp only

theorem execFrameBoundary_keeps {t : State} {f : FrameInputs} (e : execFrameBoundary f s = .next t) :
    Keeps s t := by
  unfold execFrameBoundary at e
  injection e with e
  subst e
  repeat' first
    | with_reducible exact Keeps.refl
    | intro _
    | with_reducible apply frameBoundary_keeps
    | with_reducible apply keeps_ite
    | split
    | dsimp only

theorem execDeadlineMiss_keeps {t : State} {a : Account} (e : execDeadlineMiss a s = .next t) :
    Keeps s t := by
  unfold execDeadlineMiss at e
  injection e with e
  subst e
  repeat' first
    | with_reducible exact Keeps.refl
    | intro _
    | with_reducible apply deadlineMiss_keeps
    | with_reducible apply keeps_ite
    | split
    | dsimp only

theorem execTbFrameWrite_keeps {t : State} {v : Word} (e : execTbFrameWrite v s = .next t) :
    Keeps s t := by
  unfold execTbFrameWrite at e
  injection e with e
  subst e
  repeat' first
    | with_reducible exact Keeps.refl
    | intro _
    | with_reducible apply writeFrame_keeps
    | with_reducible apply keeps_ite
    | split
    | dsimp only

theorem execWaggleStart_keeps {t : State} (e : execWaggleStart s = .next t) :
    Keeps s t := by
  unfold execWaggleStart at e
  injection e with e
  subst e
  repeat' first
    | with_reducible exact Keeps.refl
    | intro _
    | with_reducible apply waggleStart_keeps
    | with_reducible apply keeps_ite
    | split
    | dsimp only

theorem execWaggleResume_keeps {t : State} (e : execWaggleResume s = .next t) :
    Keeps s t := by
  unfold execWaggleResume at e
  injection e with e
  subst e
  repeat' first
    | with_reducible exact Keeps.refl
    | intro _
    | with_reducible apply waggleResume_keeps
    | with_reducible apply keeps_ite
    | split
    | dsimp only

theorem execWaggleToggle_keeps {t : State} (e : execWaggleToggle s = .next t) :
    Keeps s t := by
  unfold execWaggleToggle at e
  injection e with e
  subst e
  repeat' first
    | with_reducible exact Keeps.refl
    | intro _
    | with_reducible apply waggleToggle_keeps
    | with_reducible apply keeps_ite
    | split
    | dsimp only

theorem execStart_keeps {t : State} {ch : Fin 128} (e : execStart ch s = .next t) :
    Keeps s t := by
  unfold execStart at e
  injection e with e
  subst e
  repeat' first
    | with_reducible exact Keeps.refl
    | intro _
    | with_reducible apply startCh_keeps
    | with_reducible apply keeps_ite
    | split
    | dsimp only

theorem execStartComplete_keeps {t : State} {ch : Fin 128} (e : execStartComplete ch s = .next t) :
    Keeps s t := by
  unfold execStartComplete at e
  injection e with e
  subst e
  repeat' first
    | with_reducible exact Keeps.refl
    | intro _
    | with_reducible apply updCh_keeps
    | with_reducible apply keeps_ite
    | split
    | dsimp only

theorem execStop_keeps {t : State} {ch : Fin 128} (e : execStop ch s = .next t) :
    Keeps s t := by
  unfold execStop at e
  injection e with e
  subst e
  repeat' first
    | with_reducible exact Keeps.refl
    | intro _
    | with_reducible apply stopCommand_keeps
    | with_reducible apply keeps_ite
    | split
    | dsimp only

theorem execStopArrive_keeps {t : State} {ch : Fin 128} (e : execStopArrive ch s = .next t) :
    Keeps s t := by
  unfold execStopArrive at e
  injection e with e
  subst e
  repeat' first
    | with_reducible exact Keeps.refl
    | intro _
    | with_reducible apply completeSafe_keeps
    | with_reducible apply reachStopped_keeps
    | with_reducible apply keeps_ite
    | split
    | dsimp only

theorem execRampZeroTimeout_keeps {t : State} {ch : Fin 128} (e : execRampZeroTimeout ch s = .next t) :
    Keeps s t := by
  unfold execRampZeroTimeout at e
  injection e with e
  subst e
  repeat' first
    | with_reducible exact Keeps.refl
    | intro _
    | with_reducible apply updCh_keeps
    | with_reducible apply reachTick_keeps
    | with_reducible apply keeps_ite
    | split
    | dsimp only

theorem execChRangeWrite_keeps {t : State} {ch : Fin 128} {v : Word} (e : execChRangeWrite ch v s = .next t) :
    Keeps s t := by
  unfold execChRangeWrite at e
  injection e with e
  subst e
  repeat' first
    | with_reducible exact Keeps.refl
    | intro _
    | with_reducible apply writeRange_keeps
    | with_reducible apply keeps_ite
    | split
    | dsimp only

theorem execIrangeSequenceEnd_keeps {t : State} {ch : Fin 128} (e : execIrangeSequenceEnd ch s = .next t) :
    Keeps s t := by
  unfold execIrangeSequenceEnd at e
  injection e with e
  subst e
  repeat' first
    | with_reducible exact Keeps.refl
    | intro _
    | with_reducible apply updCh_keeps
    | with_reducible apply keeps_ite
    | split
    | dsimp only

theorem execVrangeHoldEnd_keeps {t : State} {ch : Fin 128} (e : execVrangeHoldEnd ch s = .next t) :
    Keeps s t := by
  unfold execVrangeHoldEnd at e
  injection e with e
  subst e
  repeat' first
    | with_reducible exact Keeps.refl
    | intro _
    | with_reducible apply updCh_keeps
    | with_reducible apply keeps_ite
    | split
    | dsimp only

theorem execAutorangeDown_keeps {t : State} {ch : Fin 128} (e : execAutorangeDown ch s = .next t) :
    Keeps s t := by
  unfold execAutorangeDown at e
  injection e with e
  subst e
  repeat' first
    | with_reducible exact Keeps.refl
    | intro _
    | with_reducible apply updCh_keeps
    | with_reducible apply keeps_ite
    | split
    | dsimp only

theorem raiseDetect_keeps {c : Fin 128} {kind : Nat} {normal : Bool} (h : Keeps s₀ s) :
    Keeps s₀ (raiseDetect s c kind normal) := by
  unfold raiseDetect
  repeat' first
    | with_reducible assumption
    | intro _
    | with_reducible apply raiseState_keeps
    | with_reducible apply keeps_ite
    | split
    | dsimp only

theorem execOvercurrentTrip_keeps {t : State} {x : Trip} (e : execOvercurrentTrip x s = .next t) :
    Keeps s t := by
  unfold execOvercurrentTrip at e
  injection e with e
  subst e
  repeat' first
    | with_reducible exact Keeps.refl
    | intro _
    | with_reducible apply raiseDetect_keeps
    | with_reducible apply updCh_keeps
    | with_reducible apply keeps_ite
    | split
    | dsimp only

theorem execOvervoltageTrip_keeps {t : State} {x : Trip} (e : execOvervoltageTrip x s = .next t) :
    Keeps s t := by
  unfold execOvervoltageTrip at e
  injection e with e
  subst e
  repeat' first
    | with_reducible exact Keeps.refl
    | intro _
    | with_reducible apply raiseDetect_keeps
    | with_reducible apply keeps_ite
    | split
    | dsimp only

theorem execClampActive_keeps {t : State} {ch : Fin 128} (e : execClampActive ch s = .next t) :
    Keeps s t := by
  unfold execClampActive at e
  injection e with e
  subst e
  repeat' first
    | with_reducible exact Keeps.refl
    | intro _
    | with_reducible apply raiseUnit_keeps
    | with_reducible apply keeps_ite
    | split
    | dsimp only

theorem execRangeSwitch_keeps {t : State} {x : Server} {code : Fin 16} {current : Bool} (e : execRangeSwitch x code current s = .next t) :
    Keeps s t := by
  unfold execRangeSwitch at e
  injection e with e
  subst e
  repeat' first
    | with_reducible exact Keeps.refl
    | intro _
    | with_reducible apply send_keeps
    | with_reducible apply keeps_ite
    | split
    | dsimp only

theorem execLeadDrop_keeps {t : State} {ch : Fin 128} (e : execLeadDrop ch s = .next t) :
    Keeps s t := by
  unfold execLeadDrop at e
  injection e with e
  subst e
  repeat' first
    | with_reducible exact Keeps.refl
    | intro _
    | with_reducible apply raiseUnit_keeps
    | with_reducible apply keeps_ite
    | split
    | dsimp only

theorem execCslWindowFault_keeps {t : State} {comb : Fin 16} (e : execCslWindowFault comb s = .next t) :
    Keeps s t := by
  unfold execCslWindowFault at e
  injection e with e
  subst e
  repeat' first
    | with_reducible exact Keeps.refl
    | intro _
    | with_reducible apply raiseState_keeps
    | with_reducible apply keeps_ite
    | split
    | dsimp only

theorem execOpenLoad_keeps {t : State} {ch : Fin 128} (e : execOpenLoad ch s = .next t) :
    Keeps s t := by
  unfold execOpenLoad at e
  injection e with e
  subst e
  repeat' first
    | with_reducible exact Keeps.refl
    | intro _
    | with_reducible apply sendUnit_keeps
    | with_reducible apply updMs_keeps
    | with_reducible apply keeps_ite
    | split
    | dsimp only

theorem execMonitorDisagree_keeps {t : State} {ch : Fin 128} (e : execMonitorDisagree ch s = .next t) :
    Keeps s t := by
  unfold execMonitorDisagree at e
  injection e with e
  subst e
  repeat' first
    | with_reducible exact Keeps.refl
    | intro _
    | with_reducible apply sendUnit_keeps
    | with_reducible apply updMs_keeps
    | with_reducible apply keeps_ite
    | split
    | dsimp only

theorem execModelResidual_keeps {t : State} {ch : Fin 128} (e : execModelResidual ch s = .next t) :
    Keeps s t := by
  unfold execModelResidual at e
  injection e with e
  subst e
  repeat' first
    | with_reducible exact Keeps.refl
    | intro _
    | with_reducible apply raiseUnit_keeps
    | with_reducible apply keeps_ite
    | split
    | dsimp only

theorem execFeedbackFrozen_keeps {t : State} {ch : Fin 128} (e : execFeedbackFrozen ch s = .next t) :
    Keeps s t := by
  unfold execFeedbackFrozen at e
  injection e with e
  subst e
  repeat' first
    | with_reducible exact Keeps.refl
    | intro _
    | with_reducible apply raiseUnit_keeps
    | with_reducible apply keeps_ite
    | split
    | dsimp only

theorem execBudgetThermal_keeps {t : State} {die : Fin 2} (e : execBudgetThermal die s = .next t) :
    Keeps s t := by
  unfold execBudgetThermal at e
  injection e with e
  subst e
  repeat' first
    | with_reducible exact Keeps.refl
    | intro _
    | with_reducible apply raiseState_keeps
    | with_reducible apply updPwr_keeps
    | with_reducible apply keeps_ite
    | split
    | dsimp only

theorem execPgTargetWrite_keeps {t : State} {ch : Fin 128} {v : DWord} (e : execPgTargetWrite ch v s = .next t) :
    Keeps s t := by
  unfold execPgTargetWrite at e
  injection e with e
  subst e
  repeat' first
    | with_reducible exact Keeps.refl
    | intro _
    | with_reducible apply writeTarget_keeps
    | with_reducible apply keeps_ite
    | split
    | dsimp only

theorem execChCompWrite_keeps {t : State} {ch : Fin 128} {hi : Bool} {v : DWord} (e : execChCompWrite ch hi v s = .next t) :
    Keeps s t := by
  unfold execChCompWrite at e
  injection e with e
  subst e
  repeat' first
    | with_reducible exact Keeps.refl
    | intro _
    | with_reducible apply writeComp_keeps
    | with_reducible apply keeps_ite
    | split
    | dsimp only

theorem execLpBankSelWrite_keeps {t : State} {ch : Fin 128} {sel : Bool} (e : execLpBankSelWrite ch sel s = .next t) :
    Keeps s t := by
  unfold execLpBankSelWrite at e
  injection e with e
  subst e
  repeat' first
    | with_reducible exact Keeps.refl
    | intro _
    | with_reducible apply updEng_keeps
    | with_reducible apply keeps_ite
    | split
    | dsimp only

theorem execCoefWrite_keeps {t : State} {ch : Fin 128} {bankB : Bool} {offset : Nat} {v : DWord} (e : execCoefWrite ch bankB offset v s = .next t) :
    Keeps s t := by
  unfold execCoefWrite at e
  injection e with e
  subst e
  repeat' first
    | with_reducible exact Keeps.refl
    | intro _
    | with_reducible apply updCh_keeps
    | with_reducible apply keeps_ite
    | split
    | dsimp only

theorem execDeglitchHoldEnd_keeps {t : State} {ch : Fin 128} (e : execDeglitchHoldEnd ch s = .next t) :
    Keeps s t := by
  unfold execDeglitchHoldEnd at e
  injection e with e
  subst e
  repeat' first
    | with_reducible exact Keeps.refl
    | intro _
    | with_reducible apply updCh_keeps
    | with_reducible apply keeps_ite
    | split
    | dsimp only

theorem execEncQuadEdge_keeps {t : State} {enc : Fin 32} {e : QuadEdge} (e : execEncQuadEdge enc e s = .next t) :
    Keeps s t := by
  unfold execEncQuadEdge at e
  injection e with e
  subst e
  repeat' first
    | with_reducible exact Keeps.refl
    | intro _
    | with_reducible apply updEnc_keeps
    | with_reducible apply keeps_ite
    | split
    | dsimp only

theorem execEncIndexEdge_keeps {t : State} {enc : Fin 32} (e : execEncIndexEdge enc s = .next t) :
    Keeps s t := by
  unfold execEncIndexEdge at e
  injection e with e
  subst e
  repeat' first
    | with_reducible exact Keeps.refl
    | intro _
    | with_reducible apply updEnc_keeps
    | with_reducible apply keeps_ite
    | split
    | dsimp only

theorem execSsiWordDone_keeps {t : State} {enc : Fin 32} {started : Bool} {bits check : Nat} (e : execSsiWordDone enc started bits check s = .next t) :
    Keeps s t := by
  unfold execSsiWordDone at e
  injection e with e
  subst e
  repeat' first
    | with_reducible exact Keeps.refl
    | intro _
    | with_reducible apply updEnc_keeps
    | with_reducible apply keeps_ite
    | split
    | dsimp only

theorem execSsiErrorRun_keeps {t : State} {enc : Fin 32} (e : execSsiErrorRun enc s = .next t) :
    Keeps s t := by
  unfold execSsiErrorRun at e
  injection e with e
  subst e
  repeat' first
    | with_reducible exact Keeps.refl
    | intro _
    | with_reducible apply ssiErrors_keeps
    | with_reducible apply keeps_ite
    | split
    | dsimp only

theorem hrAperture_keeps {c : Fin 128} {a : Aperture} (h : Keeps s₀ s) :
    Keeps s₀ (hrAperture s c a) := by
  unfold hrAperture
  repeat' first
    | with_reducible assumption
    | intro _
    | with_reducible apply updMs_keeps
    | with_reducible apply reachTick_keeps
    | with_reducible apply addSample_keeps
    | with_reducible refine keeps_foldl ?_ ?_
    | with_reducible apply keeps_ite
    | split
    | dsimp only

theorem execHrApertureEnd_keeps {t : State} {ch : Fin 128} {a : Aperture} (e : execHrApertureEnd ch a s = .next t) :
    Keeps s t := by
  unfold execHrApertureEnd at e
  injection e with e
  subst e
  repeat' first
    | with_reducible exact Keeps.refl
    | intro _
    | with_reducible apply hrAperture_keeps
    | with_reducible apply keeps_ite
    | split
    | dsimp only

theorem takeMessages_keeps {ms : List Msg} (h : Keeps s₀ s) :
    Keeps s₀ (takeMessages s ms) := by
  unfold takeMessages
  repeat' first
    | with_reducible assumption
    | intro _
    | with_reducible apply present_keeps
    | with_reducible apply keeps_ite
    | split
    | dsimp only

theorem execFaultOnset_keeps {t : State} {msgs : List Msg} (e : execFaultOnset msgs s = .next t) :
    Keeps s t := by
  unfold execFaultOnset at e
  injection e with e
  subst e
  repeat' first
    | with_reducible exact Keeps.refl
    | intro _
    | with_reducible apply takeMessages_keeps
    | with_reducible apply keeps_ite
    | split
    | dsimp only

theorem execFaultEnd_keeps {t : State} {kind source : Nat} (e : execFaultEnd kind source s = .next t) :
    Keeps s t := by
  unfold execFaultEnd at e
  injection e with e
  subst e
  repeat' first
    | with_reducible exact Keeps.refl
    | intro _
    | with_reducible apply takeMessages_keeps
    | with_reducible apply keeps_ite
    | split
    | dsimp only

theorem execNotice_keeps {t : State} {m : Msg} (e : execNotice m s = .next t) :
    Keeps s t := by
  unfold execNotice at e
  injection e with e
  subst e
  repeat' first
    | with_reducible exact Keeps.refl
    | intro _
    | with_reducible apply takeMessages_keeps
    | with_reducible apply keeps_ite
    | split
    | dsimp only

theorem execFltAck_keeps {t : State} {v : Word} (e : execFltAck v s = .next t) :
    Keeps s t := by
  unfold execFltAck at e
  injection e with e
  subst e
  repeat' first
    | with_reducible exact Keeps.refl
    | intro _
    | with_reducible apply ackFaults_keeps
    | with_reducible apply keeps_ite
    | split
    | dsimp only

theorem execHistClr_keeps {t : State} (e : execHistClr s = .next t) :
    Keeps s t := by
  unfold execHistClr at e
  injection e with e
  subst e
  repeat' first
    | with_reducible exact Keeps.refl
    | intro _
    | with_reducible apply clearHist_keeps
    | with_reducible apply keeps_ite
    | split
    | dsimp only

theorem execFirstClr_keeps {t : State} (e : execFirstClr s = .next t) :
    Keeps s t := by
  unfold execFirstClr at e
  injection e with e
  subst e
  repeat' first
    | with_reducible exact Keeps.refl
    | intro _
    | with_reducible apply clearFirst_keeps
    | with_reducible apply keeps_ite
    | split
    | dsimp only

theorem histReadW0_keeps {m : Master} {slot : Fin 33} (h : Keeps s₀ s) :
    Keeps s₀ (histReadW0 s m slot) := by
  unfold histReadW0
  repeat' first
    | with_reducible assumption
    | intro _
    | with_reducible apply histRead_keeps
    | with_reducible apply updBus_keeps
    | with_reducible apply keeps_ite
    | with_reducible refine keeps_snd ?_ ‹_ = (_, _)›
    | split
    | dsimp only

theorem execFltHistW0LoRead_keeps {t : State} {m : Master} {slot : Fin 33} (e : execFltHistW0LoRead m slot s = .next t) :
    Keeps s t := by
  unfold execFltHistW0LoRead at e
  injection e with e
  subst e
  repeat' first
    | with_reducible exact Keeps.refl
    | intro _
    | with_reducible apply histReadW0_keeps
    | with_reducible apply keeps_ite
    | split
    | dsimp only

theorem execFltWaggleWrite_keeps {t : State} {v : Word} (e : execFltWaggleWrite v s = .next t) :
    Keeps s t := by
  unfold execFltWaggleWrite at e
  injection e with e
  subst e
  repeat' first
    | with_reducible exact Keeps.refl
    | intro _
    | with_reducible apply writeWaggle_keeps
    | with_reducible apply keeps_ite
    | split
    | dsimp only

theorem execCoreWatchdog_keeps {t : State} (e : execCoreWatchdog s = .next t) :
    Keeps s t := by
  unfold execCoreWatchdog at e
  injection e with e
  subst e
  repeat' first
    | with_reducible exact Keeps.refl
    | intro _
    | with_reducible apply watchdogExpires_keeps
    | with_reducible apply keeps_ite
    | split
    | dsimp only

theorem execCollStall_keeps {t : State} (e : execCollStall s = .next t) :
    Keeps s t := by
  unfold execCollStall at e
  injection e with e
  subst e
  repeat' first
    | with_reducible exact Keeps.refl
    | intro _
    | with_reducible apply stallCollector_keeps
    | with_reducible apply keeps_ite
    | split
    | dsimp only

theorem execArm_keeps {t : State} {ch : Fin 128} (e : execArm ch s = .next t) :
    Keeps s t := by
  unfold execArm at e
  injection e with e
  subst e
  repeat' first
    | with_reducible exact Keeps.refl
    | intro _
    | with_reducible apply armList_keeps
    | with_reducible apply keeps_ite
    | split
    | dsimp only

theorem execDisarm_keeps {t : State} {ch : Fin 128} (e : execDisarm ch s = .next t) :
    Keeps s t := by
  unfold execDisarm at e
  injection e with e
  subst e
  repeat' first
    | with_reducible exact Keeps.refl
    | intro _
    | with_reducible apply updSw_keeps
    | with_reducible apply keeps_ite
    | split
    | dsimp only

theorem execSweepStepEnd_keeps {t : State} {ch : Fin 128} (e : execSweepStepEnd ch s = .next t) :
    Keeps s t := by
  unfold execSweepStepEnd at e
  injection e with e
  subst e
  repeat' first
    | with_reducible exact Keeps.refl
    | intro _
    | with_reducible apply stepEnds_keeps
    | with_reducible apply keeps_ite
    | split
    | dsimp only

theorem execMeasureWindowOpen_keeps {t : State} {ch : Fin 128} (e : execMeasureWindowOpen ch s = .next t) :
    Keeps s t := by
  unfold execMeasureWindowOpen at e
  injection e with e
  subst e
  repeat' first
    | with_reducible exact Keeps.refl
    | intro _
    | with_reducible apply windowOpens_keeps
    | with_reducible apply keeps_ite
    | split
    | dsimp only

theorem execMeasureWindowClose_keeps {t : State} {ch : Fin 128} {a : Aperture} (e : execMeasureWindowClose ch a s = .next t) :
    Keeps s t := by
  unfold execMeasureWindowClose at e
  injection e with e
  subst e
  repeat' first
    | with_reducible exact Keeps.refl
    | intro _
    | with_reducible apply windowCloses_keeps
    | with_reducible apply keeps_ite
    | split
    | dsimp only

theorem execApertureResultReady_keeps {t : State} {ch : Fin 128} (e : execApertureResultReady ch s = .next t) :
    Keeps s t := by
  unfold execApertureResultReady at e
  injection e with e
  subst e
  repeat' first
    | with_reducible exact Keeps.refl
    | intro _
    | with_reducible apply resultReady_keeps
    | with_reducible apply keeps_ite
    | split
    | dsimp only

theorem execTrigTimeout_keeps {t : State} {ch : Fin 128} (e : execTrigTimeout ch s = .next t) :
    Keeps s t := by
  unfold execTrigTimeout at e
  injection e with e
  subst e
  repeat' first
    | with_reducible exact Keeps.refl
    | intro _
    | with_reducible apply waitTimeout_keeps
    | with_reducible apply keeps_ite
    | split
    | dsimp only

theorem execTrigOutEvent_keeps {t : State} {ch : Fin 128} (e : execTrigOutEvent ch s = .next t) :
    Keeps s t := by
  unfold execTrigOutEvent at e
  injection e with e
  subst e
  repeat' first
    | with_reducible exact Keeps.refl
    | intro _
    | with_reducible apply outEvent_keeps
    | with_reducible apply keeps_ite
    | split
    | dsimp only

theorem execTrigInputEdge_keeps {t : State} {pin : Fin 16} {rising : Bool} (e : execTrigInputEdge pin rising s = .next t) :
    Keeps s t := by
  unfold execTrigInputEdge at e
  injection e with e
  subst e
  repeat' first
    | with_reducible exact Keeps.refl
    | intro _
    | with_reducible apply trigEdge_keeps
    | with_reducible apply keeps_ite
    | split
    | dsimp only

theorem execTrigPulseEnd_keeps {t : State} {pin : Fin 16} (e : execTrigPulseEnd pin s = .next t) :
    Keeps s t := by
  unfold execTrigPulseEnd at e
  injection e with e
  subst e
  repeat' first
    | with_reducible exact Keeps.refl
    | intro _
    | with_reducible apply pulseEnd_keeps
    | with_reducible apply keeps_ite
    | split
    | dsimp only

theorem execTimerFire_keeps {t : State} {region : Fin 4} {timer : Fin 16} (e : execTimerFire region timer s = .next t) :
    Keeps s t := by
  unfold execTimerFire at e
  injection e with e
  subst e
  repeat' first
    | with_reducible exact Keeps.refl
    | intro _
    | with_reducible apply fireTimer_keeps
    | with_reducible apply keeps_ite
    | split
    | dsimp only

theorem execRingEventExecute_keeps {t : State} {event : Fin 32} (e : execRingEventExecute event s = .next t) :
    Keeps s t := by
  unfold execRingEventExecute at e
  injection e with e
  subst e
  repeat' first
    | with_reducible exact Keeps.refl
    | intro _
    | with_reducible apply executeEvent_keeps
    | with_reducible apply keeps_ite
    | split
    | dsimp only

theorem execSeqRegionEventWrite_keeps {t : State} {region : Fin 4} {v : Word} (e : execSeqRegionEventWrite region v s = .next t) :
    Keeps s t := by
  unfold execSeqRegionEventWrite at e
  injection e with e
  subst e
  repeat' first
    | with_reducible exact Keeps.refl
    | intro _
    | with_reducible apply regionEvent_keeps
    | with_reducible apply keeps_ite
    | split
    | dsimp only

theorem triggerCheck_keeps (h : Keeps s₀ s) :
    Keeps s₀ (triggerCheck s) := by
  unfold triggerCheck
  repeat' first
    | with_reducible assumption
    | intro _
    | with_reducible apply keeps_ite
    | split
    | dsimp only
    | with_reducible refine keeps_mk ?_ rfl rfl rfl rfl

theorem execCalTriggerCheck_keeps {t : State} (e : execCalTriggerCheck s = .next t) :
    Keeps s t := by
  unfold execCalTriggerCheck at e
  injection e with e
  subst e
  repeat' first
    | with_reducible exact Keeps.refl
    | intro _
    | with_reducible apply triggerCheck_keeps
    | with_reducible apply keeps_ite
    | split
    | dsimp only

theorem execInternal_keeps {t : State} {unit : Fin 144} (e : execInternal unit s = .next t) :
    Keeps s t := by
  unfold execInternal at e
  injection e with e
  subst e
  repeat' first
    | with_reducible exact Keeps.refl
    | intro _
    | with_reducible apply updUnit_keeps
    | with_reducible apply keeps_ite
    | split
    | dsimp only

theorem execReqAll_keeps {t : State} (e : execReqAll s = .next t) :
    Keeps s t := by
  unfold execReqAll at e
  injection e with e
  subst e
  repeat' first
    | with_reducible exact Keeps.refl
    | intro _
    | with_reducible apply reqAllUnits_keeps
    | with_reducible apply keeps_ite
    | split
    | dsimp only

theorem execTermOpen_keeps {t : State} {ch : Fin 128} (e : execTermOpen ch s = .next t) :
    Keeps s t := by
  unfold execTermOpen at e
  injection e with e
  subst e
  repeat' first
    | with_reducible exact Keeps.refl
    | intro _
    | with_reducible apply calTerm_keeps
    | with_reducible apply keeps_ite
    | split
    | dsimp only

theorem execTermShort_keeps {t : State} {ch : Fin 128} (e : execTermShort ch s = .next t) :
    Keeps s t := by
  unfold execTermShort at e
  injection e with e
  subst e
  repeat' first
    | with_reducible exact Keeps.refl
    | intro _
    | with_reducible apply calTerm_keeps
    | with_reducible apply keeps_ite
    | split
    | dsimp only

theorem execTermClear_keeps {t : State} {ch : Fin 128} (e : execTermClear ch s = .next t) :
    Keeps s t := by
  unfold execTermClear at e
  injection e with e
  subst e
  repeat' first
    | with_reducible exact Keeps.refl
    | intro _
    | with_reducible apply calTermClear_keeps
    | with_reducible apply keeps_ite
    | split
    | dsimp only

theorem withRun_keeps {c : Fin 16} {f : CalRun → State} (h : Keeps s₀ s) (hf : ∀ r, Keeps s₀ (f r)) :
    Keeps s₀ (withRun s c f) := by
  unfold withRun
  repeat' first
    | with_reducible assumption
    | with_reducible apply keeps_ite
    | apply hf
    | split

theorem internalVerdict_keeps {c : Fin 16} {r : CalRun} {v : RunResult} (h : Keeps s₀ s) :
    Keeps s₀ (internalVerdict s c r v) := by
  unfold internalVerdict
  repeat' first
    | with_reducible assumption
    | intro _
    | with_reducible refine updComb_same ?_ (fun _ => rfl) (fun _ => rfl) (fun _ => rfl) (fun _ => rfl) (fun _ => rfl)
    | with_reducible apply rejectRun_keeps
    | with_reducible apply acceptRun_keeps
    | with_reducible apply keeps_ite
    | split
    | dsimp only

theorem execCalRunVerdict_keeps {t : State} {comb : Fin 16} {r : RunResult} (e : execCalRunVerdict comb r s = .next t) :
    Keeps s t := by
  unfold execCalRunVerdict at e
  injection e with e
  subst e
  repeat' first
    | with_reducible exact Keeps.refl
    | intro _
    | with_reducible refine withRun_keeps ?_ ?_
    | with_reducible apply internalVerdict_keeps
    | with_reducible apply keeps_ite
    | split
    | dsimp only

theorem writeBack_keeps {p : Fin 144} {x : Record} {first second : Bool} (h : Keeps s₀ s) :
    Keeps s₀ (writeBack s p x first second) := by
  unfold writeBack
  repeat' first
    | with_reducible assumption
    | intro _
    | with_reducible apply updUnit_keeps
    | with_reducible apply send_keeps
    | with_reducible apply keeps_ite
    | split
    | dsimp only

theorem repairCommitted_keeps {c : Fin 16} {i : Fin 9} (h : Keeps s₀ s) : Keeps s₀ (repairCommitted s c i) := by
  unfold repairCommitted
  dsimp only
  split
  · rename_i hm
    simp only [Bool.and_eq_true] at hm
    exact updComb_keeps h fun hk => commitRepair_legal hk rfl hm.2
  · exact h

theorem afterCommit_keeps {c : Fin 16} {i : Fin 9} {x : Record} (h : Keeps s₀ s) :
    Keeps s₀ (afterCommit s c i x) := by
  unfold afterCommit
  repeat' first
    | with_reducible assumption
    | intro _
    | with_reducible apply updUnit_keeps
    | with_reducible apply finishRun_keeps
    | with_reducible apply repairCommitted_keeps
    | with_reducible apply keeps_ite
    | split
    | dsimp only

theorem commitDone_keeps {c : Fin 16} {first second : Bool} (h : Keeps s₀ s) :
    Keeps s₀ (commitDone s c first second) := by
  unfold commitDone
  repeat' first
    | with_reducible assumption
    | intro _
    | with_reducible apply afterCommit_keeps
    | with_reducible apply writeBack_keeps
    | with_reducible refine updComb_same ?_ (fun _ => rfl) (fun _ => rfl) (fun _ => rfl) (fun _ => rfl) (fun _ => rfl)
    | with_reducible apply keeps_ite
    | split
    | dsimp only

theorem execCalCommitDone_keeps {t : State} {comb : Fin 16} {slot : SlotCheck} (e : execCalCommitDone comb slot s = .next t) :
    Keeps s t := by
  unfold execCalCommitDone at e
  injection e with e
  subst e
  repeat' first
    | with_reducible exact Keeps.refl
    | intro _
    | with_reducible apply commitDone_keeps
    | with_reducible apply keeps_ite
    | split
    | dsimp only

theorem prepared_keeps {c : Fin 16} {r : CalRun} (h : Keeps s₀ s) :
    Keeps s₀ (prepared s c r) := by
  unfold prepared
  repeat' first
    | with_reducible assumption
    | intro _
    | with_reducible refine updComb_same ?_ (fun _ => rfl) (fun _ => rfl) (fun _ => rfl) (fun _ => rfl) (fun _ => rfl)
    | with_reducible apply finishRun_keeps
    | with_reducible apply keeps_ite
    | split
    | dsimp only

theorem execCalPrepared_keeps {t : State} {comb : Fin 16} (e : execCalPrepared comb s = .next t) :
    Keeps s t := by
  unfold execCalPrepared at e
  injection e with e
  subst e
  repeat' first
    | with_reducible exact Keeps.refl
    | intro _
    | with_reducible refine withRun_keeps ?_ ?_
    | with_reducible apply prepared_keeps
    | with_reducible apply keeps_ite
    | split
    | dsimp only

theorem handback_keeps {c : Fin 16} {r : CalRun} (h : Keeps s₀ s) :
    Keeps s₀ (handback s c r) := by
  unfold handback
  repeat' first
    | with_reducible assumption
    | intro _
    | with_reducible apply tryRepair_keeps
    | with_reducible apply endRun_keeps
    | with_reducible apply keeps_ite
    | split
    | dsimp only

theorem execCalHandback_keeps {t : State} {comb : Fin 16} (e : execCalHandback comb s = .next t) :
    Keeps s t := by
  unfold execCalHandback at e
  injection e with e
  subst e
  repeat' first
    | with_reducible exact Keeps.refl
    | intro _
    | with_reducible apply handback_keeps
    | with_reducible apply keeps_ite
    | split
    | dsimp only

theorem terminalVerdict_keeps {c : Fin 16} {r : CalRun} {v : TermResult} (h : Keeps s₀ s) :
    Keeps s₀ (terminalVerdict s c r v) := by
  unfold terminalVerdict
  repeat' first
    | with_reducible assumption
    | intro _
    | with_reducible apply finishRun_keeps
    | with_reducible apply updUnit_keeps
    | with_reducible apply rejectRun_keeps
    | with_reducible apply acceptRun_keeps
    | with_reducible apply keeps_ite
    | split
    | dsimp only

theorem execTermRunDone_keeps {t : State} {ch : Fin 128} {r : TermResult} (e : execTermRunDone ch r s = .next t) :
    Keeps s t := by
  unfold execTermRunDone at e
  injection e with e
  subst e
  repeat' first
    | with_reducible exact Keeps.refl
    | intro _
    | with_reducible refine withRun_keeps ?_ ?_
    | with_reducible apply terminalVerdict_keeps
    | with_reducible apply keeps_ite
    | split
    | dsimp only

theorem execRepair_keeps {t : State} {comb : Fin 16} {unit : Fin 16} (e : execRepair comb unit s = .next t) :
    Keeps s t := by
  unfold execRepair at e
  injection e with e
  subst e
  repeat' first
    | with_reducible exact Keeps.refl
    | intro _
    | with_reducible apply repairUnit_keeps
    | with_reducible apply keeps_ite
    | split
    | dsimp only

theorem execRelease_keeps {t : State} {comb : Fin 16} (e : execRelease comb s = .next t) :
    Keeps s t := by
  unfold execRelease at e
  injection e with e
  subst e
  repeat' first
    | with_reducible exact Keeps.refl
    | intro _
    | with_reducible apply releaseUnit_keeps
    | with_reducible apply keeps_ite
    | split
    | dsimp only

theorem execStoreSchedCycle_keeps {t : State} (e : execStoreSchedCycle s = .next t) :
    Keeps s t := by
  unfold execStoreSchedCycle at e
  injection e with e
  subst e
  repeat' first
    | with_reducible exact Keeps.refl
    | intro _
    | with_reducible refine updSto_same ?_ ?_
    | with_reducible apply keeps_ite
    | split
    | dsimp only
    | rfl

theorem execOpenStream_keeps {t : State} {strm : Fin 2048} (e : execOpenStream strm s = .next t) :
    Keeps s t := by
  unfold execOpenStream at e
  injection e with e
  subst e
  repeat' first
    | with_reducible exact Keeps.refl
    | intro _
    | with_reducible apply openStr_keeps
    | with_reducible apply keeps_ite
    | split
    | dsimp only

theorem execCloseStream_keeps {t : State} {strm : Fin 2048} (e : execCloseStream strm s = .next t) :
    Keeps s t := by
  unfold execCloseStream at e
  injection e with e
  subst e
  repeat' first
    | with_reducible exact Keeps.refl
    | intro _
    | with_reducible apply closeStr_keeps
    | with_reducible apply keeps_ite
    | split
    | dsimp only

theorem closeAged_keeps {n : Fin 2048} (h : Keeps s₀ s) :
    Keeps s₀ (closeAged s n) := by
  unfold closeAged
  repeat' first
    | with_reducible assumption
    | intro _
    | with_reducible apply closeAssembly_keeps
    | with_reducible apply reachTick_keeps
    | with_reducible apply keeps_ite
    | split
    | dsimp only

theorem closeCommand_keeps {n : Fin 2048} {raw : List Nat} (h : Keeps s₀ s) :
    Keeps s₀ (closeCommand s n raw) := by
  unfold closeCommand
  repeat' first
    | with_reducible assumption
    | intro _
    | with_reducible apply closeAged_keeps
    | with_reducible apply addRaw_keeps
    | with_reducible apply keeps_ite
    | split
    | dsimp only

theorem execCaptureBlockClose_keeps {t : State} {strm : Fin 2048} {raw : List Nat} (e : execCaptureBlockClose strm raw s = .next t) :
    Keeps s t := by
  unfold execCaptureBlockClose at e
  injection e with e
  subst e
  repeat' first
    | with_reducible exact Keeps.refl
    | intro _
    | with_reducible apply closeCommand_keeps
    | with_reducible apply keeps_ite
    | split
    | dsimp only

theorem execRingBlockReadDone_keeps {t : State} {ring : Fin 31} (e : execRingBlockReadDone ring s = .next t) :
    Keeps s t := by
  unfold execRingBlockReadDone at e
  injection e with e
  subst e
  repeat' first
    | with_reducible exact Keeps.refl
    | intro _
    | with_reducible apply egressBlock_keeps
    | with_reducible apply keeps_ite
    | split
    | dsimp only

theorem ringCommand_keeps {n : Fin 31} {f : CapRing → CapRing} (h : Keeps s₀ s) :
    Keeps s₀ (ringCommand s n f) := by
  unfold ringCommand
  repeat' first
    | with_reducible assumption
    | intro _
    | with_reducible apply updRing_keeps
    | with_reducible apply keeps_ite
    | split
    | dsimp only

theorem execSetMark_keeps {t : State} {ring : Fin 31} (e : execSetMark ring s = .next t) :
    Keeps s t := by
  unfold execSetMark at e
  injection e with e
  subst e
  repeat' first
    | with_reducible exact Keeps.refl
    | intro _
    | with_reducible apply ringCommand_keeps
    | with_reducible apply keeps_ite
    | split
    | dsimp only

theorem execClrMark_keeps {t : State} {ring : Fin 31} (e : execClrMark ring s = .next t) :
    Keeps s t := by
  unfold execClrMark at e
  injection e with e
  subst e
  repeat' first
    | with_reducible exact Keeps.refl
    | intro _
    | with_reducible apply ringCommand_keeps
    | with_reducible apply keeps_ite
    | split
    | dsimp only

theorem execRewind_keeps {t : State} {ring : Fin 31} (e : execRewind ring s = .next t) :
    Keeps s t := by
  unfold execRewind at e
  injection e with e
  subst e
  repeat' first
    | with_reducible exact Keeps.refl
    | intro _
    | with_reducible apply ringCommand_keeps
    | with_reducible apply keeps_ite
    | split
    | dsimp only

theorem execQueueEn_keeps {t : State} {q : Fin 32} {en : Bool} (e : execQueueEn q en s = .next t) :
    Keeps s t := by
  unfold execQueueEn at e
  injection e with e
  subst e
  repeat' first
    | with_reducible exact Keeps.refl
    | intro _
    | with_reducible apply writeQueueEn_keeps
    | with_reducible apply keeps_ite
    | split
    | dsimp only

theorem execFlush_keeps {t : State} {q : Fin 32} (e : execFlush q s = .next t) :
    Keeps s t := by
  unfold execFlush at e
  injection e with e
  subst e
  exact keeps_ite (updWm_keeps (updQ_keeps' Keeps.refl fun _ => flushReq_balanced)) Keeps.refl

theorem execQueueFlushTimeout_keeps {t : State} {q : Fin 32} (e : execQueueFlushTimeout q s = .next t) :
    Keeps s t := by
  unfold execQueueFlushTimeout at e
  injection e with e
  subst e
  exact keeps_ite (updWm_keeps (updQ_keeps' Keeps.refl fun _ => flushNow_balanced)) Keeps.refl

theorem execQueueItemWrite_keeps {t : State} {q : Fin 32} {i : QItem} (e : execQueueItemWrite q i s = .next t) :
    Keeps s t := by
  unfold execQueueItemWrite at e
  injection e with e
  subst e
  repeat' first
    | with_reducible exact Keeps.refl
    | intro _
    | with_reducible apply queueWrite_keeps
    | with_reducible apply keeps_ite
    | split
    | dsimp only

theorem portRead_keeps {m : Master} {q : Fin 32} (h : Keeps s₀ s) :
    Keeps s₀ (portRead s m q) := by
  unfold portRead
  repeat' first
    | with_reducible assumption
    | intro _
    | with_reducible apply sqRdLo_keeps
    | with_reducible apply updBus_keeps
    | with_reducible apply keeps_ite
    | with_reducible refine keeps_snd ?_ ‹_ = (_, _)›
    | split
    | dsimp only

theorem execQueueItemRead_keeps {t : State} {q : Fin 32} (e : execQueueItemRead q s = .next t) :
    Keeps s t := by
  unfold execQueueItemRead at e
  injection e with e
  subst e
  repeat' first
    | with_reducible exact Keeps.refl
    | intro _
    | with_reducible apply portRead_keeps
    | with_reducible apply queueRead_keeps
    | with_reducible apply keeps_ite
    | split
    | dsimp only

theorem execSqWrHiWrite_keeps {t : State} {m : Master} {q : Fin 32} {v : Word} (e : execSqWrHiWrite m q v s = .next t) :
    Keeps s t := by
  unfold execSqWrHiWrite at e
  injection e with e
  subst e
  repeat' first
    | with_reducible exact Keeps.refl
    | intro _
    | with_reducible apply sqWrHi_keeps
    | with_reducible apply keeps_ite
    | split
    | dsimp only

theorem execSqRdLoRead_keeps {t : State} {m : Master} {q : Fin 32} (e : execSqRdLoRead m q s = .next t) :
    Keeps s t := by
  unfold execSqRdLoRead at e
  injection e with e
  subst e
  repeat' first
    | with_reducible exact Keeps.refl
    | intro _
    | with_reducible apply portRead_keeps
    | with_reducible apply keeps_ite
    | split
    | dsimp only

theorem execQueueItemVisible_keeps {t : State} {q : Fin 32} (e : execQueueItemVisible q s = .next t) :
    Keeps s t := by
  unfold execQueueItemVisible at e
  injection e with e
  subst e
  exact updQ_keeps' Keeps.refl fun q hq => ⟨hq.1, Nat.le_refl _⟩

theorem execQueueCreditVisible_keeps {t : State} {q : Fin 32} (e : execQueueCreditVisible q s = .next t) :
    Keeps s t := by
  unfold execQueueCreditVisible at e
  injection e with e
  subst e
  refine updQ_keeps' Keeps.refl fun q hq => ?_
  simp only [Queue.balanced] at hq ⊢
  omega

theorem alignPort_keeps (h : Keeps s₀ s) : Keeps s₀ (alignPort s) :=
  mapQ_keeps h fun q hq => by split <;> exact hq

theorem execStreamPortAligned_keeps {t : State} (e : execStreamPortAligned s = .next t) :
    Keeps s t := by
  unfold execStreamPortAligned at e
  injection e with e
  subst e
  repeat' first
    | with_reducible exact Keeps.refl
    | intro _
    | with_reducible apply alignPort_keeps
    | with_reducible apply keeps_ite
    | split
    | dsimp only

theorem execDmaEn_keeps {t : State} {e : Fin 8} {en : Bool} (e : execDmaEn e en s = .next t) :
    Keeps s t := by
  unfold execDmaEn at e
  injection e with e
  subst e
  repeat' first
    | with_reducible exact Keeps.refl
    | intro _
    | with_reducible apply dmaEnable_keeps
    | with_reducible apply keeps_ite
    | split
    | dsimp only

theorem execAbort_keeps {t : State} {e : Fin 8} (e : execAbort e s = .next t) :
    Keeps s t := by
  unfold execAbort at e
  injection e with e
  subst e
  repeat' first
    | with_reducible exact Keeps.refl
    | intro _
    | with_reducible apply dmaAbort_keeps
    | with_reducible apply keeps_ite
    | split
    | dsimp only

theorem execDmaTailWrite_keeps {t : State} {e : Fin 8} {v : Word} (e : execDmaTailWrite e v s = .next t) :
    Keeps s t := by
  unfold execDmaTailWrite at e
  injection e with e
  subst e
  repeat' first
    | with_reducible exact Keeps.refl
    | intro _
    | with_reducible apply dmaTail_keeps
    | with_reducible apply keeps_ite
    | split
    | dsimp only

theorem execDmaDescriptorDone_keeps {t : State} {e : Fin 8} {d : Desc} {hostData : List Byte} {reads : DmaRead} (e : execDmaDescriptorDone e d hostData reads s = .next t) :
    Keeps s t := by
  unfold execDmaDescriptorDone at e
  injection e with e
  subst e
  repeat' first
    | with_reducible exact Keeps.refl
    | intro _
    | with_reducible apply dmaDescriptor_keeps
    | with_reducible apply keeps_ite
    | split
    | dsimp only

theorem execMbxDataWrite_keeps {t : State} {ch : Fin 20} {h2c : Bool} {v : Word} (e : execMbxDataWrite ch h2c v s = .next t) :
    Keeps s t := by
  unfold execMbxDataWrite at e
  injection e with e
  subst e
  repeat' first
    | with_reducible exact Keeps.refl
    | intro _
    | with_reducible apply mbxWrite_keeps
    | with_reducible apply keeps_ite
    | split
    | dsimp only

theorem execMbxDataRead_keeps {t : State} {ch : Fin 20} {h2c : Bool} (e : execMbxDataRead ch h2c s = .next t) :
    Keeps s t := by
  unfold execMbxDataRead at e
  injection e with e
  subst e
  repeat' first
    | with_reducible exact Keeps.refl
    | intro _
    | with_reducible apply mbxRead_keeps
    | with_reducible apply keeps_ite
    | split
    | dsimp only

theorem execMbxFullVisible_keeps {t : State} {ch : Fin 20} {h2c : Bool} (e : execMbxFullVisible ch h2c s = .next t) :
    Keeps s t := by
  unfold execMbxFullVisible at e
  injection e with e
  subst e
  repeat' first
    | with_reducible exact Keeps.refl
    | intro _
    | with_reducible apply updMbx_keeps
    | with_reducible apply keeps_ite
    | split
    | dsimp only

theorem execPing_keeps {t : State} {ch : Fin 16} {request : Word} (e : execPing ch request s = .next t) :
    Keeps s t := by
  unfold execPing at e
  injection e with e
  subst e
  repeat' first
    | with_reducible exact Keeps.refl
    | intro _
    | with_reducible apply serveNs_keeps
    | with_reducible apply keeps_ite
    | split
    | dsimp only

theorem execFwVersion_keeps {t : State} {ch : Fin 16} {request : Word} (e : execFwVersion ch request s = .next t) :
    Keeps s t := by
  unfold execFwVersion at e
  injection e with e
  subst e
  repeat' first
    | with_reducible exact Keeps.refl
    | intro _
    | with_reducible apply serveNs_keeps
    | with_reducible apply keeps_ite
    | split
    | dsimp only

theorem execResetCause_keeps {t : State} {ch : Fin 16} {request : Word} (e : execResetCause ch request s = .next t) :
    Keeps s t := by
  unfold execResetCause at e
  injection e with e
  subst e
  repeat' first
    | with_reducible exact Keeps.refl
    | intro _
    | with_reducible apply serveNs_keeps
    | with_reducible apply keeps_ite
    | split
    | dsimp only

theorem execMbxUnknownOp_keeps {t : State} {ch : Fin 20} {request : Word} (e : execMbxUnknownOp ch request s = .next t) :
    Keeps s t := by
  unfold execMbxUnknownOp at e
  injection e with e
  subst e
  repeat' first
    | with_reducible exact Keeps.refl
    | intro _
    | with_reducible apply serveUnknown_keeps
    | with_reducible apply serveBadOp_keeps
    | with_reducible apply keeps_ite
    | split
    | dsimp only

theorem execLockRead_keeps {t : State} {m : Master} {l : Fin 64} (e : execLockRead m l s = .next t) :
    Keeps s t := by
  unfold execLockRead at e
  injection e with e
  subst e
  repeat' first
    | with_reducible exact Keeps.refl
    | intro _
    | with_reducible apply updBus_keeps
    | with_reducible apply takeLock_keeps
    | with_reducible apply keeps_ite
    | split
    | dsimp only

theorem execLockRelease_keeps {t : State} {m : Master} {l : Fin 64} {v : Word} (e : execLockRelease m l v s = .next t) :
    Keeps s t := by
  unfold execLockRelease at e
  injection e with e
  subst e
  repeat' first
    | with_reducible exact Keeps.refl
    | intro _
    | with_reducible apply writeLock_keeps
    | with_reducible apply keeps_ite
    | split
    | dsimp only

theorem execSecAuthStart_keeps {t : State} (e : execSecAuthStart s = .next t) :
    Keeps s t := by
  unfold execSecAuthStart at e
  injection e with e
  subst e
  repeat' first
    | with_reducible exact Keeps.refl
    | intro _
    | with_reducible apply authStart_keeps
    | with_reducible apply keeps_ite
    | split
    | dsimp only

theorem execVerify_keeps {t : State} (e : execVerify s = .next t) :
    Keeps s t := by
  unfold execVerify at e
  injection e with e
  subst e
  repeat' first
    | with_reducible exact Keeps.refl
    | intro _
    | with_reducible apply authVerify_keeps
    | with_reducible apply keeps_ite
    | split
    | dsimp only

theorem execSecVerifyDone_keeps {t : State} (e : execSecVerifyDone s = .next t) :
    Keeps s t := by
  unfold execSecVerifyDone at e
  injection e with e
  subst e
  repeat' first
    | with_reducible exact Keeps.refl
    | intro _
    | with_reducible apply authDone_keeps
    | with_reducible apply keeps_ite
    | split
    | dsimp only

theorem execAuthLockoutEnd_keeps {t : State} (e : execAuthLockoutEnd s = .next t) :
    Keeps s t := by
  unfold execAuthLockoutEnd at e
  injection e with e
  subst e
  repeat' first
    | with_reducible exact Keeps.refl
    | intro _
    | with_reducible apply updSec_keeps
    | with_reducible apply keeps_ite
    | split
    | dsimp only

theorem execProvImgKey_keeps {t : State} {ch : Fin 4} {request : Word} (e : execProvImgKey ch request s = .next t) :
    Keeps s t := by
  unfold execProvImgKey at e
  injection e with e
  subst e
  repeat' first
    | with_reducible exact Keeps.refl
    | intro _
    | with_reducible apply provision_keeps
    | with_reducible apply keeps_ite
    | split
    | dsimp only

theorem execProvDecKey_keeps {t : State} {ch : Fin 4} {request : Word} (e : execProvDecKey ch request s = .next t) :
    Keeps s t := by
  unfold execProvDecKey at e
  injection e with e
  subst e
  repeat' first
    | with_reducible exact Keeps.refl
    | intro _
    | with_reducible apply provision_keeps
    | with_reducible apply keeps_ite
    | split
    | dsimp only

theorem execProvHostKey_keeps {t : State} {ch : Fin 4} {request : Word} (e : execProvHostKey ch request s = .next t) :
    Keeps s t := by
  unfold execProvHostKey at e
  injection e with e
  subst e
  repeat' first
    | with_reducible exact Keeps.refl
    | intro _
    | with_reducible apply provision_keeps
    | with_reducible apply keeps_ite
    | split
    | dsimp only

theorem execAttest_keeps {t : State} {ch : Fin 4} {request : Word} (e : execAttest ch request s = .next t) :
    Keeps s t := by
  unfold execAttest at e
  injection e with e
  subst e
  repeat' first
    | with_reducible exact Keeps.refl
    | intro _
    | with_reducible apply serveAttest_keeps
    | with_reducible apply keeps_ite
    | split
    | dsimp only

theorem execSetDbgPolicy_keeps {t : State} {ch : Fin 4} {request : Word} (e : execSetDbgPolicy ch request s = .next t) :
    Keeps s t := by
  unfold execSetDbgPolicy at e
  injection e with e
  subst e
  repeat' first
    | with_reducible exact Keeps.refl
    | intro _
    | with_reducible apply servePolicy_keeps
    | with_reducible apply keeps_ite
    | split
    | dsimp only

theorem execDbgOpen_keeps {t : State} {src : Option (Fin 4 × Word)} {x : OpenReport} (e : execDbgOpen src x s = .next t) :
    Keeps s t := by
  unfold execDbgOpen at e
  injection e with e
  subst e
  repeat' first
    | with_reducible exact Keeps.refl
    | intro _
    | with_reducible apply debugOpen_keeps
    | with_reducible apply keeps_ite
    | split
    | dsimp only

theorem execSessionClose_keeps {t : State} {ch : Fin 4} {request : Word} (e : execSessionClose ch request s = .next t) :
    Keeps s t := by
  unfold execSessionClose at e
  injection e with e
  subst e
  repeat' first
    | with_reducible exact Keeps.refl
    | intro _
    | with_reducible apply serveClose_keeps
    | with_reducible apply keeps_ite
    | split
    | dsimp only

theorem execTapInstruction_keeps {t : State} {ir : TapIr} (e : execTapInstruction ir s = .next t) :
    Keeps s t := by
  unfold execTapInstruction at e
  injection e with e
  subst e
  repeat' first
    | with_reducible exact Keeps.refl
    | intro _
    | with_reducible apply tapInstruction_keeps
    | with_reducible apply keeps_ite
    | split
    | dsimp only

theorem execJoin_keeps {t : State} (e : execJoin s = .next t) :
    Keeps s t := by
  unfold execJoin at e
  injection e with e
  subst e
  repeat' first
    | with_reducible exact Keeps.refl
    | intro _
    | with_reducible apply ringJoin_keeps
    | with_reducible apply keeps_ite
    | split
    | dsimp only

theorem execLeave_keeps {t : State} (e : execLeave s = .next t) :
    Keeps s t := by
  unfold execLeave at e
  injection e with e
  subst e
  repeat' first
    | with_reducible exact Keeps.refl
    | intro _
    | with_reducible apply ringLeave_keeps
    | with_reducible apply keeps_ite
    | split
    | dsimp only

theorem execHoldAll_keeps {t : State} (e : execHoldAll s = .next t) :
    Keeps s t := by
  unfold execHoldAll at e
  injection e with e
  subst e
  repeat' first
    | with_reducible exact Keeps.refl
    | intro _
    | with_reducible apply ringHoldAll_keeps
    | with_reducible apply keeps_ite
    | split
    | dsimp only

theorem execRingLocalTrained_keeps {t : State} {ok : Bool} (e : execRingLocalTrained ok s = .next t) :
    Keeps s t := by
  unfold execRingLocalTrained at e
  injection e with e
  subst e
  repeat' first
    | with_reducible exact Keeps.refl
    | intro _
    | with_reducible apply localTrained_keeps
    | with_reducible apply keeps_ite
    | split
    | dsimp only

theorem execRingLinkTrained_keeps {t : State} (e : execRingLinkTrained s = .next t) :
    Keeps s t := by
  unfold execRingLinkTrained at e
  injection e with e
  subst e
  repeat' first
    | with_reducible exact Keeps.refl
    | intro _
    | with_reducible apply linkTrained_keeps
    | with_reducible apply keeps_ite
    | split
    | dsimp only

theorem execRingLossTimeout_keeps {t : State} {noLock : Bool} (e : execRingLossTimeout noLock s = .next t) :
    Keeps s t := by
  unfold execRingLossTimeout at e
  injection e with e
  subst e
  repeat' first
    | with_reducible exact Keeps.refl
    | intro _
    | with_reducible apply lossTimeout_keeps
    | with_reducible apply keeps_ite
    | split
    | dsimp only

theorem execRingLockLost_keeps {t : State} (e : execRingLockLost s = .next t) :
    Keeps s t := by
  unfold execRingLockLost at e
  injection e with e
  subst e
  repeat' first
    | with_reducible exact Keeps.refl
    | intro _
    | with_reducible apply lockLost_keeps
    | with_reducible apply keeps_ite
    | split
    | dsimp only

theorem execAlignedTimeout_keeps {t : State} (e : execAlignedTimeout s = .next t) :
    Keeps s t := by
  unfold execAlignedTimeout at e
  injection e with e
  subst e
  repeat' first
    | with_reducible exact Keeps.refl
    | intro _
    | with_reducible apply alignedLost_keeps
    | with_reducible apply keeps_ite
    | split
    | dsimp only

theorem execJxTimeSend_keeps {t : State} (e : execJxTimeSend s = .next t) :
    Keeps s t := by
  unfold execJxTimeSend at e
  injection e with e
  subst e
  repeat' first
    | with_reducible exact Keeps.refl
    | intro _
    | with_reducible apply sendTime_keeps
    | with_reducible apply keeps_ite
    | split
    | dsimp only

theorem execTime_keeps {t : State} {f : Frame} {residence : Nat} (e : execTime f residence s = .next t) :
    Keeps s t := by
  unfold execTime at e
  injection e with e
  subst e
  repeat' first
    | with_reducible exact Keeps.refl
    | intro _
    | with_reducible apply arrive_keeps
    | with_reducible apply keeps_ite
    | split
    | dsimp only

theorem execEnum_keeps {t : State} {f : Frame} (e : execEnum f s = .next t) :
    Keeps s t := by
  unfold execEnum at e
  injection e with e
  subst e
  repeat' first
    | with_reducible exact Keeps.refl
    | intro _
    | with_reducible apply arrive_keeps
    | with_reducible apply keeps_ite
    | split
    | dsimp only

theorem execEvent_keeps {t : State} {f : Frame} (e : execEvent f s = .next t) :
    Keeps s t := by
  unfold execEvent at e
  injection e with e
  subst e
  repeat' first
    | with_reducible exact Keeps.refl
    | intro _
    | with_reducible apply arrive_keeps
    | with_reducible apply keeps_ite
    | split
    | dsimp only

theorem execFault6_keeps {t : State} {f : Frame} (e : execFault6 f s = .next t) :
    Keeps s t := by
  unfold execFault6 at e
  injection e with e
  subst e
  repeat' first
    | with_reducible exact Keeps.refl
    | intro _
    | with_reducible apply arrive_keeps
    | with_reducible apply keeps_ite
    | split
    | dsimp only

theorem execFault6Resend_keeps {t : State} (e : execFault6Resend s = .next t) :
    Keeps s t := by
  unfold execFault6Resend at e
  injection e with e
  subst e
  repeat' first
    | with_reducible exact Keeps.refl
    | intro _
    | with_reducible apply resendFault6_keeps
    | with_reducible apply keeps_ite
    | split
    | dsimp only

theorem execRdReq_keeps {t : State} {f : Frame} (e : execRdReq f s = .next t) :
    Keeps s t := by
  unfold execRdReq at e
  injection e with e
  subst e
  repeat' first
    | with_reducible exact Keeps.refl
    | intro _
    | with_reducible apply arrive_keeps
    | with_reducible apply keeps_ite
    | split
    | dsimp only

theorem execRdRsp_keeps {t : State} {f : Frame} (e : execRdRsp f s = .next t) :
    Keeps s t := by
  unfold execRdRsp at e
  injection e with e
  subst e
  repeat' first
    | with_reducible exact Keeps.refl
    | intro _
    | with_reducible apply arrive_keeps
    | with_reducible apply keeps_ite
    | split
    | dsimp only

theorem execWrReq_keeps {t : State} {f : Frame} (e : execWrReq f s = .next t) :
    Keeps s t := by
  unfold execWrReq at e
  injection e with e
  subst e
  repeat' first
    | with_reducible exact Keeps.refl
    | intro _
    | with_reducible apply arrive_keeps
    | with_reducible apply keeps_ite
    | split
    | dsimp only

theorem execWrRsp_keeps {t : State} {f : Frame} (e : execWrRsp f s = .next t) :
    Keeps s t := by
  unfold execWrRsp at e
  injection e with e
  subst e
  repeat' first
    | with_reducible exact Keeps.refl
    | intro _
    | with_reducible apply arrive_keeps
    | with_reducible apply keeps_ite
    | split
    | dsimp only

theorem execBlock_keeps {t : State} {f : Frame} (e : execBlock f s = .next t) :
    Keeps s t := by
  unfold execBlock at e
  injection e with e
  subst e
  repeat' first
    | with_reducible exact Keeps.refl
    | intro _
    | with_reducible apply arrive_keeps
    | with_reducible apply keeps_ite
    | split
    | dsimp only

theorem execQitems_keeps {t : State} {f : Frame} (e : execQitems f s = .next t) :
    Keeps s t := by
  unfold execQitems at e
  injection e with e
  subst e
  repeat' first
    | with_reducible exact Keeps.refl
    | intro _
    | with_reducible apply arrive_keeps
    | with_reducible apply keeps_ite
    | split
    | dsimp only

theorem execJxFrameForward_keeps {t : State} {p : Passing} (e : execJxFrameForward p s = .next t) :
    Keeps s t := by
  unfold execJxFrameForward at e
  injection e with e
  subst e
  repeat' first
    | with_reducible exact Keeps.refl
    | intro _
    | with_reducible apply arrive_keeps
    | with_reducible apply keeps_ite
    | split
    | dsimp only

theorem execRingCrc_keeps {t : State} (e : execRingCrc s = .next t) :
    Keeps s t := by
  unfold execRingCrc at e
  injection e with e
  subst e
  repeat' first
    | with_reducible exact Keeps.refl
    | intro _
    | with_reducible apply ringCrcDue_keeps
    | with_reducible apply keeps_ite
    | split
    | dsimp only

theorem execRead_keeps {t : State} {m : Fin 2} {two : Bool} (e : execRead m two s = .next t) :
    Keeps s t := by
  unfold execRead at e
  injection e with e
  subst e
  repeat' first
    | with_reducible exact Keeps.refl
    | intro _
    | with_reducible apply issueRead_keeps
    | with_reducible apply keeps_ite
    | split
    | dsimp only

theorem execWrite_keeps {t : State} {m : Fin 2} {two : Bool} (e : execWrite m two s = .next t) :
    Keeps s t := by
  unfold execWrite at e
  injection e with e
  subst e
  repeat' first
    | with_reducible exact Keeps.refl
    | intro _
    | with_reducible apply issueWrite_keeps
    | with_reducible apply keeps_ite
    | split
    | dsimp only

theorem execJxRaTimeout_keeps {t : State} {m : Fin 2} (e : execJxRaTimeout m s = .next t) :
    Keeps s t := by
  unfold execJxRaTimeout at e
  injection e with e
  subst e
  repeat' first
    | with_reducible exact Keeps.refl
    | intro _
    | with_reducible apply raTimeout_keeps
    | with_reducible apply keeps_ite
    | split
    | dsimp only

theorem execLoReadLatch_keeps {t : State} {m : Master} {a : BusAddr} (e : execLoReadLatch m a s = .next t) :
    Keeps s t := by
  unfold execLoReadLatch at e
  injection e with e
  subst e
  repeat' first
    | with_reducible exact Keeps.refl
    | intro _
    | with_reducible apply readRegister_keeps
    | with_reducible apply keeps_ite
    | split
    | dsimp only

theorem execLoWriteStage_keeps {t : State} {m : Master} {a : BusAddr} {v : Word} (e : execLoWriteStage m a v s = .next t) :
    Keeps s t := by
  unfold execLoWriteStage at e
  injection e with e
  subst e
  repeat' first
    | with_reducible exact Keeps.refl
    | intro _
    | with_reducible apply writeLo_keeps
    | with_reducible apply keeps_ite
    | split
    | dsimp only

theorem execHiWriteCommit_keeps {t : State} {m : Master} {a : BusAddr} {v : Word} (e : execHiWriteCommit m a v s = .next t) :
    Keeps s t := by
  unfold execHiWriteCommit at e
  injection e with e
  subst e
  repeat' first
    | with_reducible exact Keeps.refl
    | intro _
    | with_reducible apply writeHi_keeps
    | with_reducible apply keeps_ite
    | split
    | dsimp only

theorem execRegisterWrite_keeps {t : State} {m : Master} {a : BusAddr} {v : Word} (e : execRegisterWrite m a v s = .next t) :
    Keeps s t := by
  unfold execRegisterWrite at e
  injection e with e
  subst e
  repeat' first
    | with_reducible exact Keeps.refl
    | intro _
    | with_reducible apply writeOther_keeps
    | with_reducible apply keeps_ite
    | split
    | dsimp only

end Sys2Proof.Machine
end

