-- ==== Sys2Proof/Laws/Ring.lean ====
section
/-!
SUPPORT. What the ring port does with a frame that reaches it whole: the shared shape of every frame
command, said once.
-/

namespace Sys2Proof.Machine

variable {s : State} {f : Frame} {type : Nat}

@[simp] theorem frameCrc_sealFrame (f : Frame) : frameCrc (sealFrame f) = frameCrc f := rfl
@[simp] theorem crcOk_sealFrame (f : Frame) : crcOk (sealFrame f) = true := by simp [crcOk]; rfl

@[simp] theorem noteUpstream_ch : (noteUpstream s f).ch = s.ch := by unfold noteUpstream; split <;> rfl
@[simp] theorem noteUpstream_out : (noteUpstream s f).out = s.out := by unfold noteUpstream; split <;> rfl
@[simp] theorem noteUpstream_flt : (noteUpstream s f).flt = s.flt := by unfold noteUpstream; split <;> rfl
@[simp] theorem noteUpstream_sto : (noteUpstream s f).sto = s.sto := by unfold noteUpstream; split <;> rfl
@[simp] theorem noteUpstream_sq : (noteUpstream s f).sq = s.sq := by unfold noteUpstream; split <;> rfl
@[simp] theorem noteUpstream_mod : (noteUpstream s f).mod = s.mod := by unfold noteUpstream; split <;> rfl
@[simp] theorem noteUpstream_tb : (noteUpstream s f).tb = s.tb := by unfold noteUpstream; split <;> rfl
@[simp] theorem noteUpstream_seq : (noteUpstream s f).seq = s.seq := by unfold noteUpstream; split <;> rfl
/-- Only the upstream member is noted. -/
theorem noteUpstream_jx : (noteUpstream s f).jx =
    { s.jx with upstream := if f.hops = 0 then f.src else s.jx.upstream } := by
  unfold noteUpstream; split <;> rfl

/-- A frame consumed by a member holds an id or is a broadcast that needs none. -/
theorem isMine_of_arrives (h : arrives s f type) (hd : f.dst = s.jx.id) (ht : type ≠ 0x12 ∧ type ≠ 0x13) :
    isMine s f = true := by
  obtain ⟨-, -, rfl, -, hc⟩ := h
  simp [consumes, isMine, hd] at hc ⊢
  omega

/-- A frame for this member alone is consumed and does not pass on. -/
theorem receive_mine {back use : State → Frame → State} {through : State → Frame → Frame}
    (h : arrives s f type) (hm : isMine s f = true) :
    receive s f back use through = use (noteUpstream s f) f := by
  obtain ⟨h1, h2, rfl, h4, h5⟩ := h
  have e1 : isOwn (noteUpstream s f) f = false := by simpa [isOwn, noteUpstream_jx] using h4
  have e2 : isMine (noteUpstream s f) f = true := by simpa [isMine, noteUpstream_jx] using hm
  have e3 : consumes (noteUpstream s f) f = true := by simpa [consumes, isMine, noteUpstream_jx] using h5
  simp [receive, h1, h2, e1, e2, e3]

/-- A broadcast is consumed and passes on, changed as its type says. -/
theorem receive_broadcast {back use : State → Frame → State} {through : State → Frame → Frame}
    (h : arrives s f type) (hd : f.dst = 1023) (hh : (through (noteUpstream s f) f).hops < 1022) :
    receive s f back use through =
      use (sendFrame (noteUpstream s f) (sealFrame { through (noteUpstream s f) f with
        hops := (through (noteUpstream s f) f).hops + 1 })) f := by
  obtain ⟨h1, h2, rfl, h4, h5⟩ := h
  have e1 : isOwn (noteUpstream s f) f = false := by simpa [isOwn, noteUpstream_jx] using h4
  have e2 : isMine (noteUpstream s f) f = false := by simp [isMine, hd]; omega
  have e3 : consumes (noteUpstream s f) f = true := by simpa [consumes, isMine, noteUpstream_jx] using h5
  have e4 : ¬ 1023 ≤ (through (noteUpstream s f) f).hops + 1 := by omega
  simp [receive, h1, h2, e1, e2, e3, forward, e4]

/-- The own frame that comes round whole is taken off the ring. -/
theorem receive_back {back use : State → Frame → State} {through : State → Frame → Frame}
    (h : comesBack s f type) : receive s f back use through = back (noteUpstream s f) f := by
  obtain ⟨h1, h2, rfl, h4, h5⟩ := h
  have e1 : isOwn (noteUpstream s f) f = true := by simpa [isOwn, noteUpstream_jx] using h4
  simp [receive, h1, h2, h5, e1]

end Sys2Proof.Machine
end

