-- ==== Sys2Proof/Tests/Slice0.lean ====
section
/-!
SUPPORT. Our own tests: ill-formed commands are refused, the worked examples of the manual come out as it works
them, and for every statement with hypotheses a state and operands that meet them (witness_…).
-/

set_option Elab.async false
set_option linter.unusedVariables false


namespace Sys2Proof.Tests

open Sys2Proof Sys2Proof.Machine

/-! ## States and operands for the witnesses -/

/-- The reset state in another mode. -/
def inMode (m : Mode) : State := { State.reset with mod := { State.reset.mod with mode := m } }
/-- A module whose timebase runs. -/
def live (m : Mode) : State := { inMode m with tb := { State.reset.tb with running := true } }
/-- A tick after the collector's last. -/
def later (m : Mode) : State :=
  { inMode m with tb := { State.reset.tb with running := true, now := 5 }, flt := { State.reset.flt with tick := 4 } }
/-- PORST_N and PE_PERST_N are high. -/
def powered (s : State) : State := { s with pins := { s.pins with porstN := true, perstN := true } }
/-- One channel otherwise. -/
def setCh (s : State) (c : Fin 128) (f : Channel → Channel) : State := { s with ch := s.ch.set c (f s.ch[c]) }
/-- WAGGLE's stop cause. -/
def causeIs (n : Nat) (s : State) : State := { s with flt := { s.flt with stopCause := n } }

/-- An image that declares nothing. -/
def emptyImage : Image :=
  { formatOk := true, auto := true, frame := 800, startSet := [], armed := [], channels := [], parts := []
    tables := [], streams := [], ringCfgs := [], queues := [], wmMaps := [], trigs := [], timers := []
    encoders := [], sram := 0, calAuto := false, jxCfg := 0x01000000, jxTxShare := 0, jxLossTmo := 600000
    rxRings := [] }
/-- The secure core finds its key store and both slots whole. -/
def goodCheck : SecureCheck := ⟨true, true, true⟩
/-- A report with nothing wrong. -/
def goodReport : BootReport :=
  { secure := goodCheck, pllLocked := true, causewaysTrained := true, storeTrained := true
    flash := .octal, headerOk := true, length := 4096, flashSize := 8192, encrypted := false, hash := 0
    body := [1, 2], signatureOk := true, tagOk := true, image := emptyImage, micros := 10 }
/-- BOOT with n steps done. -/
def bootAt (n : Nat) : State := { inMode .boot with boot := { State.reset.boot with step := n } }
/-- A key that verifies images is bound, in a record that passed. -/
def keyed (s : State) : State := { s with sec := { s.sec with imgKey := some 1, recordOk := true } }
/-- The body has been read. -/
def loaded (s : State) : State := { s with boot := { s.boot with image := some emptyImage } }

/-- A boundary at which nothing is read. -/
def quietFrame : FrameInputs := { readings := [], raw := [], csl := [], rails := Vector.replicate 7 0, crossbarBad := [] }
/-- An SSI input with an error run. -/
def ssiState (n : Nat) : State :=
  let e := { State.reset.seq.enc[0] with cfg := State.reset.seq.enc[0].cfg ||| 1, transfer := true, errSeq := n }
  { live .run with seq := { State.reset.seq with enc := State.reset.seq.enc.set 0 e } }
/-- The store with one TABLE and one CAPTURE partition. -/
def withParts (s : State) : State :=
  { s with sto := { s.sto with parts := (s.sto.parts.set 0 ⟨0, 1, 1⟩).set 1 ⟨1, 1, 2⟩ } }
/-- A channel whose list of one step may be armed. -/
def armable : State :=
  setCh (withParts (inMode .run)) 0 fun h => { h with cfg := { h.cfg with swBase := 1048576, swLen := 1 } }
/-- A step with a measure window, a trigger and a timeout. -/
def aStep : SweepStep := ⟨0, 0, 0, 400, 10, 4, 0, 1, 0, 0, 1⟩
/-- Channel 0 stands in that step. -/
def stepping (x : ListState) : State :=
  setCh { inMode .run with tb := { State.reset.tb with running := true, now := 800, last := 800 } } 0 fun h =>
    { h with cfg := { h.cfg with swLen := 1 }
             sw := { h.sw with state := x, step := some aStep, base := some 0, trigAt := none, repeats := 0 } }
/-- An aperture's result. -/
def anAperture : Aperture := ⟨1, 2, false, false⟩
/-- A run of unit 0 of a comb. -/
def aRun (kind : RunKind) (phase : RunPhase) (rec_ : Option Record) : CalRun :=
  ⟨0, some 0, kind, phase, rec_, false, 0, false⟩
/-- A calibration run stands in comb 0, with commits of its own. -/
def inRun (r : CalRun) (l : List (Fin 9 × Record)) : State :=
  { live .run with comb := State.reset.comb.set 0 { State.reset.comb[0] with run := some r, commits := l } }
/-- A calibration record. -/
def aRecord : Record := { Record.factory with count := 1, temp := 25, seq := 1 }
/-- What an internal run has measured. -/
def aResult : RunResult := ⟨Trims.zero, false, 0, 25⟩
/-- What a terminal run has measured. -/
def aTermResult : TermResult := ⟨0, 0, Vector.replicate 8 0, 0, 0, 0, 25⟩

/-- A ring of 255 blocks and a stream that feeds it. -/
def captured : State :=
  let s := withParts (inMode .run)
  { s with sto := { s.sto with stream := s.sto.stream.set 2047 { s.sto.stream[2047] with age := 10 } } }
/-- An open stream with one word in its block, and n blocks in the ring. -/
def blockOpen (n : Nat) : State :=
  let s := withParts (inMode .run)
  { s with
    tb := { s.tb with running := true, now := 8000000, last := 8000000 }
    sto := { s.sto with
      stream := s.sto.stream.set 0 { s.sto.stream[0] with opened := true, age := 10, block := [7], ts := 0 }
      ring := s.sto.ring.set 0 { s.sto.ring[0] with wp := n } } }
/-- An open raw stream of channel 0 with one code. -/
def rawOpen : State :=
  let s := setCh (withParts (inMode .run)) 0 fun h => { h with cfg := { h.cfg with func := .fv } }
  { s with
    tb := { s.tb with running := true, now := 10 }
    sto := { s.sto with
      stream := s.sto.stream.set 0
        { s.sto.stream[0] with cfg := 6, opened := true, age := 10, raw := [7], nextCode := 10 } } }
/-- A descriptor waits on engine 7; partition 0 is a TABLE of 16 MiB. -/
def dmaState : State :=
  let s := powered (inMode .run)
  { s with
    dma := s.dma.set 7 { s.dma[7] with en := true, tail := 1 }
    sto := { s.sto with parts := s.sto.parts.set 0 ⟨0, 16, 2⟩ } }
/-- A request of an OP waits on SC channel 3 of a session. -/
def session (op : Nat) : State :=
  let s := powered (inMode .run)
  { s with
    sec := { s.sec with auth := true, session := some 1 }
    mbx := s.mbx.set 19 { s.mbx[19] with
      h2c := { s.mbx[19].h2c with full := true, data := BitVec.ofNat 32 (op * 2 ^ 24 + 2 ^ 16) } } }

/-- A frame from member 3. -/
def frameOf (type dst hops arg len : Nat) (pay : List Byte) : Frame :=
  sealFrame ⟨type, dst, 3, hops, len, 5, arg, pay, false, 0⟩
/-- A member with id 7 on a FORMED ring. -/
def member : State :=
  { inMode .run with jx := { State.reset.jx with cfg := 0x01000001, bypassed := false, id := 7, state := 3 } }
/-- A member without an id. -/
def newcomer : State := { member with jx := { member.jx with id := 1023, state := 2 } }
/-- The master, its first pass out. -/
def ringMaster : State := { member with jx := { member.jx with cfg := 0x01000003, id := 0, enumPass := 1 } }
/-- A frame for member 7. -/
def toMember (type arg : Nat) (pay : List Byte) (len : Nat) : Frame := frameOf type 7 0 arg len pay
/-- A transit frame. -/
def passing (hops : Nat) : Frame := frameOf 1 9 hops 1 8 (toBytes 8 0)
/-- A request of member 7 that has come round. -/
def ownFrame : Frame := sealFrame ⟨1, 9, 7, 2, 8, 5, 1, toBytes 8 0, false, 0⟩
/-- A TIME frame. -/
def timeFrame : Frame := frameOf 0x12 1023 0 0 32 (timePayload 1000 0 0 1 2)
/-- An ENUM frame with bit 0 set. -/
def enumFrame (pass : Nat) : Frame := frameOf 0x13 1023 0 pass 136 (enumPayload 1 0)
/-- An EVENT frame: event 5 at tick 100, HOLD. -/
def eventFrame : Frame := frameOf 0x10 1023 0 0 16 (toBytes 8 100 ++ toBytes 8 261)
/-- A FAULT6 frame. -/
def faultFrame (src : Nat) : Frame := sealFrame ⟨0x11, 1023, src, 0, 16, 5, 0, List.replicate 16 0, false, 0⟩
/-- A member whose receive ring 0 is partition 0. -/
def receiver : State :=
  let s := withParts member
  { s with jx := { s.jx with rx := s.jx.rx.set 0 0x80000000 } }
/-- A member with a block to send. -/
def egress : State :=
  let s := withParts member
  { s with sto := { s.sto with ring := s.sto.ring.set 0 { s.sto.ring[0] with cfg := 9, wp := 1 } } }
/-- A RUNNING channel of a loop, with more asked of it. -/
def looping (f : Channel → Channel) : State :=
  setCh (live .run) 0 fun h => f { h with state := .running, cfg := { h.cfg with func := .fv } }
/-- A sentinel report so slow that no account keeps its margin. -/
def slow (s : State) : State := { s with ldg := { s.ldg with ts := 1, fixed := true } }
/-- An open stream of the apertures of channel 0's step, and a result with CAPTURE. -/
def feeding : State :=
  let s := setCh (stepping .playing) 0 fun h => { h with
    cfg := { h.cfg with func := .fv }, sw := { h.sw with results := [(anAperture, true, 5)] } }
  { s with sto := { s.sto with stream := s.sto.stream.set 2047 { s.sto.stream[2047] with cfg := 5, opened := true } } }
/-- A START that no account has room for. -/
def slowStart : State := slow (setCh (inMode .run) 0 fun h => { h with startReq := true, cfg := { h.cfg with func := .fv } })
/-- An ARM that no account has room for. -/
def slowArm : State := slow (setCh armable 0 fun h => { h with sw := { h.sw with armReq := true } })
/-- READY asked for where no account has room. -/
def slowReady : State := slow { inMode .safe with mod := { (inMode .safe).mod with readyReq := true } }
/-- A period asked for where no account has room. -/
def slowPeriod : State := slow { inMode .run with tb := { State.reset.tb with reqPend := true } }

theorem streamsOf_feeding : streamsOf feeding 0 (· == 5) = [2047] := by
  have h : ∀ n : Fin 2048, (feeding.sto.stream[n].opened && strCh feeding.sto.stream[n].cfg == 0 &&
      strSrc feeding.sto.stream[n].cfg == 5) = decide (n = 2047) := by
    intro n
    by_cases hn : n = 2047
    · subst hn; decide +kernel
    · have e : feeding.sto.stream[n].opened = false := by
        have hv : n.val ≠ 2047 := fun h => hn (Fin.ext h)
        simp only [feeding, Fin.getElem_fin]
        rw [Vector.getElem_set_ne _ _ (Ne.symm hv)]
        exact congrArg Stream.opened (Vector.getElem_replicate n.isLt)
      rw [e]; simp [hn]
  unfold streamsOf
  simp only [h]
  decide +kernel
/-- Contender A of R148: KI 5×10^5, every limit ±15 V. -/
def ctA : Coef := ⟨0, 0x411E848000000000, 0, 0, 0, 0, 0xC02E000000000000, 0x402E000000000000, 0xC02E000000000000, 0x402E000000000000, 0⟩
/-- Contenders B and C of R148: KI 1×10^10. -/
def ctB : Coef := { ctA with ki := 0x4202A05F20000000 }

theorem witness_every_step_answers_next_2 : ∃ (s : State), (s.pending = []) :=
  ⟨State.reset, by decide +kernel⟩

theorem witness_power_loss_leaves_bypass_1 : ∃ (s : State), (s.mod.mode ≠ .opened) :=
  ⟨inMode .run, by decide +kernel⟩

theorem witness_power_loss_leaves_bypass_2 : ∃ (s : State), (s.mod.mode = .opened) :=
  ⟨inMode .opened, by decide +kernel⟩

theorem witness_power_loss_leaves_bypass_4 : ∃ (rail : Fin 7) (s : State), (s.mod.mode ≠ .bypass) ∧
    (s.mod.mode ≠ .opened) :=
  ⟨3, inMode .run, by decide +kernel⟩

theorem witness_power_loss_leaves_bypass_5 : ∃ (rail : Fin 7) (s : State), (s.mod.mode = .bypass ∨
    s.mod.mode = .opened) :=
  ⟨3, inMode .opened, by decide +kernel⟩

theorem witness_power_good_starts_boot_1 : ∃ (x : PowerUp) (s : State), (s.mod.mode = .bypass) ∧
    (s.mod.collStall = true) :=
  ⟨⟨true, goodCheck⟩, { State.reset with mod := { State.reset.mod with collStall := true } }, by decide +kernel⟩

theorem witness_power_good_starts_boot_2 : ∃ (x : PowerUp) (s : State), (s.mod.mode = .bypass) ∧
    (s.mod.collStall = false) :=
  ⟨⟨true, goodCheck⟩, State.reset, by decide +kernel⟩

theorem witness_power_good_starts_boot_3 : ∃ (x : PowerUp) (s : State), (s.mod.mode = .opened) ∧
    (s.pins.porstN = false) :=
  ⟨⟨true, goodCheck⟩, inMode .opened, by decide +kernel⟩

theorem witness_power_manager_1 : ∃ (rail : Fin 7) (above : Bool) (s : State), (regsUp s = true) :=
  ⟨0, true, inMode .run, by decide +kernel⟩

theorem witness_power_manager_2 : ∃ (c : Instr) (rail : Fin 7) (above : Bool) (s : State), (s.mod.mode =
    .boot) ∧ (s.mod.collStall = false) ∧ (c = .supplyWindowViolation rail above ∨ c = .vcoreMismatch above) :=
  ⟨.supplyWindowViolation 3 true, 3, true, inMode .boot, by decide +kernel⟩

theorem witness_power_manager_3 : ∃ (above : Bool) (s : State), (regsUp s = true) :=
  ⟨true, inMode .run, by decide +kernel⟩

theorem witness_power_manager_6 : ∃ (temps : Vector Rat 22) (s : State), (s.mod.mode ≠ .bypass) :=
  ⟨Vector.replicate 22 25, inMode .run, by decide +kernel⟩

theorem witness_power_manager_7 : ∃ (r : Vector Rat 16) (s : State), (s.mod.mode ≠ .bypass) :=
  ⟨Vector.replicate 16 1, inMode .run, by decide +kernel⟩

theorem witness_power_manager_8 : ∃ (die : Fin 2) (retrain : Bool) (s : State), (regsUp s = true) :=
  ⟨1, true, inMode .run, by decide +kernel⟩

theorem witness_power_manager_9 : ∃ (s : State), (mayStepDown s = true) :=
  ⟨{ inMode .run with tb := { State.reset.tb with now := 8000000 }, ldg := { State.reset.ldg with fixed := true, aboveSince := some 0, vcore := 800, ts := 1 / 2000000000 } },
    by decide +kernel⟩

theorem witness_power_manager_10 : ∃ (s : State), (s.ldg.waitSense = true) :=
  ⟨{ inMode .boot with ldg := { State.reset.ldg with waitSense := true } }, by decide +kernel⟩

theorem witness_power_manager_11 : ∃ (v : Word) (s : State), (regsUp s = true) :=
  ⟨600, inMode .run, by decide +kernel⟩

theorem witness_estop_opens_every_output_1 : ∃ (s : State), (s.pins.estopLow = false) ∧ (s.mod.mode ≠
    .bypass) :=
  ⟨inMode .boot, by decide +kernel⟩

theorem witness_host_link_2 : ∃ (c : Instr) (s : State), (linkLive s = true) ∧ (c = .pePerstNChange false ∨
    c = .flr) :=
  ⟨.flr, powered (inMode .run), by decide +kernel⟩

theorem witness_host_link_3 : ∃ (rate width : Nat) (s : State), (linkLive s = true) ∧ (s.pins.perstN = true)
    ∧ (linkOk rate width = true) :=
  ⟨5, 4, powered (inMode .run), by decide +kernel⟩

theorem witness_host_link_4 : ∃ (enter : Bool) (s : State), (linkLive s = true) ∧ (s.pins.perstN = true) :=
  ⟨true, powered (inMode .run), by decide +kernel⟩

theorem witness_boot_steps_1 : ∃ (r : BootReport) (s : State), (s.mod.mode = .boot) ∧ (s.boot.step = 0) ∧
    (s.sec.erased = true ∨ r.secure.keyStoreOk = true) ∧ (r.pllLocked = true) ∧ (r.causewaysTrained = true) :=
  ⟨goodReport, bootAt 0, by decide +kernel⟩

theorem witness_boot_steps_2 : ∃ (r : BootReport) (s : State), (s.mod.mode = .boot) ∧ (s.boot.step = 1) ∧
    (r.storeTrained = true) ∧ (r.flash ≠ .absent) :=
  ⟨goodReport, bootAt 1, by decide +kernel⟩

theorem witness_boot_steps_3 : ∃ (r : BootReport) (s : State), (s.mod.mode = .boot) ∧ (s.boot.step = 2) ∧
    (r.headerOk = true) ∧ (r.length ≤ 67108864) ∧ (r.length ≤ r.flashSize) :=
  ⟨goodReport, bootAt 2, by decide +kernel⟩

theorem witness_boot_steps_4 : ∃ (r : BootReport) (s : State), (s.mod.mode = .boot) ∧ (s.boot.step = 3) ∧
    (s.boot.encrypted = true → s.sec.decKey.isSome = true) ∧ (storeCanonical s) ∧ (r.body.length ≤ 67108864) :=
  ⟨goodReport, bootAt 3, rfl, rfl, by decide +kernel, by unfold storeCanonical; decide +kernel,
    by decide +kernel⟩

theorem witness_boot_steps_5 : ∃ (r : BootReport) (s : State), (s.mod.mode = .boot) ∧ (s.boot.step = 4) ∧
    (s.sec.imgKey.isSome = true) ∧ (s.sec.recordOk = true) ∧ (r.signatureOk = true) ∧ (s.boot.encrypted = true →
    r.tagOk = true) :=
  ⟨goodReport, keyed (bootAt 4), by decide +kernel⟩

theorem witness_boot_steps_6 : ∃ (r : BootReport) (m : Image) (s : State), (s.mod.mode = .boot) ∧
    (s.boot.step = 5) ∧ (s.boot.image = some m) ∧ (imageFormatOk m = true) ∧ (imageConflict m = false) :=
  ⟨goodReport, emptyImage, loaded (bootAt 5), by decide +kernel⟩

theorem witness_boot_steps_7 : ∃ (r : BootReport) (m : Image) (s : State), (s.mod.mode = .boot) ∧
    (s.boot.step = 6) ∧ (s.boot.image = some m) :=
  ⟨goodReport, emptyImage, loaded (bootAt 6), by decide +kernel⟩

theorem witness_boot_steps_8 : ∃ (r : BootReport) (s : State), (s.mod.mode = .boot) ∧ (s.boot.step = 7) :=
  ⟨goodReport, bootAt 7, by decide +kernel⟩

theorem witness_boot_steps_9 : ∃ (r : BootReport) (s : State), (s.mod.mode = .boot) ∧ (s.boot.step = 8) :=
  ⟨goodReport, bootAt 8, by decide +kernel⟩

theorem witness_boot_failure_locks_down_1 : ∃ (r : BootReport) (s : State) (err : Nat), (s.mod.mode = .boot)
    ∧ (s.mod.collStall = false) ∧ (s.boot.step = 0 ∧ (s.sec.erased = true ∨ r.secure.keyStoreOk = true) ∧
    (r.pllLocked = false ∧ s.tb.running = false ∨ r.causewaysTrained = false) ∧ err = 0x0A ∨ s.boot.step = 1 ∧
    r.storeTrained = false ∧ err = 0x09 ∨ s.boot.step = 1 ∧ r.storeTrained = true ∧ r.flash = .absent ∧ err =
    0x01 ∨ s.boot.step = 2 ∧ r.headerOk = false ∧ err = 0x02 ∨ s.boot.step = 2 ∧ r.headerOk = true ∧
    (r.flashSize < r.length ∨ 67108864 < r.length) ∧ err = 0x03 ∨ s.boot.step = 3 ∧ s.boot.encrypted = true ∧
    s.sec.decKey = none ∧ err = 0x05 ∨ s.boot.step = 4 ∧ (s.sec.imgKey = none ∨ s.sec.recordOk = false ∨
    r.signatureOk = false) ∧ err = 0x04 ∨ s.boot.step = 4 ∧ s.sec.imgKey.isSome = true ∧ s.sec.recordOk = true ∧
    r.signatureOk = true ∧ s.boot.encrypted = true ∧ r.tagOk = false ∧ err = 0x06 ∨ s.boot.step = 5 ∧ (∃ m,
    s.boot.image = some m ∧ imageFormatOk m = false) ∧ err = 0x07 ∨ s.boot.step = 5 ∧ (∃ m, s.boot.image = some
    m ∧ imageFormatOk m = true ∧ imageConflict m = true) ∧ err = 0x08) :=
  ⟨{ goodReport with storeTrained := false }, bootAt 1, 9, rfl, rfl, Or.inr (Or.inl (by decide +kernel))⟩

theorem witness_boot_failure_locks_down_2 : ∃ (r : BootReport) (s : State), (s.mod.mode = .boot) ∧
    (s.mod.collStall = false) ∧ (s.boot.step = 0) ∧ (s.sec.erased = false) ∧ (r.secure.keyStoreOk = false) :=
  ⟨{ goodReport with secure := ⟨false, true, true⟩ }, bootAt 0, by decide +kernel⟩

theorem witness_boot_failure_locks_down_3 : ∃ (s : State), (s.mod.mode = .boot) ∧ (s.mod.collStall = false)
    :=
  ⟨bootAt 3, by decide +kernel⟩

theorem witness_mode_commands_1 : ∃ (s : State), (s.mod.mode = .safe) ∧ (∀ c : Fin 128, s.ch[c].state ≠
    .safed) :=
  ⟨inMode .safe, by decide +kernel⟩

theorem witness_mode_commands_2 : ∃ (s : State), (s.mod.mode = .ready ∨ s.mod.mode = .hold) :=
  ⟨inMode .ready, by decide +kernel⟩

theorem witness_mode_commands_3 : ∃ (s : State), (s.mod.mode = .run) :=
  ⟨inMode .run, by decide +kernel⟩

theorem witness_mode_commands_4 : ∃ (s : State), (s.mod.mode = .ready ∨ s.mod.mode = .run ∨ s.mod.mode =
    .hold) ∧ (s.mod.safePend = false) :=
  ⟨inMode .hold, by decide +kernel⟩

theorem witness_mode_commands_5 : ∃ (c : Instr) (s : State), (s.mod.mode ≠ .bypass) ∧ (c = .ready ∧
    (s.mod.mode ≠ .safe ∨ ∃ n : Fin 128, s.ch[n].state = .safed) ∨ c = .run ∧ s.mod.mode ≠ .ready ∧ s.mod.mode ≠
    .hold ∨ c = .hold ∧ s.mod.mode ≠ .run ∨ c = .safe ∧ s.mod.mode ≠ .ready ∧ s.mod.mode ≠ .run ∧ s.mod.mode ≠
    .hold) :=
  ⟨.ready, inMode .run, by decide +kernel⟩

theorem witness_mode_commands_6 : ∃ (s : State), (s.mod.mode ≠ .bypass) :=
  ⟨inMode .boot, by decide +kernel⟩

theorem witness_mode_commands_7 : ∃ (s : State), (s.mod.mode = .lockdown) ∧ (s.mod.collStall = false) ∧ (∀ k
    : Fin 29, s.flt.outLvl[k] = 0) ∧ (s.mod.fromBoot = false) :=
  ⟨inMode .lockdown, by decide +kernel⟩

theorem witness_mode_commands_8 : ∃ (s : State), (s.mod.mode = .lockdown) ∧ (s.mod.collStall = false) ∧ (∀ k
    : Fin 29, s.flt.outLvl[k] = 0) ∧ (s.mod.fromBoot = true) :=
  ⟨{ inMode .lockdown with mod := { (inMode .lockdown).mod with fromBoot := true } }, by decide +kernel⟩

theorem witness_mode_commands_9 : ∃ (s : State), (s.mod.mode ≠ .bypass) ∧ (s.mod.mode ≠ .lockdown ∨
    s.mod.collStall = true ∨ ∃ k : Fin 29, s.flt.outLvl[k] ≠ 0) :=
  ⟨inMode .run, by decide +kernel⟩

theorem witness_mode_commands_10 : ∃ (s : State), (s.mod.mode = .safe) ∧ (s.mod.readyReq = true) ∧
    (s.mod.readyAdmitted = true) ∧ (s.mod.refSettled = true) ∧ (∀ c : Fin 128, s.ch[c].state = .stopped) ∧ (∀ p
    : Fin 144, s.unit[p].dueInit = false) :=
  ⟨{ inMode .safe with mod := { (inMode .safe).mod with readyReq := true, readyAdmitted := true, refSettled := true } },
    by decide +kernel⟩

theorem witness_frames_and_misses_1 : ∃ (f : FrameInputs) (s : State), (s.tb.running = true) ∧ (channelsLive
    s = true) :=
  ⟨quietFrame, live .run, by decide +kernel⟩

theorem witness_frames_and_misses_2 : ∃ (f : FrameInputs) (s : State), (s.tb.running = false) :=
  ⟨quietFrame, State.reset, by decide +kernel⟩

theorem witness_frames_and_misses_3 : ∃ (a : Account) (s : State), (channelsLive s = true) :=
  ⟨.engine 0, live .run, by decide +kernel⟩

theorem witness_frames_and_misses_4 : ∃ (a : Account) (s : State), (channelsLive s = true) ∧ (∃ r, a =
    .sequencer r) ∨ a = .ringSlots :=
  ⟨.ringSlots, live .run, by decide +kernel⟩

theorem witness_boundary_takes_mode_requests_1 : ∃ (f : FrameInputs) (s : State), (s.tb.running = true) ∧
    (s.flt.inbox = []) ∧ (s.mod.safeReq = false) ∧ (s.mod.safePend = false) :=
  ⟨quietFrame, live .run, by decide +kernel⟩

theorem witness_frame_runs_channels_1 : ∃ (f : FrameInputs) (c : Fin 128) (s : State), (PlainFrame s) ∧
    (s.ch[c].state = .running) ∧ (hasLoop s.ch[c].cfg = true) ∧ (s.ch[c].listQuiet) :=
  ⟨quietFrame, 0, looping id, by constructor <;> decide +kernel, by decide +kernel, by decide +kernel,
    by unfold Channel.listQuiet; decide +kernel⟩

theorem witness_frame_runs_channels_2 : ∃ (f : FrameInputs) (c : Fin 128) (s : State), (PlainFrame s) ∧
    (s.ch[c].state = .stopped) ∧ (s.ch[c].startReq = true) ∧ (s.pins.estopLow = false) ∧ (s.ch[c].reserved =
    true) ∧ (s.ch[c].listQuiet) :=
  ⟨quietFrame, 0, setCh (live .run) 0 fun h => { h with startReq := true, reserved := true },
    by constructor <;> decide +kernel, by decide +kernel, by decide +kernel, by decide +kernel, by decide +kernel,
    by unfold Channel.listQuiet; decide +kernel⟩

theorem witness_frame_runs_channels_3 : ∃ (f : FrameInputs) (c : Fin 128) (s : State), (PlainFrame s) ∧
    (s.ch[c].state = .safed) ∧ (s.ch[c].stopReq.isSome = true) ∧ (s.ch[c].out ≠ .ramp) ∧ (s.ch[c].listQuiet) :=
  ⟨quietFrame, 0, setCh (live .run) 0 fun h => { h with state := .safed, stopReq := some 0 },
    by constructor <;> decide +kernel, by decide +kernel, by decide +kernel, by decide +kernel,
    by unfold Channel.listQuiet; decide +kernel⟩

theorem witness_period_writes_and_ledger_refusals_1 : ∃ (v : Word) (s : State), (regsUp s = true) :=
  ⟨800, inMode .run, by decide +kernel⟩

theorem witness_period_writes_and_ledger_refusals_2 : ∃ (m : Master) (v w : Word) (s : State), (regsUp s =
    true) ∧ (masterUp s m = true) ∧ (heldOf s.bus.stages m.id 0x10010 = some w) :=
  ⟨.host, 0, 7, { powered (inMode .run) with bus := { State.reset.bus with stages := [(1, 0x10010, 7)] } },
    by decide +kernel⟩

theorem witness_period_writes_and_ledger_refusals_3 : ∃ (ch : Fin 128) (v : Verdict) (u s : State),
    (s.ch[ch].startReq = true) ∧ (s.ch[ch].state = .stopped) ∧ (s.mod.mode = .run) ∧ (s.mod.safePend = false) ∧
    (s.pins.estopLow = false) ∧ (s.ch[ch].reserved = false) ∧ (hasLoop s.ch[ch].cfg = true) ∧ (u =
    { s with ch := s.ch.set ch { s.ch[ch] with reserved := true } }) ∧ (verdictNow u (startAccounts s ch) false
    = v) ∧ (v ≠ .admitted) :=
  ⟨0, .refusedByStage, { slowStart with ch := slowStart.ch.set 0 { slowStart.ch[0] with reserved := true } },
    slowStart, by decide +kernel, by decide +kernel, rfl, rfl, rfl, by decide +kernel, by decide +kernel, rfl,
    by decide +kernel⟩

theorem witness_period_writes_and_ledger_refusals_4 : ∃ (ch : Fin 128) (v : Verdict) (u s : State),
    (s.ch[ch].sw.armReq = true) ∧ (armOk s ch = true) ∧ (s.ch[ch].sw.reserved = false) ∧ (u =
    { s with ch := s.ch.set ch { s.ch[ch] with sw := { s.ch[ch].sw with armReq := false, reserved := true } } })
    ∧ (verdictNow u [.sequencer (regionOf ch), .store] true = v) ∧ (v ≠ .admitted) :=
  ⟨0, .refusedByStage,
    { slowArm with ch := slowArm.ch.set 0 { slowArm.ch[0] with sw := { slowArm.ch[0].sw with armReq := false, reserved := true } } },
    slowArm, by decide +kernel, by decide +kernel, by decide +kernel, rfl, by decide +kernel⟩

theorem witness_period_writes_and_ledger_refusals_5 : ∃ (n : Fin 2048) (v : Verdict) (as : List Account) (u
    s : State), (mayOpen s n = true) ∧ (as = (if isEgress s s.sto.stream[n] then [.store, .ringSlots] else
    [.store])) ∧ (u =
    { s with sto := { s.sto with stream := s.sto.stream.set n { s.sto.stream[n] with rate := streamRate s s.sto.stream[n].cfg s.sto.stream[n].age } } })
    ∧ (verdictNow u as true = v) ∧ (v ≠ .admitted) :=
  ⟨2047, .refusedByStage, [.store], _, slow captured, by decide +kernel, by decide +kernel, rfl,
    by decide +kernel⟩

theorem witness_period_writes_and_ledger_refusals_6 : ∃ (b : Nat) (v : Verdict) (as : List Account) (u s :
    State), (s.tb.reqPend = true) ∧ (s.tb.changeAt = none) ∧ (s.tb.at_.toNat ≤ b) ∧ (as = (List.finRange 4).map
    .sequencer ++ (List.finRange 2).map .causeway ++ [.store, .ringSlots]) ∧ (u = underPeriod s s.tb.frame) ∧
    (verdict u as true = v) ∧ (v ≠ .admitted) :=
  ⟨800, .refusedByStage, _, underPeriod slowPeriod 800, slowPeriod, rfl, rfl, by decide +kernel, rfl, rfl,
    by decide +kernel⟩

theorem witness_period_writes_and_ledger_refusals_7 : ∃ (v : Verdict) (u s : State), (s.mod.readyReq = true)
    ∧ (s.mod.readyAdmitted = false) ∧ (s.mod.mode = .safe) ∧ (u = readyReservations s) ∧ (verdictNow u accounts
    true = v) ∧ (v ≠ .admitted) :=
  ⟨.refusedByStage, readyReservations slowReady, slowReady, rfl, rfl, rfl, rfl, by decide +kernel⟩

theorem witness_period_writes_and_ledger_refusals_8 : ∃ (q : Fin 32) (v : Verdict) (u s : State), (regsUp s
    = true) ∧ (s.sq[q].en = false) ∧ (u = { s with sq := s.sq.set q { s.sq[q] with en := true } }) ∧ (verdictNow
    u [.store] true = v) ∧ (v ≠ .admitted) :=
  ⟨31, .refusedByStage, _, slow (inMode .run), by decide +kernel, by decide +kernel, rfl, by decide +kernel⟩

theorem witness_period_writes_and_ledger_refusals_9 : ∃ (as : List Account) (u : State), (u.tb.changeAt =
    none) :=
  ⟨[.store], inMode .run, by decide +kernel⟩

theorem witness_waggle_pin_1 : ∃ (s : State), (s.mod.mode.operating = true) ∧ (s.flt.stopCause = 4) ∧
    (s.mod.collStall = false) ∧ (∀ k : Fin 29, s.flt.outLvl[k] < s.flt.wagLevel) :=
  ⟨causeIs 4 (inMode .safe), by decide +kernel⟩

theorem witness_waggle_pin_2 : ∃ (s : State), (s.mod.mode.operating = true) ∧ (s.flt.stopCause = 1 ∨
    s.flt.stopCause = 2) ∧ (s.mod.collStall = false) ∧ (∀ k : Fin 29, s.flt.outLvl[k] < s.flt.wagLevel) :=
  ⟨causeIs 1 (inMode .run), by decide +kernel⟩

theorem witness_waggle_pin_3 : ∃ (s : State), (s.pins.toggling = true) :=
  ⟨{ State.reset with pins := { State.reset.pins with toggling := true } }, by decide +kernel⟩

theorem witness_waggle_pin_4 : ∃ (s : State), (s.pins.toggling = false) :=
  ⟨State.reset, by decide +kernel⟩

theorem witness_waggle_pin_5 : ∃ (v : Word) (s : State), (regsUp s = true) ∧ (s.mod.collStall = false) ∧ (1
    ≤ field v 2 0) ∧ (field v 2 0 ≤ 5) :=
  ⟨5, inMode .run, by decide +kernel⟩

theorem witness_waggle_pin_6 : ∃ (v : Word) (s : State), (regsUp s = true) ∧ (s.mod.collStall = false) ∧
    (field v 2 0 < 1 ∨ 5 < field v 2 0) :=
  ⟨6, inMode .run, by decide +kernel⟩

theorem witness_start_and_stop_channels_1 : ∃ (ch : Fin 128) (s : State), (s.mod.mode = .run) ∧
    (s.mod.safePend = false) ∧ (s.pins.estopLow = false) ∧ (s.mod.collStall = false) ∧ (s.ch[ch].state =
    .stopped) ∧ (s.ch[ch].stopFrame ≠ some s.tb.last) ∧ (limitsMissing s.ch[ch].cfg = false) :=
  ⟨127, setCh (inMode .run) 127 fun h => { h with cfg := { h.cfg with func := .mv } }, by decide +kernel⟩

theorem witness_start_and_stop_channels_2 : ∃ (ch : Fin 128) (s : State), (regsUp s = true) ∧ (s.mod.mode ≠
    .run ∨ s.mod.safePend = true ∨ s.pins.estopLow = true ∨ s.mod.collStall = true ∨ s.ch[ch].state ≠ .stopped ∨
    s.ch[ch].stopFrame = some s.tb.last ∨ limitsMissing s.ch[ch].cfg = true) :=
  ⟨0, inMode .ready, by decide +kernel⟩

theorem witness_start_and_stop_channels_3 : ∃ (ch : Fin 128) (s : State), (s.mod.mode = .run ∨ s.mod.mode =
    .hold) ∧ (s.mod.safePend = false) ∧ (s.ch[ch].state = .running) ∧ (s.ch[ch].stopping = false) ∧
    (s.ch[ch].sw.state.isIdle = true) :=
  ⟨0, setCh (inMode .hold) 0 fun h => { h with state := .running }, by decide +kernel⟩

theorem witness_start_and_stop_channels_4 : ∃ (ch : Fin 128) (s : State), (regsUp s = true) ∧
    (s.mod.safePend = false) ∧ (s.ch[ch].state = .stopped) ∧ (s.ch[ch].startReq = true) ∧
    (s.ch[ch].sw.state.isIdle = true) :=
  ⟨0, setCh (inMode .run) 0 fun h => { h with startReq := true }, by decide +kernel⟩

theorem witness_start_and_stop_channels_5 : ∃ (ch : Fin 128) (s : State), (s.mod.mode.operating = true) ∧
    (s.mod.safePend = false) ∧ (s.ch[ch].state = .safed) :=
  ⟨0, setCh (inMode .run) 0 fun h => { h with state := .safed }, by decide +kernel⟩

theorem witness_start_and_stop_channels_6 : ∃ (ch : Fin 128) (s : State), (regsUp s = true) ∧
    (s.mod.safePend = false) ∧ (s.ch[ch].state = .starting) :=
  ⟨0, setCh (inMode .run) 0 fun h => { h with state := .starting }, by decide +kernel⟩

theorem witness_start_and_stop_channels_7 : ∃ (ch : Fin 128) (s : State), (s.ch[ch].state = .starting) :=
  ⟨0, setCh (inMode .run) 0 fun h => { h with state := .starting }, by decide +kernel⟩

theorem witness_start_and_stop_channels_8 : ∃ (ch : Fin 128) (s : State), (s.ch[ch].state = .running) ∧
    (s.ch[ch].stopping = true) ∧ (s.ch[ch].pg.segs = []) ∧ (s.ch[ch].pg.fresh = false) ∧ (s.ch[ch].pg.pos =
    b64ToRat s.ch[ch].cfg.pgInit) ∧ (s.mod.safePend = false) :=
  ⟨0, setCh (inMode .run) 0 fun h => { h with state := .running, stopping := true }, by decide +kernel⟩

theorem witness_start_and_stop_channels_9 : ∃ (ch : Fin 128) (from_ : Nat) (s : State), (s.ch[ch].out =
    .ramp) ∧ (s.ch[ch].rampFrom = some from_) ∧ (from_ + rzTicks s.ch[ch].cfg ≤ nextBoundary s) :=
  ⟨0, 0,
    { setCh (inMode .run) 0 (fun h => { h with out := .ramp, rampFrom := some 0 }) with tb := { State.reset.tb with now := 1000000000 } },
    by decide +kernel⟩

theorem witness_ranges_1 : ∃ (ch : Fin 128) (v : Word) (s : State), (regsUp s = true) ∧
    (s.ch[ch].sw.state.owns = false) ∧ (s.ch[ch].state ≠ .safed) ∧ (s.ch[ch].state ≠ .starting) ∧ (field v 1 0 ≤
    2) ∧ (field v 7 4 ≤ 11) :=
  ⟨0, 0xB2, inMode .run, by decide +kernel⟩

theorem witness_ranges_2 : ∃ (ch : Fin 128) (v : Word) (s : State), (regsUp s = true) ∧
    (s.ch[ch].sw.state.owns = false) ∧ (s.ch[ch].state = .safed ∨ s.ch[ch].state = .starting ∨ 2 < field v 1 0 ∨
    11 < field v 7 4) :=
  ⟨0, 0xC0, inMode .run, by decide +kernel⟩

theorem witness_ranges_3 : ∃ (ch : Fin 128) (v : Word) (s : State), (regsUp s = true) ∧
    (s.ch[ch].sw.state.owns = true) :=
  ⟨0, 0, setCh (inMode .run) 0 fun h => { h with sw := { h.sw with state := .playing } }, by decide +kernel⟩

theorem witness_ranges_4 : ∃ (ch : Fin 128) (q : RangeSeq) (s : State), (s.ch[ch].range.seq = some q) ∧
    (q.current = true) ∧ (16 ≤ q.frames) :=
  ⟨0, ⟨true, 3, 2, 16⟩,
    setCh (inMode .run) 0 fun h => { h with range := { h.range with seq := some ⟨true, 3, 2, 16⟩ } },
    by decide +kernel⟩

theorem witness_ranges_5 : ∃ (ch : Fin 128) (q : RangeSeq) (s : State), (s.ch[ch].range.seq = some q) ∧
    (q.current = false) :=
  ⟨0, ⟨false, 1, 2, 0⟩,
    setCh (inMode .run) 0 fun h => { h with range := { h.range with seq := some ⟨false, 1, 2, 0⟩ } },
    by decide +kernel⟩

theorem witness_ranges_6 : ∃ (ch : Fin 128) (s : State), (arOn s.ch[ch].cfg = true) ∧ (s.ch[ch].state =
    .running) ∧ (s.ch[ch].range.downCount = 16) ∧ (arMin s.ch[ch].cfg + 1 ≤ s.ch[ch].range.iAct) ∧
    (s.ch[ch].range.iAct ≤ arMax s.ch[ch].cfg + 1) ∧ (s.ch[ch].range.seq = none) :=
  ⟨0,
    setCh (inMode .run) 0 fun h => { h with state := .running, cfg := { h.cfg with func := .fv, ar := 0xB001 }, range := { h.range with downCount := 16, iAct := 11 } },
    by decide +kernel⟩

theorem witness_unit_faults_1 : ∃ (ch : Fin 128) (amps : Rat) (normal : Bool) (s : State), (channelsLive s =
    true) ∧ (masked s ch normal = false) ∧ (6 / 5 * iFull s.ch[ch].cfg (clampCode s.ch[ch]) < absR amps) :=
  ⟨0, 1000, false, live .run, by decide +kernel⟩

theorem witness_unit_faults_2 : ∃ (ch : Fin 128) (volts : Rat) (normal : Bool) (s : State), (channelsLive s
    = true) ∧ (masked s ch normal = false) ∧ (ovLim s.ch[ch].cfg : Rat) / 100 * vFs s.ch[ch] < absR volts ∨ 33 /
    2 < absR volts :=
  ⟨0, 1000, false, live .run, by decide +kernel⟩

theorem witness_unit_faults_3 : ∃ (ch : Fin 128) (x : Rat) (normal : Bool) (s : State), (masked s ch normal
    = true) :=
  ⟨0, 1000, true, { live .run with comb := State.reset.comb.set 0 { State.reset.comb[0] with serve := 0 } },
    by decide +kernel⟩

theorem witness_unit_faults_4 : ∃ (ch : Fin 128) (c : Instr) (kind : Nat) (s : State), (channelsLive s =
    true) ∧ (c = .clampActive ch ∧ s.ch[ch].ms.clampDue = true ∧ kind = 0x03 ∨ c = .leadDrop ch ∧
    s.ch[ch].ms.leadDue = true ∧ kind = 0x06 ∨ c = .modelResidual ch ∧ s.ch[ch].eng.resDue = true ∧ kind = 0x08
    ∨ c = .feedbackFrozen ch ∧ s.ch[ch].eng.frzDue = true ∧ kind = 0x07) :=
  ⟨0, .clampActive 0, 3, setCh (live .run) 0 fun h => { h with ms := { h.ms with clampDue := true } },
    by decide +kernel⟩

theorem witness_unit_faults_5 : ∃ (comb : Fin 16) (s : State), (s.comb[comb].cslDue = true) :=
  ⟨0, { inMode .run with comb := State.reset.comb.set 0 { State.reset.comb[0] with cslDue := true } },
    by decide +kernel⟩

theorem witness_unit_faults_6 : ∃ (die : Fin 2) (s : State), (1000 ≤ s.pwr.overFrames[die]) ∧ (isPresent s
    0x0E (0x300 + die.val) = false) :=
  ⟨0, { inMode .run with pwr := { State.reset.pwr with overFrames := Vector.replicate 2 1000 } },
    by decide +kernel⟩

theorem witness_unit_faults_7 : ∃ (ch : Fin 128) (code : Fin 16) (current normal : Bool) (s : State),
    (channelsLive s = true) ∧ (masked s ch normal = false) :=
  ⟨0, 11, true, false, live .run, by decide +kernel⟩

theorem witness_unit_faults_8 : ∃ (ch : Fin 128) (s : State), (s.ch[ch].ms.openDue = true) :=
  ⟨0, setCh (inMode .run) 0 fun h => { h with ms := { h.ms with openDue := true } }, by decide +kernel⟩

theorem witness_unit_faults_9 : ∃ (ch : Fin 128) (s : State), (s.ch[ch].ms.monDue = true) :=
  ⟨0, setCh (inMode .run) 0 fun h => { h with ms := { h.ms with monDue := true } }, by decide +kernel⟩

theorem witness_live_settings_and_deglitch_1 : ∃ (ch : Fin 128) (v : DWord) (s : State), (regsUp s = true) ∧
    (s.ch[ch].sw.state.owns = false) :=
  ⟨0, 0, inMode .run, by decide +kernel⟩

theorem witness_live_settings_and_deglitch_2 : ∃ (ch : Fin 128) (hi : Bool) (v : DWord) (s : State), (regsUp
    s = true) ∧ (s.ch[ch].sw.state.owns = false) :=
  ⟨0, true, 0, inMode .run, by decide +kernel⟩

theorem witness_live_settings_and_deglitch_3 : ∃ (c : Instr) (ch : Fin 128) (hi : Bool) (v : DWord) (s :
    State), (regsUp s = true) ∧ (s.ch[ch].sw.state.owns = true) ∧ (c = .pgTargetWrite ch v ∨ c = .chCompWrite ch
    hi v) :=
  ⟨.pgTargetWrite 0 0, 0, true, 0,
    setCh (inMode .run) 0 fun h => { h with sw := { h.sw with state := .playing } }, by decide +kernel,
    by decide +kernel, Or.inl rfl⟩

theorem witness_live_settings_and_deglitch_4 : ∃ (ch : Fin 128) (sel : Bool) (s : State), (regsUp s = true)
    :=
  ⟨0, true, inMode .run, by decide +kernel⟩

theorem witness_live_settings_and_deglitch_5 : ∃ (ch : Fin 128) (bankB : Bool) (offset : Nat) (v : DWord) (s
    : State), (regsUp s = true) ∧ (bankOffsetOk offset = true) :=
  ⟨0, false, 0x528, 0, inMode .run, by decide +kernel⟩

theorem witness_live_settings_and_deglitch_6 : ∃ (ch : Fin 128) (s : State), (s.ch[ch].dg.hold = true) ∧
    (voltSeq s.ch[ch] = false) :=
  ⟨0, setCh (inMode .run) 0 fun h => { h with dg := { h.dg with hold := true } }, by decide +kernel⟩

theorem witness_live_settings_and_deglitch_7 : ∃ (ch : Fin 128) (s : State), (s.ch[ch].dg.hold = true) ∧
    (voltSeq s.ch[ch] = true) :=
  ⟨0,
    setCh (inMode .run) 0 fun h => { h with dg := { h.dg with hold := true }, range := { h.range with seq := some ⟨false, 1, 2, 0⟩ } },
    by decide +kernel⟩

theorem witness_encoders_1 : ∃ (enc : Fin 32) (e : QuadEdge) (s : State), (channelsLive s = true) ∧ (encSsi
    s.seq.enc[enc] = false) :=
  ⟨31, .up, live .run, by decide +kernel⟩

theorem witness_encoders_2 : ∃ (enc : Fin 32) (s : State), (channelsLive s = true) ∧ (encSsi s.seq.enc[enc]
    = false) :=
  ⟨31, live .run, by decide +kernel⟩

theorem witness_encoders_3 : ∃ (enc : Fin 32) (started : Bool) (bits check : Nat) (s : State), (encSsi
    s.seq.enc[enc] = true) ∧ (s.seq.enc[enc].transfer = true) :=
  ⟨0, true, 5, 0, ssiState 0, by decide +kernel⟩

theorem witness_encoders_4 : ∃ (enc : Fin 32) (s : State), (encSsi s.seq.enc[enc] = true) ∧
    (s.seq.enc[enc].ssiFault = false) ∧ (field s.seq.enc[enc].errRun 3 0 + 1 ≤ s.seq.enc[enc].errSeq) :=
  ⟨0, ssiState 16, by decide +kernel⟩

theorem witness_arm_and_disarm_1 : ∃ (ch : Fin 128) (s : State), (regsUp s = true) ∧ (armOk s ch = true) :=
  ⟨0, armable, by decide +kernel⟩

theorem witness_arm_and_disarm_2 : ∃ (ch : Fin 128) (s : State), (s.ch[ch].sw.armReq = true) ∧ (armOk s ch =
    true) ∧ (s.ch[ch].sw.reserved = true ∨ verdictNow (updSw s ch fun w =>
    { w with armReq := false, reserved := true }) [.sequencer (regionOf ch), .store] true = .admitted) :=
  ⟨0, setCh armable 0 fun h => { h with sw := { h.sw with armReq := true, reserved := true } },
    by decide +kernel⟩

theorem witness_arm_and_disarm_3 : ∃ (ch : Fin 128) (f : FrameInputs) (s : State), (s.tb.running = true) ∧
    (s.flt.inbox = []) ∧ (s.mod.mode = .ready) ∧ (s.mod.safeReq = false) ∧ (s.mod.safePend = false) ∧
    (s.mod.holdReq = false) ∧ (s.mod.runReq = false) ∧ (s.ch[ch].state = .stopped) ∧ (s.ch[ch].startReq = false)
    ∧ (s.ch[ch].sw.armReq = true) ∧ (armOk s ch = true) ∧ (s.ch[ch].sw.reserved = true) :=
  ⟨0, quietFrame,
    setCh { armable with mod := { armable.mod with mode := .ready }, tb := { armable.tb with running := true } } 0 fun h => { h with sw := { h.sw with armReq := true, reserved := true } },
    by decide +kernel⟩

theorem witness_arm_and_disarm_4 : ∃ (ch : Fin 128) (s : State), (regsUp s = true) ∧ (armOk s ch = false) :=
  ⟨0, inMode .run, by decide +kernel⟩

theorem witness_arm_and_disarm_5 : ∃ (ch : Fin 128) (s : State), (regsUp s = true) ∧ (s.ch[ch].sw.state ≠
    .idle) :=
  ⟨0, setCh (inMode .run) 0 fun h => { h with sw := { h.sw with state := .armed } }, by decide +kernel⟩

theorem witness_sweep_progress_1 : ∃ (ch : Fin 128) (p : SweepStep) (b : Nat) (s : State), (s.mod.mode =
    .run) ∧ (s.ch[ch].sw.state = .playing) ∧ (s.ch[ch].sw.step = some p) ∧ (s.ch[ch].sw.base = some b) ∧ (b +
    p.hold ≤ nextBoundary s) ∧ (s.ch[ch].sw.endLate = false) ∧ (b + p.hold ≤ s.tb.last ∨ s.seq.missed[regionOf
    ch] = false) ∧ (fieldN p.trigOut 10 9 ≠ 3) ∧ (s.ch[ch].sw.pos + 1 = field s.ch[ch].cfg.swLen 20 0) ∧ (field
    s.ch[ch].sw.repeats 15 0 ≠ 65535) ∧ (field s.ch[ch].sw.repeats 15 0 ≤ s.ch[ch].sw.passes) :=
  ⟨0, aStep, 0, stepping .playing, by decide +kernel⟩

theorem witness_sweep_progress_2 : ∃ (ch : Fin 128) (p : SweepStep) (b : Nat) (s : State), (s.mod.mode =
    .run) ∧ (s.ch[ch].sw.state = .playing) ∧ (s.ch[ch].sw.step = some p) ∧ (s.ch[ch].sw.base = some b) ∧ (b +
    p.hold ≤ nextBoundary s) ∧ (s.ch[ch].sw.endLate = false) :=
  ⟨0, aStep, 0, stepping .playing, by decide +kernel⟩

theorem witness_sweep_progress_3 : ∃ (ch : Fin 128) (p : SweepStep) (b : Nat) (s : State), (s.mod.mode =
    .run) ∧ (s.ch[ch].sw.state = .playing) ∧ (s.ch[ch].sw.step = some p) ∧ (s.ch[ch].sw.base = some b) ∧
    (p.maper ≠ 0) ∧ (s.ch[ch].sw.windowOpen = false) ∧ (s.ch[ch].sw.windowDone = false) ∧ (b + p.mdelay ≤
    nextBoundary s) :=
  ⟨0, aStep, 0, stepping .playing, by decide +kernel⟩

theorem witness_sweep_progress_4 : ∃ (ch : Fin 128) (a : Aperture) (p : SweepStep) (b : Nat) (s : State),
    (s.ch[ch].sw.step = some p) ∧ (s.ch[ch].sw.base = some b) ∧ (s.ch[ch].sw.windowOpen = true) ∧ (b + p.mdelay
    + 10 * p.maper) / 10 * 10 ≤ nextBoundary s :=
  ⟨0, anAperture, aStep, 0,
    setCh (stepping .playing) 0 fun h => { h with sw := { h.sw with windowOpen := true } }, by decide +kernel⟩

theorem witness_sweep_progress_5 : ∃ (ch : Fin 128) (a : Aperture) (tick : Nat) (l : List (Aperture × Bool ×
    Nat)) (s : State), (s.ch[ch].sw.results = (a, false, tick) :: l) :=
  ⟨0, anAperture, 5, [(anAperture, true, 9)],
    setCh (stepping .playing) 0 fun h => { h with sw := { h.sw with results := [(anAperture, false, 5), (anAperture, true, 9)] } },
    by decide +kernel⟩

theorem witness_sweep_progress_6 : ∃ (ch : Fin 128) (a : Aperture) (tick : Nat) (l : List (Aperture × Bool ×
    Nat)) (n : Fin 2048) (s : State), (s.ch[ch].sw.results = (a, true, tick) :: l) ∧ (s.ch[ch].cfg.func ≠ .off)
    ∧ (streamsOf s ch (· == 5) = [n]) ∧ (s.sto.stream[n].block.length + 1 < 1024) :=
  ⟨0, anAperture, 5, [], 2047, feeding, by decide +kernel, by decide +kernel, streamsOf_feeding,
    by decide +kernel⟩

theorem witness_sweep_progress_7 : ∃ (ch : Fin 128) (p : SweepStep) (s : State), (s.mod.mode = .run) ∧
    (s.ch[ch].sw.state = .waiting) ∧ (s.ch[ch].sw.step = some p) ∧ (p.triggered = true) ∧ (p.tmo ≠ 0) ∧
    (s.ch[ch].sw.trigAt = none) ∧ (s.ch[ch].sw.waitFrom + 800 * p.tmo + 400 ≤ nextBoundary s) :=
  ⟨0, aStep, stepping .waiting, by decide +kernel⟩

theorem witness_sweep_progress_8 : ∃ (c : Fin 128) (a : Aperture) (s : State), (channelsLive s = true) ∧
    (s.ch[c].cfg.func ≠ .off) ∧ (dueBy s (hrEnd s.tb.now s.ch[c]) = true) :=
  ⟨0, anAperture,
    { setCh (live .run) 0 (fun h => { h with cfg := { h.cfg with func := .mv } }) with tb := { State.reset.tb with running := true, act := 800000, last := 80000, now := 80000 } },
    by decide +kernel⟩

theorem witness_triggers_and_events_1 : ∃ (pin : Fin 16) (rising : Bool) (s : State), (channelsLive s =
    true) ∧ (trigRole s.seq.trig[pin].cfg = 1) :=
  ⟨3, true,
    { live .run with seq := { State.reset.seq with trig := State.reset.seq.trig.set 3 { State.reset.seq.trig[3] with cfg := 1 } } },
    by decide +kernel⟩

theorem witness_triggers_and_events_2 : ∃ (pin : Fin 16) (s : State), (s.mod.mode = .run ∨ s.mod.mode =
    .hold) ∧ (trigRole s.seq.trig[pin].cfg = 3) :=
  ⟨3,
    { live .run with seq := { State.reset.seq with trig := State.reset.seq.trig.set 3 { State.reset.seq.trig[3] with cfg := 3 } } },
    by decide +kernel⟩

theorem witness_triggers_and_events_3 : ∃ (pin : Fin 16) (tick : Nat) (s : State), (s.mod.mode ≠ .hold) ∧
    (tick ∈ s.seq.trig[pin].pulses) ∧ (∀ x ∈ s.seq.trig[pin].pulses, tick ≤ x) ∧ (tick ≤ nextBoundary s) :=
  ⟨3, 40,
    { live .run with seq := { State.reset.seq with trig := State.reset.seq.trig.set 3 { State.reset.seq.trig[3] with cfg := 2, pulses := [90, 40] } } },
    by decide +kernel⟩

theorem witness_triggers_and_events_4 : ∃ (ch : Fin 128) (tick field_ : Nat) (pin : Fin 16) (s : State),
    (s.ch[ch].sw.outs = [(tick, field_)]) ∧ (s.ch[ch].sw.state ≠ .paused) ∧ (s.mod.mode ≠ .hold) ∧ (tick ≤
    nextBoundary s) ∧ (fieldN field_ 3 0 = 1) ∧ (fieldN field_ 8 4 = pin.val) ∧ (trigRole s.seq.trig[pin].cfg =
    2) :=
  ⟨0, 100, 0x31, 3,
    setCh ({ live .run with seq := { State.reset.seq with trig := State.reset.seq.trig.set 3 { State.reset.seq.trig[3] with cfg := 2 } } }) 0 fun h => { h with sw := { h.sw with outs := [(100, 0x31)] } },
    by decide +kernel⟩

theorem witness_triggers_and_events_5 : ∃ (region : Fin 4) (timer : Fin 16) (tick : Nat) (s : State),
    (channelsLive s = true) ∧ (nextFiring s.seq.timer[timerAt region timer] = some tick) ∧ (tick ≤ nextBoundary
    s) ∧ (tmrDest s.seq.timer[timerAt region timer].cfg = 0) :=
  ⟨3, 15, 800,
    { live .run with seq := { State.reset.seq with timer := State.reset.seq.timer.set 63 { State.reset.seq.timer[63] with cfg := 1, start := 800 } } },
    by decide +kernel⟩

theorem witness_triggers_and_events_6 : ∃ (event : Fin 32) (e : RingEvent) (tick : Nat) (s : State),
    (s.seq.events = [(e, tick)]) ∧ (e.event = event.val) ∧ (e.hold = false) ∧ (tick ≤ nextBoundary s) :=
  ⟨5, ⟨5, 100, false⟩, 120,
    { live .run with seq := { State.reset.seq with events := [(⟨5, 100, false⟩, 120)] } }, by decide +kernel⟩

theorem witness_triggers_and_events_7 : ∃ (event : Fin 32) (e : RingEvent) (tick : Nat) (s : State),
    (s.seq.events = [(e, tick)]) ∧ (e.event = event.val) ∧ (e.hold = true) ∧ (tick ≤ nextBoundary s) ∧
    (s.mod.mode = .run ∨ s.mod.mode = .hold) :=
  ⟨5, ⟨5, 100, true⟩, 120, { live .run with seq := { State.reset.seq with events := [(⟨5, 100, true⟩, 120)] } },
    by decide +kernel⟩

theorem witness_triggers_and_events_8 : ∃ (region : Fin 4) (v : Word) (s : State), (regsUp s = true) :=
  ⟨3, 7, inMode .run, by decide +kernel⟩

theorem witness_calibration_and_repair_requests_1 : ∃ (unit : Fin 144) (s : State), (regsUp s = true) :=
  ⟨143, inMode .run, by decide +kernel⟩

theorem witness_calibration_and_repair_requests_2 : ∃ (s : State), (regsUp s = true) :=
  ⟨inMode .run, by decide +kernel⟩

theorem witness_calibration_and_repair_requests_3 : ∃ (ch : Fin 128) (c : Instr) (k : RunKind) (s : State),
    (regsUp s = true) ∧ (c = .termOpen ch ∧ k = .termOpen ∨ c = .termShort ch ∧ k = .termShort) :=
  ⟨0, .termOpen 0, .termOpen, inMode .run, by decide +kernel⟩

theorem witness_calibration_and_repair_requests_4 : ∃ (ch : Fin 128) (s : State), (regsUp s = true) ∧
    (termOk s ch = false) :=
  ⟨0, inMode .run, by decide +kernel⟩

theorem witness_calibration_and_repair_requests_5 : ∃ (ch : Fin 128) (i : Fin 9) (rec_ : Record) (s :
    State), (regsUp s = true) ∧ (termOk s ch = true) ∧ (i = s.comb[combOf ch].map[slotOf ch]) ∧ (rec_ =
    { latestRec s (combOf ch) i with openOk := false, shortOk := false }) :=
  ⟨127, 7, _, setCh (inMode .run) 127 fun h => { h with cfg := { h.cfg with func := .fv } }, by decide +kernel,
    by decide +kernel, by decide +kernel, rfl⟩

theorem witness_calibration_and_repair_requests_6 : ∃ (s : State), (regsUp s = true) :=
  ⟨inMode .run, by decide +kernel⟩

theorem witness_calibration_and_repair_requests_7 : ∃ (comb : Fin 16) (i : Fin 8) (s : State), (regsUp s =
    true) ∧ (s.comb[comb].assigned = 15) ∧ (spareOut s comb = false) ∧ (repairing s.comb[comb] = false) ∧
    (s.ch[chanAt comb i].state = .safed ∨ s.ch[chanAt comb i].state = .stopped) :=
  ⟨0, 7, inMode .run, by decide +kernel⟩

theorem witness_calibration_and_repair_requests_8 : ∃ (comb : Fin 16) (i : Fin 8) (rec_ : Record) (l : List
    (Fin 9 × Record)) (s : State), (channelsLive s = true) ∧ (s.comb[comb].commits = (8, rec_) :: l) ∧
    (s.comb[comb].run = none) ∧ (s.comb[comb].repairCommit = some i) :=
  ⟨0, 7, aRecord, [],
    { inMode .run with comb := State.reset.comb.set 0 { State.reset.comb[0] with repairCommit := some 7, commits := [(8, aRecord)] } },
    by decide +kernel⟩

theorem witness_calibration_and_repair_requests_9 : ∃ (comb : Fin 16) (unit : Fin 16) (s : State), (regsUp s
    = true) ∧ (8 ≤ unit.val ∨ s.comb[comb].assigned ≠ 15 ∨ spareOut s comb = true ∨ repairing s.comb[comb] =
    true ∨ (∃ i : Fin 8, i.val = unit.val ∧ s.ch[chanAt comb i].state ≠ .safed ∧ s.ch[chanAt comb i].state ≠
    .stopped)) :=
  ⟨0, 8, inMode .run, by decide +kernel⟩

theorem witness_calibration_and_repair_requests_10 : ∃ (comb : Fin 16) (i : Fin 8) (s : State), (regsUp s =
    true) ∧ (s.comb[comb].assigned = i.val) ∧ (s.ch[chanAt comb i].state = .stopped) :=
  ⟨0, 7, { inMode .run with comb := State.reset.comb.set 0 { State.reset.comb[0] with assigned := 7 } },
    by decide +kernel⟩

theorem witness_calibration_and_repair_requests_11 : ∃ (comb : Fin 16) (s : State), (regsUp s = true) ∧
    (s.comb[comb].assigned = 15 ∨ (∃ i : Fin 8, i.val = s.comb[comb].assigned ∧ s.ch[chanAt comb i].state ≠
    .stopped)) :=
  ⟨0, inMode .run, by decide +kernel⟩

theorem witness_calibration_runs_1 : ∃ (comb : Fin 16) (v : RunResult) (r : CalRun) (s : State),
    (channelsLive s = true) ∧ (s.comb[comb].run = some r) ∧ (r.aborting = false) ∧ (r.phase = .measuring) ∧
    (r.kind.terminal = false) ∧ (v.trimEnd = false) ∧ (v.disagree ≤ b64ToRat s.cal.tol) :=
  ⟨0, aResult, (aRun .inPlace .measuring none), inRun (aRun .inPlace .measuring none) [], by decide +kernel⟩

theorem witness_calibration_runs_2 : ∃ (comb : Fin 16) (v : RunResult) (r : CalRun) (s : State),
    (channelsLive s = true) ∧ (s.comb[comb].run = some r) ∧ (r.aborting = false) ∧ (r.phase = .measuring) ∧
    (r.kind.terminal = false) ∧ (v.trimEnd = true ∨ b64ToRat s.cal.tol < v.disagree) :=
  ⟨0, { aResult with trimEnd := true }, (aRun .inPlace .measuring none),
    inRun (aRun .inPlace .measuring none) [], by decide +kernel⟩

theorem witness_calibration_runs_3 : ∃ (comb : Fin 16) (rec_ : Record) (l : List (Fin 9 × Record)) (r :
    CalRun) (first second : Bool) (s : State), (channelsLive s = true) ∧ (s.comb[comb].run = some r) ∧ (r.newRec
    = some rec_) ∧ (r.kind.terminal = false) ∧ (s.comb[comb].commits = (r.unit, rec_) :: l) ∧ (first = true ∨
    second = true) :=
  ⟨0, aRecord, [], (aRun .takeover .committing (some aRecord)), false, true,
    inRun (aRun .takeover .committing (some aRecord)) [(0, aRecord)], by decide +kernel⟩

theorem witness_calibration_runs_4 : ∃ (comb : Fin 16) (rec_ : Record) (l : List (Fin 9 × Record)) (r :
    CalRun) (s : State), (channelsLive s = true) ∧ (s.comb[comb].run = some r) ∧ (r.newRec = some rec_) ∧
    (r.kind = .takeover) ∧ (s.comb[comb].commits = (r.unit, rec_) :: l) :=
  ⟨0, aRecord, [], (aRun .takeover .committing (some aRecord)),
    inRun (aRun .takeover .committing (some aRecord)) [(0, aRecord)], by decide +kernel⟩

theorem witness_calibration_runs_6 : ∃ (comb : Fin 16) (r : CalRun) (s : State), (channelsLive s = true) ∧
    (s.comb[comb].run = some r) ∧ (r.aborting = false) ∧ (r.phase = .committing) ∧ (committing s.comb[comb] r =
    false) ∧ (r.kind = .inPlace) :=
  ⟨0, (aRun .inPlace .committing (some aRecord)), inRun (aRun .inPlace .committing (some aRecord)) [],
    by decide +kernel⟩

theorem witness_calibration_runs_7 : ∃ (comb : Fin 16) (r : CalRun) (s : State), (channelsLive s = true) ∧
    (s.comb[comb].run = some r) ∧ (r.aborting = false) ∧ (r.phase = .committing) ∧ (committing s.comb[comb] r =
    false) ∧ (r.kind = .takeover) :=
  ⟨0, (aRun .takeover .committing none), inRun (aRun .takeover .committing none) [], by decide +kernel⟩

theorem witness_calibration_runs_8 : ∃ (comb : Fin 16) (r : CalRun) (s : State), (channelsLive s = true) ∧
    (s.comb[comb].run = some r) ∧ (r.phase = .handing) ∧ (s.comb[comb].parallel = true) ∧ (r.kind = .takeover) ∧
    (s.comb[comb].repairPend = none) :=
  ⟨0, (aRun .takeover .handing none),
    { inRun (aRun .takeover .handing none) [] with comb := State.reset.comb.set 0 { State.reset.comb[0] with run := some (aRun .takeover .handing none), parallel := true } },
    by decide +kernel⟩

theorem witness_calibration_runs_9 : ∃ (ch : Fin 128) (v : TermResult) (r : CalRun) (s : State),
    (channelsLive s = true) ∧ (s.comb[combOf ch].run = some r) ∧ (r.aborting = false) ∧ (r.phase = .measuring) ∧
    (r.kind.terminal = true) ∧ (r.chan = some ch) :=
  ⟨0, aTermResult, (aRun .termOpen .measuring none), inRun (aRun .termOpen .measuring none) [],
    by decide +kernel⟩

theorem witness_onset_is_taken_1 : ∃ (m : Msg) (s : State) (k : Fin 29), (s.mod.mode ≠ .bypass) ∧
    (s.mod.collStall = false) ∧ (s.flt.inbox = []) ∧ (1 ≤ k.val) ∧ (m.kind = k.val) :=
  ⟨⟨28, 0x40A, 0⟩, later .run, 28, by decide +kernel⟩

theorem witness_ends_and_notices_1 : ∃ (kind source : Nat) (s : State), (s.mod.mode ≠ .bypass) ∧
    (s.mod.collStall = false) ∧ (s.flt.inbox = []) ∧ (1 ≤ kind) ∧ (kind ≤ 28) :=
  ⟨28, 0, later .run, by decide +kernel⟩

theorem witness_ends_and_notices_2 : ∃ (m : Msg) (s : State), (s.mod.mode ≠ .bypass) ∧ (s.mod.collStall =
    false) ∧ (s.flt.inbox = []) ∧ (isNotice m.kind = true) ∧ (s.flt.tick ≠ s.tb.now) :=
  ⟨⟨0x49, 0, 0⟩, later .run, by decide +kernel⟩

theorem witness_collector_commands_1 : ∃ (v : Word) (k : Fin 29) (s : State), (regsUp s = true) ∧
    (s.mod.collStall = false) ∧ (s.flt.inbox = []) ∧ (s.flt.tick ≠ s.tb.now) ∧ (bit v 31 = false) ∧ (field v 7 0
    = k.val) ∧ (1 ≤ k.val) ∧ (s.flt.outLvl[k] ≠ 0) :=
  ⟨28, 28, { later .run with flt := { (later .run).flt with outLvl := State.reset.flt.outLvl.set 28 1 } },
    by decide +kernel⟩

theorem witness_collector_commands_2 : ∃ (v : Word) (s : State), (regsUp s = true) ∧ (s.mod.collStall =
    false) ∧ (s.flt.inbox = []) ∧ (bit v 31 = false) ∧ (field v 7 0 = 0 ∨ 28 < field v 7 0) :=
  ⟨29, later .run, by decide +kernel⟩

theorem witness_collector_commands_3 : ∃ (s : State), (regsUp s = true) ∧ (s.mod.collStall = false) ∧
    (s.flt.inbox = []) ∧ (s.flt.tick ≠ s.tb.now) :=
  ⟨later .run, by decide +kernel⟩

theorem witness_collector_commands_4 : ∃ (s : State), (regsUp s = true) ∧ (s.mod.collStall = false) ∧
    (s.flt.inbox = []) ∧ (s.flt.tick ≠ s.tb.now) :=
  ⟨later .run, by decide +kernel⟩

theorem witness_collector_commands_5 : ∃ (m : Master) (slot : Fin 33) (s : State), (regsUp s = true) ∧
    (masterUp s m = true) :=
  ⟨.host, 32, powered (inMode .run), by decide +kernel⟩

theorem witness_watchdog_and_collector_stall_1 : ∃ (s : State), (s.mod.mode ≠ .bypass) ∧ (s.mod.collStall =
    false) ∧ (s.flt.inbox = []) :=
  ⟨later .run, by decide +kernel⟩

theorem witness_watchdog_and_collector_stall_2 : ∃ (s : State), (s.mod.mode ≠ .bypass) :=
  ⟨inMode .run, by decide +kernel⟩

theorem witness_lockdown_safes_every_channel_1 : ∃ (m : Msg) (s : State), (s.mod.mode ≠ .bypass) ∧
    (s.mod.mode ≠ .opened) ∧ (s.mod.collStall = false) ∧ (s.flt.inbox = []) ∧ (isOnset m.kind = true) ∧ (5 ≤
    startLevel m.source) :=
  ⟨⟨1, 0x400, 0⟩, later .run, by decide +kernel⟩

theorem witness_streams_2 : ∃ (n : Fin 2048) (s : State), (s.mod.mode.operating = true) ∧ (s.mod.collStall =
    false) ∧ (s.sto.stream[n].opened = false) ∧ (streamCfgOk s s.sto.stream[n] = true) :=
  ⟨2047, captured, by decide +kernel⟩

theorem witness_streams_3 : ∃ (n : Fin 2048) (s : State), (s.mod.mode.operating = true) ∧ (s.mod.collStall =
    false) ∧ (streamCfgOk s s.sto.stream[n] = true) ∧ (admitStream s n).1 = true :=
  ⟨2047, captured, by decide +kernel⟩

theorem witness_streams_4 : ∃ (n : Fin 2048) (s : State), (regsUp s = true) ∧ (s.sto.stream[n].opened =
    false) ∧ (streamCfgOk s s.sto.stream[n] = false ∨ s.mod.mode.operating = false ∨ s.mod.collStall = true) :=
  ⟨0, inMode .run, by decide +kernel⟩

theorem witness_streams_5 : ∃ (n : Fin 2048) (s : State), (regsUp s = true) ∧ (s.sto.stream[n].opened =
    true) :=
  ⟨0, blockOpen 0, by decide +kernel⟩

theorem witness_blocks_reach_rings_1 : ∃ (n : Fin 2048) (ring : Fin 31) (raw : List Nat) (data head : List
    Byte) (count full : Nat) (s : State), (s.sto.stream[n].opened = true) ∧ (s.sto.stream[n].openedAt + field
    s.sto.stream[n].age 13 0 * 800000 ≤ nextBoundary s) ∧ (strRing s.sto.stream[n].cfg = ring.val) ∧ (ringActive
    s ring = true) ∧ (ringBlocks s ring ≠ 0) ∧ (s.sto.ring[ring].wp - s.sto.ring[ring].rp < ringBlocks s ring) ∧
    (storeCanonical s) ∧ (strSrc s.sto.stream[n].cfg < 6 ∧ s.sto.stream[n].block ≠ [] ∧ data = padBlock
    (s.sto.stream[n].block.flatMap fun w => toBytes 4 w.toNat) ∧ count = s.sto.stream[n].block.length ∧ full =
    1024 ∨ 6 ≤ strSrc s.sto.stream[n].cfg ∧ s.sto.stream[n].raw ≠ [] ∧ s.tb.now ≤ s.sto.stream[n].nextCode ∧
    s.ch[strCh s.sto.stream[n].cfg].cfg.func ≠ .off ∧ data = toBytes 4096 (packCodes (if strSrc
    s.sto.stream[n].cfg = 9 then 18 else 6) s.sto.stream[n].raw) ∧ count = s.sto.stream[n].raw.length ∧ full =
    (if strSrc s.sto.stream[n].cfg = 9 then 1820 else 5461)) ∧ (head = toBytes 8 s.sto.stream[n].ts ++ toBytes 4
    (n.val + count * 2048 + if count < full then 16777216 else 0)) :=
  ⟨0, 0, [], _, _, _, _, blockOpen 254, by decide +kernel, by decide +kernel, by decide +kernel,
    by decide +kernel, by decide +kernel, by decide +kernel, by unfold storeCanonical; decide +kernel,
    Or.inl ⟨by decide +kernel, by decide +kernel, rfl, rfl, rfl⟩, rfl⟩

theorem witness_blocks_reach_rings_2 : ∃ (n : Fin 2048) (ring : Fin 31) (raw : List Nat) (s : State),
    (s.sto.stream[n].opened = true) ∧ (strSrc s.sto.stream[n].cfg < 6) ∧ (s.sto.stream[n].block ≠ []) ∧
    (s.sto.stream[n].openedAt + field s.sto.stream[n].age 13 0 * 800000 ≤ nextBoundary s) ∧ (strRing
    s.sto.stream[n].cfg = ring.val) ∧ (ringActive s ring = true) ∧ (ringBlocks s ring ≠ 0) ∧ (ringBlocks s ring
    ≤ s.sto.ring[ring].wp - s.sto.ring[ring].rp) ∧ (ringOverwrites s.sto.ring[ring].cfg = false) :=
  ⟨0, 0, [], blockOpen 255, by decide +kernel⟩

theorem witness_capture_rings_1 : ∃ (ring : Fin 31) (s : State), (regsUp s = true) ∧ (ringActive s ring =
    true) :=
  ⟨0, captured, by decide +kernel⟩

theorem witness_capture_rings_2 : ∃ (ring : Fin 31) (data desc : List Byte) (m : Nat) (s : State),
    (ringActive s ring = true) ∧ (ringBlocks s ring ≠ 0) ∧ (s.sto.ring[ring].wp - s.sto.ring[ring].rp <
    ringBlocks s ring) ∧ (s.sto.ring[ring].rewindTo = some m) :=
  ⟨0, [], [], 0,
    { captured with sto := { captured.sto with ring := captured.sto.ring.set 0 { captured.sto.ring[0] with rewindTo := some 0 } } },
    by decide +kernel⟩

theorem witness_capture_rings_4 : ∃ (ring : Fin 31) (s : State), (onRing s = true) ∧ (ringActive s ring =
    true) ∧ (ringReader s.sto.ring[ring].cfg = 9) ∧ (s.sto.ring[ring].rp < s.sto.ring[ring].wp) :=
  ⟨0, egress, by decide +kernel⟩

theorem witness_queue_enable_and_flush_1 : ∃ (q : Fin 32) (s : State), (regsUp s = true) :=
  ⟨31, inMode .run, by decide +kernel⟩

theorem witness_queue_enable_and_flush_2 : ∃ (q : Fin 32) (s : State), (regsUp s = true) ∧ (admitQueue s
    q).1 = true ∧ (s.sq[q].en = false) :=
  ⟨31, inMode .run, by decide +kernel⟩

theorem witness_queue_enable_and_flush_3 : ∃ (q : Fin 32) (s : State), (regsUp s = true) ∧ (s.sq[q].pktOpen
    = false) ∧ (s.sq[q].dropping = false) :=
  ⟨31, inMode .run, by decide +kernel⟩

theorem witness_queue_enable_and_flush_4 : ∃ (q : Fin 32) (s : State), (regsUp s = true) ∧ (s.sq[q].pktOpen
    = true ∨ s.sq[q].dropping = true) :=
  ⟨31, { inMode .run with sq := State.reset.sq.set 31 { State.reset.sq[31] with pktOpen := true } },
    by decide +kernel⟩

theorem witness_queue_enable_and_flush_5 : ∃ (q : Fin 32) (s : State), (s.sq[q].flushPend = true) :=
  ⟨31, { inMode .run with sq := State.reset.sq.set 31 { State.reset.sq[31] with flushPend := true } },
    by decide +kernel⟩

theorem witness_queue_writes_1 : ∃ (q : Fin 32) (i : QItem) (s : State), (s.sq[q].en = true) ∧
    (s.sq[q].dropping = false) ∧ (0 < s.sq[q].credit) ∧ (qProd s.sq[q].cfg ≠ 8) ∧ (i.sop = !s.sq[q].pktOpen) ∧
    (s.sq[q].flushPend = false) :=
  ⟨31, ⟨7, 2⟩, { inMode .run with sq := State.reset.sq.set 31 { State.reset.sq[31] with en := true } },
    by decide +kernel⟩

theorem witness_queue_writes_2 : ∃ (m : Master) (q : Fin 32) (v : Word) (s : State), (regsUp s = true) ∧
    (masterUp s m = true) ∧ (qProd s.sq[q].cfg = 0) :=
  ⟨.host, 31, 7, powered (inMode .run), by decide +kernel⟩

theorem witness_queue_overrun_1 : ∃ (q : Fin 32) (i : QItem) (s : State), (s.sq[q].en = true) ∧
    (s.sq[q].dropping = false) ∧ (s.sq[q].credit = 0) ∧ (portDelivers s.sq[q] i = true) :=
  ⟨31, ⟨7, 3⟩,
    { inMode .run with sq := State.reset.sq.set 31 { State.reset.sq[31] with en := true, credit := 0 } },
    by decide +kernel⟩

theorem witness_queue_overrun_2 : ∃ (q : Fin 32) (i : QItem) (s : State), (s.sq[q].en = true) ∧
    (s.sq[q].dropping = true) ∧ (i.sop = true) ∧ (portDelivers s.sq[q] i = true) ∧ (0 < s.sq[q].credit) ∧
    (s.sq[q].pktOpen = false) ∧ (s.sq[q].flushPend = false) :=
  ⟨31, ⟨7, 3⟩,
    { inMode .run with sq := State.reset.sq.set 31 { State.reset.sq[31] with en := true, dropping := true } },
    by decide +kernel⟩

theorem witness_queue_overrun_3 : ∃ (q : Fin 32) (i : QItem) (s : State), (s.sq[q].en = true) ∧
    (s.sq[q].dropping = true) ∧ (i.sop = false) ∧ (portDelivers s.sq[q] i = true) :=
  ⟨31, ⟨7, 4⟩,
    { inMode .run with sq := State.reset.sq.set 31 { State.reset.sq[31] with en := true, dropping := true } },
    by decide +kernel⟩

theorem witness_queue_reads_1 : ∃ (q : Fin 32) (i : QItem) (l : List QItem) (s : State), (s.sq[q].en = true)
    ∧ (0 < s.sq[q].visible) ∧ (s.sq[q].items = i :: l) ∧ (qCons s.sq[q].cfg = 8) :=
  ⟨31, ⟨7, 7⟩, [],
    { inMode .run with sq := State.reset.sq.set 31 { State.reset.sq[31] with en := true, items := [⟨7, 7⟩], visible := 1, cfg := 0x80 } },
    by decide +kernel⟩

theorem witness_queue_reads_2 : ∃ (m : Master) (q : Fin 32) (i : QItem) (l : List QItem) (s : State),
    (regsUp s = true) ∧ (masterUp s m = true) ∧ (s.sq[q].en = true) ∧ (0 < s.sq[q].visible) ∧ (s.sq[q].items = i
    :: l) ∧ (qCons s.sq[q].cfg = 0) :=
  ⟨.appCore, 31, ⟨7, 7⟩, [],
    { inMode .run with sq := State.reset.sq.set 31 { State.reset.sq[31] with en := true, items := [⟨7, 7⟩], visible := 1 } },
    by decide +kernel⟩

theorem witness_dma_engines_1 : ∃ (e : Fin 8) (s : State), (regsUp s = true) :=
  ⟨7, inMode .run, by decide +kernel⟩

theorem witness_dma_engines_2 : ∃ (e : Fin 8) (s : State), (regsUp s = true) ∧ (s.dma[e].en = false) ∧
    (dmaRate s.dma[e] = 0) :=
  ⟨7, inMode .run, by decide +kernel⟩

theorem witness_dma_engines_3 : ∃ (e : Fin 8) (v : Word) (s : State), (regsUp s = true) ∧ (field v 15 0 <
    s.dma[e].len.toNat) :=
  ⟨7, 1, inMode .run, by decide +kernel⟩

theorem witness_dma_engines_4 : ∃ (e : Fin 8) (v : Word) (s : State), (regsUp s = true) ∧
    (s.dma[e].len.toNat ≤ field v 15 0) :=
  ⟨7, 2, inMode .run, by decide +kernel⟩

theorem witness_dma_engines_5 : ∃ (e : Fin 8) (s : State), (regsUp s = true) ∧ (dmaRuns s e = false) :=
  ⟨7, inMode .run, by decide +kernel⟩

theorem witness_dma_engines_6 : ∃ (e : Fin 8) (k : Nat) (d : Desc) (s : State), (dmaRuns s e = true) ∧
    (s.dma[e].cur = some (k, d)) :=
  ⟨7, 0, ⟨0, 0, 8, 0, 0⟩,
    { dmaState with dma := dmaState.dma.set 7 { dmaState.dma[7] with cur := some (0, ⟨0, 0, 8, 0, 0⟩) } },
    by decide +kernel⟩

theorem witness_dma_engines_7 : ∃ (e : Fin 8) (s : State), (dmaRuns s e = true) ∧ (s.dma[e].cur = none) :=
  ⟨7, dmaState, by decide +kernel⟩

theorem witness_dma_engines_8 : ∃ (e : Fin 8) (d : Desc) (bytes : List Byte) (reads : DmaRead) (s : State),
    (dmaRuns s e = true) ∧ (s.dma[e].cur = none) ∧ (s.dma[e].aborting = true) ∧ (reads ≠ .descError) :=
  ⟨7, ⟨0, 0, 8, 0, 0⟩, [], .ok,
    { dmaState with dma := dmaState.dma.set 7 { dmaState.dma[7] with aborting := true } }, by decide +kernel⟩

theorem witness_dma_engines_9 : ∃ (e : Fin 8) (d : Desc) (bytes : List Byte) (s : State), (dmaRuns s e =
    true) ∧ (s.dma[e].cur = none) :=
  ⟨7, ⟨0, 0, 8, 0, 0⟩, [], dmaState, by decide +kernel⟩

theorem witness_dma_engines_10 : ∃ (e : Fin 8) (d : Desc) (bytes : List Byte) (s : State), (dmaRuns s e =
    true) ∧ (s.dma[e].cur = none) ∧ (s.dma[e].aborting = false) ∧ (descOk d = true) ∧ (d.op = 0) ∧ (spanAllowed
    (dmaMayWrite s) s 32 d.maddr d.len = true) ∧ (spanProtected s d.maddr d.len = false) ∧ (bytes.length =
    d.len) ∧ (storeCanonical s) :=
  ⟨7, ⟨0, 0, 8, 0, 0⟩, [1, 2, 3, 4, 5, 6, 7, 8], dmaState, by decide +kernel, rfl, rfl, by decide +kernel, rfl,
    by decide +kernel, by decide +kernel, rfl, by unfold storeCanonical; decide +kernel⟩

theorem witness_dma_engines_11 : ∃ (e : Fin 8) (d : Desc) (bytes : List Byte) (reads : DmaRead) (s : State),
    (dmaRuns s e = true) ∧ (s.dma[e].cur = none) ∧ (s.dma[e].aborting = false) ∧ (reads ≠ .descError) ∧ (descOk
    d = true) ∧ (d.op = 0) ∧ (spanAllowed (dmaMayWrite s) s 32 d.maddr d.len = false) :=
  ⟨7, ⟨0, 16777216, 8, 0, 0⟩, [], .ok, dmaState, by decide +kernel⟩

theorem witness_dma_engines_12 : ∃ (e : Fin 8) (d : Desc) (bytes : List Byte) (reads : DmaRead) (s : State),
    (dmaRuns s e = true) ∧ (s.dma[e].cur = none) ∧ (s.dma[e].aborting = false) ∧ (reads ≠ .descError) ∧ (descOk
    d = true) ∧ (d.op = 1) ∧ (spanAllowed dmaMayRead s 32 d.maddr d.len = true) :=
  ⟨7, ⟨0, 0, 8, 1, 0⟩, [], .ok, dmaState, by decide +kernel⟩

theorem witness_mailboxes_1 : ∃ (ch : Fin 20) (h2c : Bool) (v : Word) (s : State), (if h2c then mbxHost s ch
    else mbxCore s ch) = true :=
  ⟨15, true, 7, powered (inMode .run), by decide +kernel⟩

theorem witness_mailboxes_2 : ∃ (ch : Fin 20) (h2c : Bool) (s : State), (if h2c then mbxCore s ch else
    mbxHost s ch) = true ∧ (getMbx s ch h2c).full = true :=
  ⟨15, true,
    { powered (inMode .run) with mbx := State.reset.mbx.set 15 { State.reset.mbx[15] with h2c := { State.reset.mbx[15].h2c with full := true, data := 7 } } },
    by decide +kernel⟩

theorem witness_mailboxes_3 : ∃ (ch : Fin 20) (h2c : Bool) (s : State), (if h2c then mbxCore s ch else
    mbxHost s ch) = true ∧ (getMbx s ch h2c).full = false :=
  ⟨15, true, powered (inMode .run), by decide +kernel⟩

theorem witness_mailboxes_6 : ∃ (ch : Fin 4) (v : Word) (s : State), (hostReach s = true) ∧ (s.mod.mode ≠
    .bypass) ∧ (s.sec.auth = false) :=
  ⟨3, 7, powered (inMode .run), by decide +kernel⟩

theorem witness_firmware_answers_1 : ∃ (ch : Fin 4) (request : Word) (s : State), (secUp s = true) ∧
    (hasRequest s (scNo ch) request = true) ∧ (getMbx s (scNo ch) false).full = false ∧ (reqOp request = 0 ∨ 7 <
    reqOp request) :=
  ⟨3, 0x00010000, session 0, by decide +kernel⟩

theorem witness_firmware_answers_2 : ∃ (ch : Fin 16) (request : Word) (s : State), (regsUp s = true) ∧
    (hasRequest s (nsNo ch) request = true) ∧ (getMbx s (nsNo ch) false).full = false :=
  ⟨15, 0x01010005,
    { powered (inMode .run) with mbx := State.reset.mbx.set 15 { State.reset.mbx[15] with h2c := { State.reset.mbx[15].h2c with full := true, data := 0x01010005 } } },
    by decide +kernel⟩

theorem witness_hardware_locks_1 : ∃ (c : Instr) (m : Master) (l : Fin 64) (s : State), (lockReach s m =
    true) ∧ (s.lock[l] = 0) ∧ (c = .lockRead m l ∨ c = .loReadLatch m ⟨0x48000 + 4 * l.val, 0xF⟩) :=
  ⟨.lockRead .host 63, .host, 63, powered (inMode .run), by decide +kernel⟩

theorem witness_hardware_locks_2 : ∃ (c : Instr) (m : Master) (l : Fin 64) (s : State), (lockReach s m =
    true) ∧ (s.lock[l] ≠ 0) ∧ (c = .lockRead m l ∨ c = .loReadLatch m ⟨0x48000 + 4 * l.val, 0xF⟩) :=
  ⟨.loReadLatch .seq3 ⟨0x48000 + 4 * 63, 0xF⟩, .seq3, 63,
    { inMode .run with lock := State.reset.lock.set 63 8 }, by decide +kernel⟩

theorem witness_hardware_locks_3 : ∃ (c : Instr) (m : Master) (l : Fin 64) (v : Word) (s : State),
    (lockReach s m = true) ∧ (c = .lockRelease m l v ∨ c = .registerWrite m ⟨0x48000 + 4 * l.val, 0xF⟩ v) :=
  ⟨.lockRelease .host 63 0, .host, 63, 0, powered (inMode .run), by decide +kernel⟩

theorem witness_hardware_locks_4 : ∃ (m : Master) (l : Fin 64) (v : Word) (s : State), (lockReach s m =
    true) :=
  ⟨.ringAgent, 63, 0, inMode .run, by decide +kernel⟩

theorem witness_authenticated_sessions_1 : ∃ (s : State), (secUp s = true) ∧ (s.sec.lockout = false) ∧
    (s.sec.lockedOut = false) ∧ (s.sec.busy = false) :=
  ⟨inMode .run, by decide +kernel⟩

theorem witness_authenticated_sessions_2 : ∃ (s : State), (secUp s = true) ∧ (s.sec.lockout = true ∨
    s.sec.lockedOut = true) :=
  ⟨{ inMode .run with sec := { State.reset.sec with lockout := true } }, by decide +kernel⟩

theorem witness_authenticated_sessions_3 : ∃ (from_ : Nat) (s : State), (secUp s = true) ∧ (s.sec.busy =
    false) ∧ (s.sec.nonceAt = some from_) :=
  ⟨7, { inMode .run with sec := { State.reset.sec with nonceAt := some 7 } }, by decide +kernel⟩

theorem witness_authenticated_sessions_4 : ∃ (s : State), (s.sec.busy = true) ∧ (s.sec.nonceAt = none) :=
  ⟨{ inMode .run with sec := { State.reset.sec with busy := true } }, by decide +kernel⟩

theorem witness_authenticated_sessions_5 : ∃ (s : State), (s.sec.lockedOut = false) :=
  ⟨inMode .run, by decide +kernel⟩

theorem witness_authenticated_sessions_6 : ∃ (key : BitVec 768) (s : State), (s.sec.busy = true) ∧
    (s.sec.nonceAt.isSome = true) ∧ (s.sec.hostKey = some key) :=
  ⟨5, { inMode .run with sec := { State.reset.sec with busy := true, nonceAt := some 7, hostKey := some 5 } },
    by decide +kernel⟩

theorem witness_secure_requests_1 : ∃ (ch : Fin 4) (request : Word) (s : State), (secUp s = true) ∧
    (hasRequest s (scNo ch) request = true) ∧ (getMbx s (scNo ch) false).full = false ∧ (∀ x, provActive s.sec =
    some x → x.seq < 4294967296) :=
  ⟨3, 0x06010000, session 6, by decide +kernel, by decide +kernel, by decide +kernel,
    by intro x h; cases h; decide⟩

theorem witness_debug_opening_1 : ∃ (x : OpenReport) (s : State), (s.mod.mode ≠ .opened) ∧ (s.sec.policy =
    0) ∧ (x.eraseOk = true) :=
  ⟨⟨true, goodCheck⟩, { inMode .run with sec := { State.reset.sec with policy := 0 } }, by decide +kernel⟩

theorem witness_debug_opening_2 : ∃ (x : OpenReport) (s : State), (s.mod.mode ≠ .opened) ∧ (s.sec.policy ≠
    0) :=
  ⟨⟨true, goodCheck⟩, { inMode .run with sec := { State.reset.sec with policy := 1 } }, by decide +kernel⟩

theorem witness_debug_opening_3 : ∃ (ch : Fin 4) (request : Word) (x : OpenReport) (s : State), (s.mod.mode
    ≠ .opened) ∧ (scRequest s ch request 6 = true) :=
  ⟨3, 0x06010000, ⟨true, goodCheck⟩, session 6, by decide +kernel⟩

theorem witness_debug_opening_4 : ∃ (ir : TapIr) (s : State), (s.mod.mode = .opened ∨ ir = .idcode ∨ ir =
    .bypass ∨ ir = .sample) :=
  ⟨.extest, inMode .opened, by decide +kernel⟩

theorem witness_debug_opening_5 : ∃ (ir : TapIr) (s : State), (s.mod.mode ≠ .opened) ∧ (ir = .extest ∨ ir =
    .debugCore ∨ ir = .debugFabric) :=
  ⟨.debugCore, inMode .run, by decide +kernel⟩

theorem witness_ring_membership_and_breaks_1 : ∃ (s : State), (s.mod.mode.operating = true) ∧ (jxEn s =
    true) ∧ (s.jx.bypassed = true) ∧ (s.jx.localOk = false) :=
  ⟨{ inMode .run with jx := { State.reset.jx with cfg := 0x01000001 } }, by decide +kernel⟩

theorem witness_ring_membership_and_breaks_2 : ∃ (c : Instr) (s : State), (s.mod.mode.operating = true) ∧
    (jxEn s = true) ∧ (s.jx.bypassed = true) ∧ (∀ t, s.jx.closedAt = some t → t + 80000000 ≤ s.tb.now) ∧ (c =
    .join ∧ s.jx.localOk = true ∨ c = .ringLocalTrained true ∧ s.jx.localOk = false ∧ jxJoinCmd s = false) :=
  ⟨.join,
    { inMode .run with tb := { State.reset.tb with now := 80000000 }, jx := { State.reset.jx with cfg := 0x01000001, localOk := true, closedAt := some 0 } },
    by decide +kernel, by decide +kernel, by decide +kernel, by intro t h; cases h; decide +kernel,
    by decide +kernel⟩

theorem witness_ring_membership_and_breaks_3 : ∃ (s : State), (receives s = true) :=
  ⟨{ inMode .run with jx := { State.reset.jx with cfg := 0x01000001, bypassed := false } }, by decide +kernel⟩

theorem witness_ring_membership_and_breaks_4 : ∃ (s : State), (regsUp s = true) ∧ (s.jx.bypassed = false) :=
  ⟨{ inMode .run with jx := { State.reset.jx with bypassed := false } }, by decide +kernel⟩

theorem witness_ring_membership_and_breaks_5 : ∃ (s : State), (regsUp s = true) ∧ (onRing s = true) :=
  ⟨member, by decide +kernel⟩

theorem witness_ring_membership_and_breaks_6 : ∃ (noLock : Bool) (s : State), (receives s = true) ∧
    (s.jx.state = 3) ∧ (jxAutonomous s = false) ∧ (isPresent s 0x15 0x404 = false) :=
  ⟨true, member, by decide +kernel⟩

theorem witness_ring_membership_and_breaks_7 : ∃ (s : State), (receives s = true) ∧ (s.jx.state = 3) :=
  ⟨member, by decide +kernel⟩

theorem witness_ring_membership_and_breaks_9 : ∃ (s : State), (s.jx.crcTimes.filter fun t => s.tb.now ≤ t +
    800000).length < s.jx.crcLim.toNat :=
  ⟨inMode .run, by decide +kernel⟩

theorem witness_ring_membership_and_breaks_10 : ∃ (s : State), (s.jx.crcLim.toNat ≤ (s.jx.crcTimes.filter
    fun t => s.tb.now ≤ t + 800000).length) :=
  ⟨{ inMode .run with jx := { State.reset.jx with crcTimes := [0, 0, 0, 0] } }, by decide +kernel⟩

theorem witness_ring_time_1 : ∃ (tick begins : Nat) (u s : State), (receives s = true) ∧ (jxMaster s = true)
    ∧ (s.jx.overbooked = false) ∧ (s.jx.timeSent = none ∧ s.tb.now ≤ nextBoundary s ∧ tick = s.tb.now ∨ (∃ last,
    s.jx.timeSent = some last ∧ last + s.jx.timePer.toNat ≤ nextBoundary s ∧ tick = Nat.max s.tb.now (last +
    s.jx.timePer.toNat))) ∧ (u = tickLine { s with tb := { s.tb with now := tick } }) ∧ (begins = urgentStart
    (125 * tick) (lineTo (125 * tick) u.jx.line) / 125) :=
  ⟨0, _, _, { inMode .run with jx := { State.reset.jx with cfg := 0x01000003, bypassed := false, id := 0 } },
    rfl, by decide +kernel, rfl, Or.inl (by decide +kernel), rfl, rfl⟩

theorem witness_ring_time_2 : ∃ (f : Frame) (residence : Nat) (est : Rat) (s : State), (arrives s f 0x12) ∧
    (jxMaster s = false) ∧ (f.dst = 1023) ∧ (f.hops < 1022) ∧ (payNat f 28 4 ≠ 0) ∧ (est = (payNat f 0 8 : Rat)
    + (payNat f 8 8 : Rat) / 1024 + (payNat f 16 8 : Rat) / 1024 * ((payNat f 24 4 + jxLinkWt s : Nat) : Rat) /
    (payNat f 28 4 : Rat)) :=
  ⟨timeFrame, 5, 1000, member, by decide +kernel⟩

theorem witness_enumeration_1 : ∃ (f : Frame) (i : Nat) (s : State), (arrives s f 0x13) ∧ (jxMaster s =
    false) ∧ (f.dst = 1023) ∧ (f.hops < 1022) ∧ (isPass1 f = true) ∧ (claimedId s = some i) :=
  ⟨enumFrame 1, 7, member,
    ⟨by decide +kernel, crcOk_sealFrame _, by decide +kernel, by decide +kernel, by decide +kernel⟩,
    by decide +kernel⟩

theorem witness_enumeration_2 : ∃ (f : Frame) (s : State), (arrives s f 0x13) ∧ (jxMaster s = false) ∧
    (f.dst = 1023) ∧ (f.hops < 1022) ∧ (isPass1 f = false) ∧ (s.jx.id < 1023) :=
  ⟨enumFrame 0, member,
    ⟨by decide +kernel, crcOk_sealFrame _, by decide +kernel, by decide +kernel, by decide +kernel⟩,
    by decide +kernel⟩

theorem witness_enumeration_3 : ∃ (f : Frame) (i : Nat) (s : State), (arrives s f 0x13) ∧ (jxMaster s =
    false) ∧ (f.dst = 1023) ∧ (f.hops < 1022) ∧ (isPass1 f = false) ∧ (s.jx.id = 1023) ∧ (lowestClear (payNat f
    0 128) = some i) :=
  ⟨enumFrame 0, 1, newcomer,
    ⟨by decide +kernel, crcOk_sealFrame _, by decide +kernel, by decide +kernel, by decide +kernel⟩,
    by decide +kernel⟩

theorem witness_enumeration_4 : ∃ (c : Instr) (f : Frame) (residence : Nat) (s : State), (jxMaster s = true)
    ∧ (jxAutonomous s = false) ∧ (isPresent s 0x15 0x404 = false) ∧ (ownRound s f = false) ∧ (c = .enum f ∧
    comesBack s f 0x13 ∨ c = .time f residence ∧ comesBack s f 0x12) :=
  ⟨.enum (sealFrame { enumFrame 1 with src := 0 }), sealFrame { enumFrame 1 with src := 0 }, 0, ringMaster,
    by decide +kernel, by decide +kernel, by decide +kernel, by decide +kernel,
    Or.inl ⟨rfl, by decide +kernel, crcOk_sealFrame _, by decide +kernel, by decide +kernel, by decide +kernel⟩⟩

theorem witness_enumeration_5 : ∃ (f : Frame) (s : State), (comesBack s f 0x13) ∧ (jxMaster s = true) ∧
    (ownRound s f = true) :=
  ⟨sealFrame { enumFrame 1 with src := 0 },
    { ringMaster with jx := { ringMaster.jx with roundTrip := [(0x13, 5)] } },
    ⟨by decide +kernel, crcOk_sealFrame _, by decide +kernel, by decide +kernel, by decide +kernel⟩,
    by decide +kernel⟩

theorem witness_ring_events_1 : ∃ (f : Frame) (e : RingEvent) (s : State), (arrives s f 0x10) ∧ (f.dst =
    1023) ∧ (f.hops < 1022) ∧ (e = ⟨payNat f 8 1 % 32, payNat f 0 8, payNat f 9 1 % 2 == 1⟩) :=
  ⟨eventFrame, ⟨5, 100, true⟩, member, by decide +kernel⟩

theorem witness_ring_events_2 : ∃ (f : Frame) (s : State), (arrives s f 0x11) ∧ (f.dst = 1023) ∧ (f.hops <
    1022) :=
  ⟨faultFrame 3, member, by decide +kernel⟩

theorem witness_ring_events_3 : ∃ (f : Frame) (s : State), (comesBack s f 0x11) :=
  ⟨faultFrame 7, { member with jx := { member.jx with sent6 := [faultFrame 7] } }, by decide +kernel⟩

theorem witness_ring_events_4 : ∃ (s : State), (onRing s = true) :=
  ⟨{ member with jx := { member.jx with sent6 := [faultFrame 7] } }, by decide +kernel⟩

theorem witness_ring_events_5 : ∃ (s : State), (s.jx.sent6 = []) :=
  ⟨State.reset, by decide +kernel⟩

theorem witness_remote_requests_1 : ∃ (m : Fin 2) (two : Bool) (s : State), (regsUp s = true) ∧
    (s.jx.ra[m].busy = true) :=
  ⟨1, true,
    { member with jx := { member.jx with ra := member.jx.ra.set 1 { member.jx.ra[1] with busy := true } } },
    by decide +kernel⟩

theorem witness_remote_requests_2 : ∃ (m : Fin 2) (two : Bool) (s : State), (regsUp s = true) ∧
    (s.jx.ra[m].busy = false) ∧ (s.jx.ra[m].id = 1023) :=
  ⟨1, true,
    { member with jx := { member.jx with ra := member.jx.ra.set 1 { member.jx.ra[1] with id := 1023 } } },
    by decide +kernel⟩

theorem witness_remote_requests_3 : ∃ (c : Instr) (type n : Nat) (pay : List Byte) (m : Fin 2) (two : Bool)
    (s : State), (regsUp s = true) ∧ (onRing s = true) ∧ (s.jx.ra[m].busy = false) ∧ (s.jx.ra[m].id.toNat ≠
    s.jx.id) ∧ (n = (if two then 2 else 1)) ∧ (c = .read m two ∧ s.jx.ra[m].id ≠ 1023 ∧ type = 1 ∧ pay = toBytes
    8 s.jx.ra[m].addr.toNat ∨ c = .write m two ∧ type = 3 ∧ pay = toBytes 8 s.jx.ra[m].addr.toNat ++ toBytes 4
    s.jx.ra[m].data0.toNat ++ toBytes 4 (if two then s.jx.ra[m].data1.toNat else 0)) :=
  ⟨.read 1 true, 1, 2, toBytes 8 16, 1, true,
    { member with jx := { member.jx with ra := member.jx.ra.set 1 { member.jx.ra[1] with id := 1022, addr := 16 } } },
    by decide +kernel⟩

theorem witness_remote_requests_4 : ∃ (f : Frame) (m : Fin 2) (s : State), (arrives s f 2) ∧ (f.dst =
    s.jx.id) ∧ (raOfSeq s f.seq = some m) :=
  ⟨toMember 2 0 (List.replicate 16 0) 8, 1,
    { member with jx := { member.jx with ra := member.jx.ra.set 1 { member.jx.ra[1] with busy := true, seq := 5 } } },
    by decide +kernel⟩

theorem witness_remote_requests_5 : ∃ (f : Frame) (m : Fin 2) (s : State), (arrives s f 4) ∧ (f.dst =
    s.jx.id) ∧ (raOfSeq s f.seq = some m) :=
  ⟨toMember 4 0 [] 0, 1,
    { member with jx := { member.jx with ra := member.jx.ra.set 1 { member.jx.ra[1] with busy := true, seq := 5 } } },
    by decide +kernel⟩

theorem witness_remote_requests_6 : ∃ (f : Frame) (m : Fin 2) (s : State), (f.dst ≠ 1023) ∧ (raOfSeq s f.seq
    = some m) :=
  ⟨ownFrame, 1,
    { member with jx := { member.jx with ra := member.jx.ra.set 1 { member.jx.ra[1] with busy := true, seq := 5 } } },
    by decide +kernel⟩

theorem witness_remote_requests_7 : ∃ (m : Fin 2) (s u : State), (regsUp s = true) ∧ (s.jx.ra[m].busy =
    false) ∧ (s.jx.id < 1023) ∧ (s.jx.ra[m].id.toNat = s.jx.id) ∧ (s.jx.ra[m].addr.toNat < 0x04000000) :=
  ⟨1,
    { member with jx := { member.jx with ra := member.jx.ra.set 1 { member.jx.ra[1] with id := 7, addr := 16 } } },
    State.reset, by decide +kernel⟩

theorem witness_remote_requests_8 : ∃ (m : Fin 2) (s : State), (s.jx.ra[m].busy = true) :=
  ⟨1, { member with jx := { member.jx with ra := member.jx.ra.set 1 { member.jx.ra[1] with busy := true } } },
    by decide +kernel⟩

theorem witness_remote_registers_1 : ∃ (m : Master) (k : Fin 2) (base : Nat) (v : Word) (s : State), (regsUp
    s = true) ∧ (masterUp s m = true) ∧ (m = .host ∧ k = 0 ∧ base = 0x70100 ∨ m = .appCore ∧ k = 1 ∧ base =
    0x70140) :=
  ⟨.host, 0, 0x70100, 7, powered (inMode .run), by decide +kernel⟩

theorem witness_remote_service_1 : ∃ (f : Frame) (s : State), (arrives s f 1) ∧ (f.dst = s.jx.id) ∧ (f.arg %
    4 = 1) :=
  ⟨toMember 1 1 (toBytes 8 0x50) 8, member, by decide +kernel⟩

theorem witness_remote_service_2 : ∃ (f : Frame) (u : State) (s : State), (arrives s f 3) ∧ (f.dst =
    s.jx.id) ∧ (f.arg % 4 = 1) ∧ (payNat f 0 4 < 0x04000000) ∧ (payNat f 0 4 < 0x90000 ∨ 0xA0000 ≤ payNat f 0 4)
    ∧ (u = busWriteBase (noteUpstream s f) .ringAgent (payNat f 0 4) (wordOf (payNat f 8 4))) :=
  ⟨toMember 3 1 (toBytes 8 0x50 ++ toBytes 8 7) 16, _, member,
    ⟨by decide +kernel, crcOk_sealFrame _, by decide +kernel, by decide +kernel, by decide +kernel⟩,
    by decide +kernel, by decide +kernel, by decide +kernel, by decide +kernel, rfl⟩

theorem witness_remote_service_3 : ∃ (f : Frame) (s : State), (arrives s f 3) ∧ (f.dst = s.jx.id) ∧ (f.arg %
    4 = 1) ∧ (0x04000000 ≤ payNat f 0 4 ∨ 0x90000 ≤ payNat f 0 4 ∧ payNat f 0 4 < 0xA0000) :=
  ⟨toMember 3 1 (toBytes 8 0x90000 ++ toBytes 8 7) 16, member, by decide +kernel⟩

theorem witness_remote_service_4 : ∃ (f : Frame) (w0 w1 : Word) (u v s : State), (arrives s f 1) ∧ (f.dst =
    s.jx.id) ∧ (f.arg % 4 = 2) ∧ (payNat f 0 4 + 4 < 0x04000000) ∧ (w0, u) = busRead (noteUpstream s f)
    .ringAgent (payNat f 0 4) ∧ (w1, v) = busRead u .ringAgent (payNat f 0 4 + 4) :=
  ⟨toMember 1 2 (toBytes 8 0x50) 8, _, _, _, _, member, by decide +kernel, by decide +kernel, by decide +kernel,
    by decide +kernel, rfl, rfl⟩

theorem witness_remote_service_5 : ∃ (f : Frame) (u v s : State), (f.dst = 1023) ∧ (payNat f 0 4 + 4 <
    0x90000) ∧ (v = busWriteBase u .ringAgent (payNat f 0 4) (wordOf (payNat f 8 4))) :=
  ⟨sealFrame { toMember 3 1 (toBytes 8 0x50 ++ toBytes 8 7) 16 with dst := 1023 }, member, _, State.reset,
    by decide +kernel, by decide +kernel, rfl⟩

theorem witness_ring_deliveries_1 : ∃ (f : Frame) (n : Fin 31) (s : State), (arrives s f 0x20) ∧ (f.dst =
    s.jx.id) ∧ (f.payload.length = 4112) ∧ (f.poison = false) ∧ (rxRing s (f.arg % 8) = some n) ∧ (ringActive s
    n = true) ∧ (ringBlocks s n ≠ 0) ∧ (s.sto.ring[n].wp - s.sto.ring[n].rp < ringBlocks s n) :=
  ⟨toMember 0x20 0 (List.replicate 4112 1) 4112, 0, receiver,
    ⟨by decide +kernel, crcOk_sealFrame _, by decide +kernel, by decide +kernel, by decide +kernel⟩,
    by decide +kernel⟩

theorem witness_ring_deliveries_2 : ∃ (f : Frame) (s : State), (arrives s f 0x20) ∧ (f.dst = s.jx.id) ∧
    (f.poison = true) :=
  ⟨sealFrame { toMember 0x20 0 [] 4112 with poison := true }, member, by decide +kernel⟩

theorem witness_ring_deliveries_3 : ∃ (f : Frame) (q : Fin 32) (s : State), (arrives s f 0x21) ∧ (f.dst =
    s.jx.id) ∧ (q.val = f.arg % 32) ∧ (qProd s.sq[q].cfg = 7) ∧ (s.sq[q].en = true) :=
  ⟨toMember 0x21 (0x1001F) (List.replicate 16 0) 16, 31,
    { member with sq := State.reset.sq.set 31 { State.reset.sq[31] with en := true, cfg := 7 } },
    by decide +kernel⟩

theorem witness_block_commands_complete_1 : ∃ (n : Fin 2048) (raw : List Nat) (s : State),
    (s.sto.stream[n].opened = true) ∧ (strSrc s.sto.stream[n].cfg < 6) :=
  ⟨0, [], blockOpen 0, by decide +kernel⟩

theorem witness_block_commands_complete_2 : ∃ (n : Fin 2048) (raw : List Nat) (gap k : Nat) (s : State),
    (s.sto.stream[n].opened = true) ∧ (6 ≤ strSrc s.sto.stream[n].cfg) ∧ (s.ch[strCh
    s.sto.stream[n].cfg].cfg.func ≠ .off) ∧ (s.sto.stream[n].raw ≠ []) ∧ (gap = (if strSrc s.sto.stream[n].cfg =
    9 then 800 else 10)) ∧ (k = (s.tb.now + gap - 1 - s.sto.stream[n].nextCode) / gap) ∧
    (s.sto.stream[n].raw.length + k < (if strSrc s.sto.stream[n].cfg = 9 then 1820 else 5461)) ∧ (nextBoundary s
    < s.sto.stream[n].openedAt + field s.sto.stream[n].age 13 0 * 800000) :=
  ⟨0, [], 10, 0, rawOpen, by decide +kernel⟩

theorem witness_block_commands_complete_3 : ∃ (f : Frame) (n : Fin 31) (s : State), (arrives s f 0x20) ∧
    (f.dst = s.jx.id) ∧ (f.poison = false) ∧ (rxRing s (f.arg % 8) = some n) ∧ (ringActive s n = true) ∧
    (ringBlocks s n ≠ 0) ∧ (ringBlocks s n ≤ s.sto.ring[n].wp - s.sto.ring[n].rp) :=
  ⟨toMember 0x20 0 (List.replicate 4112 1) 4112, 0,
    { receiver with sto := { receiver.sto with ring := receiver.sto.ring.set 0 { receiver.sto.ring[0] with wp := 255 } } },
    ⟨by decide +kernel, crcOk_sealFrame _, by decide +kernel, by decide +kernel, by decide +kernel⟩,
    by decide +kernel⟩

theorem witness_block_commands_complete_4 : ∃ (f : Frame) (s : State), (arrives s f 0x20) ∧ (f.dst =
    s.jx.id) ∧ (f.poison = false) ∧ (rxRing s (f.arg % 8) = none) :=
  ⟨toMember 0x20 0 (List.replicate 4112 1) 4112, member,
    ⟨by decide +kernel, crcOk_sealFrame _, by decide +kernel, by decide +kernel, by decide +kernel⟩,
    by decide +kernel⟩

theorem witness_block_commands_complete_5 : ∃ (f : Frame) (q : Fin 32) (items : List QItem) (s : State),
    (receives s = true) ∧ (isMine s f = true) ∧ (isOwn s f = false) ∧ (frameKnown f = true) ∧ (f.type = 0x21) ∧
    (q.val = f.arg % 32) ∧ (qProd s.sq[q].cfg = 7) ∧ (s.sq[q].en = true) ∧ (fieldN f.arg 24 16 ≤ s.sq[q].credit)
    ∧ (s.sq[q].dropping = false) ∧ (s.sq[q].pktOpen = false) ∧ (s.sq[q].flushPend = false) ∧ (items = frameItems
    f (!crcOk f || f.poison)) ∧ (∀ (k : Nat) (i : QItem), items[k]? = some i → i.sop = decide (k = 0) ∧ i.eop =
    decide (k + 1 = items.length)) :=
  ⟨toMember 0x21 (0x1001F) (List.replicate 8 0 ++ 6 :: List.replicate 7 0) 16, 31, [⟨0, 6⟩],
    { member with sq := State.reset.sq.set 31 { State.reset.sq[31] with en := true, cfg := 7 } },
    by decide +kernel, by decide +kernel, by decide +kernel, by decide +kernel, rfl, rfl, by decide +kernel,
    by decide +kernel, by decide +kernel, by decide +kernel, by decide +kernel, by decide +kernel,
    by rw [show crcOk (toMember _ _ _ _) = true from crcOk_sealFrame _]; decide +kernel,
    by intro k i; rcases k with _ | k <;> simp; rintro rfl; decide⟩

theorem witness_dma_commands_complete_1 : ∃ (e : Fin 8) (s : State), (regsUp s = true) ∧ (s.dma[e].en =
    true) :=
  ⟨7, { inMode .run with dma := State.reset.dma.set 7 { State.reset.dma[7] with en := true } },
    by decide +kernel⟩

theorem witness_dma_commands_complete_2 : ∃ (e : Fin 8) (u s : State), (regsUp s = true) ∧ (s.dma[e].en =
    false) ∧ (u = updDma s e (fun d => { d with stopped := false })) :=
  ⟨7, updDma (inMode .run) 7 (fun d => { d with stopped := false }), inMode .run, by decide +kernel,
    by decide +kernel, rfl⟩

theorem witness_dma_commands_complete_3 : ∃ (e : Fin 8) (s : State), (regsUp s = true) :=
  ⟨7, inMode .run, by decide +kernel⟩

theorem witness_dma_commands_complete_4 : ∃ (e : Fin 8) (v : Word) (s : State), (regsUp s = true) :=
  ⟨7, 1, inMode .run, by decide +kernel⟩

theorem witness_dma_commands_complete_5 : ∃ (e : Fin 8) (d : Desc) (bytes : List Byte) (reads : DmaRead) (q
    : Fin 32) (s : State), (dmaRuns s e = true) ∧ (s.dma[e].cur = none) ∧ (s.dma[e].aborting = false) ∧ (reads ≠
    .descError) ∧ (queueTaken s e d = false) ∧ (q.val = d.maddr % 32) :=
  ⟨7, ⟨0, 0, 8, 2, 0⟩, [], .ok, 0, dmaState, by decide +kernel⟩

theorem witness_forwarding_1 : ∃ (f : Frame) (n : Nat) (s : State), (receives s = false) :=
  ⟨timeFrame, 0, State.reset, by decide +kernel⟩

theorem witness_forwarding_2 : ∃ (f : Frame) (n : Nat) (s : State), (receives s = true) ∧ (isOwn s f =
    false) ∧ (consumes s f = false) ∧ (f.hops < 1022) :=
  ⟨passing 1021, 5, member, by decide +kernel⟩

theorem witness_forwarding_3 : ∃ (f : Frame) (n : Nat) (s : State), (receives s = true) ∧ (isOwn s f = true)
    ∧ (crcOk f = true) ∧ (f.hops ≠ 0) ∧ (frameKnown f = false ∨ f.type ∈ [0x02, 0x04, 0x10, 0x20, 0x21]) :=
  ⟨sealFrame { ownFrame with type := 0x20 }, 0, member, by decide +kernel⟩

theorem witness_forwarding_4 : ∃ (f : Frame) (n : Nat) (s : State), (receives s = true) ∧ (isOwn s f =
    false) ∧ (consumes s f = false) ∧ (crcOk f = true) ∧ (f.hops = 1022) :=
  ⟨passing 1022, 0, member, by decide +kernel⟩

theorem witness_registers_1 : ∃ (m : Master) (a : Nat) (be : BitVec 4) (v : Word) (s : State), (be ≠ 0xF) :=
  ⟨.host, 0xB0008, 0, 7, State.reset, by decide +kernel⟩

theorem witness_registers_2 : ∃ (m : Master) (a : Nat) (v : DWord) (s : State), (answers s m a = true) ∧
    (lo64 s a = some v) :=
  ⟨.host, 0xB0008, State.reset.seq.ringLead, powered (inMode .run), by decide +kernel⟩

theorem witness_registers_3 : ∃ (m : Master) (a : Nat) (v w : DWord) (s : State), (answers s m (a + 4) =
    true) ∧ (lo64 s (a + 4) = none) ∧ (lo64 s a = some w) ∧ (heldOf s.bus.latches m.id a = some (hiHalf v)) :=
  ⟨.host, 0xB0008, 0, State.reset.seq.ringLead,
    { powered (inMode .run) with bus := { State.reset.bus with latches := [(1, 0xB0008, 0)] } },
    by decide +kernel⟩

theorem witness_registers_4 : ∃ (m : Master) (a : Nat) (w : DWord) (s : State), (answers s m (a + 4) = true)
    ∧ (lo64 s (a + 4) = none) ∧ (lo64 s a = some w) ∧ (heldOf s.bus.latches m.id a = none) :=
  ⟨.host, 0xB0008, State.reset.seq.ringLead, powered (inMode .run), by decide +kernel⟩

theorem witness_registers_5 : ∃ (m : Master) (a : Nat) (v : Word) (s : State), (a % 4 ≠ 0) :=
  ⟨.host, 2, 0, State.reset, by decide +kernel⟩

theorem witness_registers_6 : ∃ (m : Master) (v w : Word) (s : State), (regsUp s = true) ∧ (masterUp s m =
    true) :=
  ⟨.host, 7, 1, powered (inMode .run), by decide +kernel⟩

theorem witness_registers_7 : ∃ (m : Master) (v : Word) (s : State), (masterUp s m = true) :=
  ⟨.secCore, 7, State.reset, by decide +kernel⟩

/-! ## Witnesses of inner clauses and of alternatives -/

theorem witness_exec_keeps_queue : ∃ (c : Instr) (s t : State), exec c s = .next t :=
  ⟨.storeSchedCycle, State.reset, _, rfl⟩

/-- A state that is not reset's: a queue with an item, a held lock, a stored byte, a toggling pin, a repair. -/
def soundState : State :=
  let s := inMode .run
  { s with
    pins := { s.pins with toggling := true, waggle := true }
    flt := { s.flt with stopCause := 0 }
    sq := s.sq.set 31 { s.sq[31] with items := [⟨7, 3⟩], credit := 8190, returning := 1, visible := 1 }
    lock := s.lock.set 63 8
    sto := { s.sto with mem := [(5, 7)] }
    comb := s.comb.set 15 { s.comb[15] with assigned := 7, map := Comb.reset.map.set 7 8 } }

theorem sound_soundState : Sound soundState where
  queues := by unfold queuesBalanced Queue.balanced; decide +kernel
  locks := by unfold locksLegal; decide +kernel
  store := by unfold storeCanonical; decide +kernel
  waggle := by unfold waggleLegal; decide +kernel
  combs := by unfold combsLegal Comb.legal Comb.oneRepair; decide +kernel

theorem witness_sound_kept_by_every_step : ∃ s t : State, (Sound s) ∧ (step s = .next t) :=
  ⟨{ soundState with pending := [.storeSchedCycle] }, _,
    ⟨sound_soundState.queues, sound_soundState.locks, sound_soundState.store, sound_soundState.waggle,
      sound_soundState.combs⟩, rfl⟩

theorem witness_mailboxes_4_write_read : ∃ (ch : Fin 20) (h2c : Bool) (v : Word) (s t : State),
    (mbxHost s ch = true) ∧ (mbxCore s ch = true) ∧ (runs [.mbxDataWrite ch h2c v, .mbxDataRead ch h2c] s t) :=
  ⟨15, true, 7, powered (inMode .run), _, by decide +kernel, by decide +kernel, _, rfl, _, rfl, rfl⟩

theorem witness_mailboxes_4_read_write : ∃ (ch : Fin 20) (h2c : Bool) (v : Word) (s t : State),
    (mbxHost s ch = true) ∧ (mbxCore s ch = true) ∧ (runs [.mbxDataRead ch h2c, .mbxDataWrite ch h2c v] s t) :=
  ⟨15, true, 7, powered (inMode .run), _, by decide +kernel, by decide +kernel, _, rfl, _, rfl, rfl⟩

/-- A request waits on NS channel 15. -/
def asked (w : Word) : State :=
  { inMode .run with mbx := State.reset.mbx.set 15 { State.reset.mbx[15] with
      h2c := { State.reset.mbx[15].h2c with full := true, data := w } } }

theorem witness_firmware_answers : ∀ w ∈ ([0x01AB1234, 0x02AB0000, 0x02AB0001, 0x03AB0000, 0x04AB0000] : List Word),
    ∃ (ch : Fin 16) (s : State), (regsUp s = true) ∧ (hasRequest s (nsNo ch) w = true) ∧
      ((getMbx s (nsNo ch) false).full = false) := by
  intro w hw
  exact ⟨15, asked w, by
    simp only [List.mem_cons, List.not_mem_nil, or_false] at hw
    rcases hw with rfl | rfl | rfl | rfl | rfl <;> decide +kernel⟩

theorem witness_boundary_takes_mode_requests_run : ∃ s : State, (s.tb.running = true) ∧ (s.flt.inbox = []) ∧
    (s.mod.safeReq = false) ∧ (s.mod.safePend = false) ∧ (s.mod.mode = .ready) ∧ (s.mod.holdReq = false) ∧
    (s.mod.runReq = true) :=
  ⟨{ live .ready with mod := { (live .ready).mod with runReq := true } }, by decide +kernel⟩

theorem witness_boundary_takes_mode_requests_hold : ∃ s : State, (s.tb.running = true) ∧ (s.flt.inbox = []) ∧
    (s.mod.safeReq = false) ∧ (s.mod.safePend = false) ∧ (s.mod.mode = .run) ∧ (s.mod.holdReq = true) :=
  ⟨{ live .run with mod := { (live .run).mod with holdReq := true } }, by decide +kernel⟩

theorem witness_boundary_takes_mode_requests_resume : ∃ s : State, (s.tb.running = true) ∧ (s.flt.inbox = []) ∧
    (s.mod.safeReq = false) ∧ (s.mod.safePend = false) ∧ (s.mod.mode = .hold) ∧ (s.mod.holdReq = false) ∧
    (s.mod.runReq = true) :=
  ⟨{ live .hold with mod := { (live .hold).mod with runReq := true } }, by decide +kernel⟩

theorem witness_waggle_pin_5_below : ∃ (v : Word) (s : State), (regsUp s = true) ∧ (s.mod.collStall = false) ∧
    (1 ≤ field v 2 0) ∧ (field v 2 0 ≤ 5) ∧ (∀ k : Fin 29, s.flt.outLvl[k] < field v 2 0) :=
  ⟨1, inMode .run, by decide +kernel⟩

theorem witness_waggle_pin_5_stops : ∃ (v : Word) (s : State), (regsUp s = true) ∧ (s.mod.collStall = false) ∧
    (1 ≤ field v 2 0) ∧ (field v 2 0 ≤ 5) ∧ (∃ k : Fin 29, field v 2 0 ≤ s.flt.outLvl[k]) ∧
    (s.flt.stopCause = 0) :=
  ⟨5, { inMode .run with flt := { State.reset.flt with stopCause := 0, outLvl := State.reset.flt.outLvl.set 28 5 } },
    by decide +kernel⟩

theorem witness_capture_rings_1_mark : ∃ (ring : Fin 31) (s : State), (regsUp s = true) ∧
    (ringActive s ring = true) ∧ (s.sto.ring[ring].markValid = true) :=
  ⟨0, { captured with sto := { captured.sto with
      ring := captured.sto.ring.set 0 { captured.sto.ring[0] with markValid := true } } }, by decide +kernel⟩

theorem witness_capture_rings_1_no_mark : ∃ (ring : Fin 31) (s : State), (regsUp s = true) ∧
    (ringActive s ring = true) ∧ (s.sto.ring[ring].markValid = false) :=
  ⟨0, captured, by decide +kernel⟩

theorem witness_boot_failure_flash_absent : ∃ (r : BootReport) (s : State), (s.mod.mode = .boot) ∧
    (s.mod.collStall = false) ∧ (s.boot.step = 1) ∧ (r.storeTrained = true) ∧ (r.flash = .absent) :=
  ⟨{ goodReport with flash := .absent }, bootAt 1, by decide +kernel⟩

theorem witness_boot_failure_header : ∃ (r : BootReport) (s : State), (s.mod.mode = .boot) ∧
    (s.mod.collStall = false) ∧ (s.boot.step = 2) ∧ (r.headerOk = false) :=
  ⟨{ goodReport with headerOk := false }, bootAt 2, by decide +kernel⟩

theorem witness_boot_failure_length : ∃ (r : BootReport) (s : State), (s.mod.mode = .boot) ∧
    (s.mod.collStall = false) ∧ (s.boot.step = 2) ∧ (r.headerOk = true) ∧ (r.flashSize < r.length) :=
  ⟨{ goodReport with length := 8193 }, bootAt 2, by decide +kernel⟩

theorem witness_boot_failure_key : ∃ s : State, (s.mod.mode = .boot) ∧ (s.mod.collStall = false) ∧
    (s.boot.step = 3) ∧ (s.boot.encrypted = true) ∧ (s.sec.decKey = none) :=
  ⟨{ bootAt 3 with boot := { (bootAt 3).boot with encrypted := true } }, by decide +kernel⟩

theorem witness_boot_failure_signature : ∃ (r : BootReport) (s : State), (s.mod.mode = .boot) ∧
    (s.mod.collStall = false) ∧ (s.boot.step = 4) ∧
    (s.sec.imgKey = none ∨ s.sec.recordOk = false ∨ r.signatureOk = false) :=
  ⟨{ goodReport with signatureOk := false }, keyed (bootAt 4), by decide +kernel⟩

theorem witness_boot_failure_format : ∃ s : State, (s.mod.mode = .boot) ∧ (s.mod.collStall = false) ∧
    (s.boot.step = 5) ∧ (∃ m, s.boot.image = some m ∧ imageFormatOk m = false) :=
  ⟨{ bootAt 5 with boot := { (bootAt 5).boot with image := some { emptyImage with formatOk := false } } },
    by decide +kernel, by decide +kernel, by decide +kernel, _, rfl, by decide +kernel⟩

theorem witness_boot_failure_conflict : ∃ s : State, (s.mod.mode = .boot) ∧ (s.mod.collStall = false) ∧
    (s.boot.step = 5) ∧ (∃ m, s.boot.image = some m ∧ imageFormatOk m = true ∧ imageConflict m = true) :=
  ⟨{ bootAt 5 with boot := { (bootAt 5).boot with image := some { emptyImage with sram := 46 * 2 ^ 20 + 1 } } },
    by decide +kernel, by decide +kernel, by decide +kernel, _, rfl, by decide +kernel, by decide +kernel⟩

theorem witness_mode_commands_5_ready : ∃ s : State, (s.mod.mode ≠ .bypass) ∧ (s.mod.mode = .safe) ∧
    (∃ n : Fin 128, s.ch[n].state = .safed) :=
  ⟨setCh (inMode .safe) 127 fun h => { h with state := .safed }, by decide +kernel, by decide +kernel,
    127, by decide +kernel⟩

theorem witness_mode_commands_9_level : ∃ s : State, (s.mod.mode = .lockdown) ∧
    (∃ k : Fin 29, s.flt.outLvl[k] ≠ 0) :=
  ⟨{ inMode .lockdown with flt := { State.reset.flt with outLvl := State.reset.flt.outLvl.set 28 5 } },
    by decide +kernel, 28, by decide +kernel⟩

theorem witness_unit_faults_4_due : ∃ (ch : Fin 128) (s : State), (channelsLive s = true) ∧
    (s.ch[ch].ms.clampDue = true) ∧ (s.ch[ch].ms.leadDue = true) ∧ (s.ch[ch].eng.resDue = true) ∧
    (s.ch[ch].eng.frzDue = true) :=
  ⟨127, setCh (live .run) 127 fun h => { h with
      ms := { h.ms with clampDue := true, leadDue := true }, eng := { h.eng with resDue := true, frzDue := true } },
    by decide +kernel⟩

theorem witness_debug_opening_3_refused : ∃ (ch : Fin 4) (request : Word) (s : State),
    (s.mod.mode ≠ .opened) ∧ (scRequest s ch request 6 = true) ∧ (1 < s.sec.policy) ∧
    ((getMbx s (scNo ch) false).full = false) :=
  ⟨3, 0x06010000, { session 6 with sec := { (session 6).sec with policy := 2 } }, by decide +kernel⟩

/-- A request with its ARG waits on SC channel 3 of a session. -/
def sessionAsked (w : Word) : State :=
  { session 1 with mbx := State.reset.mbx.set 19 { State.reset.mbx[19] with
      h2c := { State.reset.mbx[19].h2c with full := true, data := w } } }

theorem witness_secure_requests_lengths : ∀ w ∈ ([0x0101007C, 0x0101007D, 0x0201003C, 0x0301007C, 0x04010030,
      0x05010001, 0x05010003, 0x07010000] : List Word),
    ∃ (ch : Fin 4) (s : State), (secUp s = true) ∧ (hasRequest s (scNo ch) w = true) ∧
      ((getMbx s (scNo ch) false).full = false) := by
  intro w hw
  exact ⟨3, sessionAsked w, by
    simp only [List.mem_cons, List.not_mem_nil, or_false] at hw
    rcases hw with rfl | rfl | rfl | rfl | rfl | rfl | rfl | rfl <;> decide +kernel⟩

theorem witness_remote_registers_busy : ∃ (k : Fin 2) (s : State), (regsUp s = true) ∧ (masterUp s .host = true) ∧
    (s.jx.ra[k].busy = true) :=
  ⟨0, { powered (inMode .run) with jx := { State.reset.jx with
      ra := State.reset.jx.ra.set 0 { State.reset.jx.ra[0] with busy := true } } }, by decide +kernel⟩

theorem witness_remote_registers_both : ∃ (k : Fin 2) (v : Word) (s : State), (regsUp s = true) ∧
    (s.jx.ra[k].busy = false) ∧ (bit v 0 = bit v 1) :=
  ⟨1, 3, inMode .run, by decide +kernel⟩

theorem witness_hardware_locks_1_remote : ∃ (c : Instr) (m : Master) (l : Fin 64) (s : State),
    (lockReach s m = true) ∧ (s.lock[l] = 0) ∧ (c = .loReadLatch m ⟨0x48000 + 4 * l.val, 0xF⟩) :=
  ⟨_, .ringAgent, 63, inMode .run, by decide +kernel, by decide +kernel, rfl⟩

theorem witness_hardware_locks_3_owner : ∃ (m : Master) (l : Fin 64) (v : Word) (s : State),
    (lockReach s m = true) ∧ (v = 0) ∧ (s.lock[l] = m.id) :=
  ⟨.secCore, 63, 0, { inMode .run with lock := State.reset.lock.set 63 3 }, by decide +kernel⟩

theorem witness_remote_service_2_on_ring : ∃ (f : Frame) (s : State), (arrives s f 3) ∧
    (onRing (busWriteBase (noteUpstream s f) .ringAgent (payNat f 0 4) (wordOf (payNat f 8 4))) = true) :=
  ⟨toMember 3 1 (toBytes 8 0x50 ++ toBytes 8 7) 16, member, by decide +kernel⟩

theorem witness_remote_requests_6_write : ∃ (f : Frame) (m : Fin 2) (s : State), (f.dst ≠ 1023) ∧
    (raOfSeq s f.seq = some m) ∧ (comesBack s f 3) :=
  ⟨sealFrame ⟨3, 9, 7, 2, 16, 5, 1, toBytes 16 0, false, 0⟩, 1,
    { member with jx := { member.jx with ra := member.jx.ra.set 1 { member.jx.ra[1] with busy := true, seq := 5 } } },
    by decide +kernel⟩

theorem witness_remote_requests_6_read : ∃ (f : Frame) (m : Fin 2) (s : State), (f.dst ≠ 1023) ∧
    (raOfSeq s f.seq = some m) ∧ (comesBack s f 1) :=
  ⟨ownFrame, 1,
    { member with jx := { member.jx with ra := member.jx.ra.set 1 { member.jx.ra[1] with busy := true, seq := 5 } } },
    by decide +kernel⟩

theorem witness_ring_deliveries_3_fits : ∃ (f : Frame) (q : Fin 32) (s : State), (arrives s f 0x21) ∧
    (q.val = f.arg % 32) ∧ (s.sq[q].en = true) ∧ (fieldN f.arg 24 16 ≤ s.sq[q].credit) :=
  ⟨toMember 0x21 (0x1001F) (List.replicate 16 0) 16, 31,
    { member with sq := State.reset.sq.set 31 { State.reset.sq[31] with en := true, cfg := 7 } }, by decide +kernel⟩

theorem witness_ring_deliveries_3_short : ∃ (f : Frame) (q : Fin 32) (s : State), (arrives s f 0x21) ∧
    (q.val = f.arg % 32) ∧ (s.sq[q].en = true) ∧ (s.sq[q].credit < fieldN f.arg 24 16) :=
  ⟨toMember 0x21 (0x1001F) (List.replicate 16 0) 16, 31,
    { member with sq := State.reset.sq.set 31 { State.reset.sq[31] with en := true, cfg := 7, credit := 0 } },
    by decide +kernel⟩

theorem witness_ring_events_1_late : ∃ (f : Frame) (s : State), (arrives s f 0x10) ∧ (f.dst = 1023) ∧
    (payNat f 0 8 < s.tb.now) :=
  ⟨eventFrame, { member with tb := { member.tb with now := 101 } }, by decide +kernel⟩

theorem witness_ring_events_2_seen : ∃ (f : Frame) (s : State), (arrives s f 0x11) ∧ (f.dst = 1023) ∧
    ((f.src, f.seq) ∈ s.jx.seen6) :=
  ⟨faultFrame 3, { member with jx := { member.jx with seen6 := [(3, 5)] } }, by decide +kernel⟩

theorem witness_forwarding_2_bad : ∃ (f : Frame) (s : State), (receives s = true) ∧ (isOwn s f = false) ∧
    (consumes s f = false) ∧ (f.hops < 1022) ∧ (crcOk f = false) ∧ (stomped f = false) :=
  ⟨{ passing 0 with crc := (passing 0).crc + 1 }, member, by decide +kernel⟩

theorem witness_forwarding_2_stomped : ∃ (f : Frame) (s : State), (receives s = true) ∧ (isOwn s f = false) ∧
    (consumes s f = false) ∧ (f.hops < 1022) ∧ (crcOk f = false) ∧ (stomped f = true) :=
  ⟨{ passing 0 with crc := frameCrc (passing 0) ^^^ 0xFFFFFFFF }, member, by decide +kernel⟩

/-- The master's own round of a pass comes back. -/
def comingBack (pass : Nat) : State :=
  { ringMaster with jx := { ringMaster.jx with enumPass := pass, roundTrip := [(0x13, 5)] } }

theorem witness_enumeration_5_pass1 : ∃ (f : Frame) (s : State), (comesBack s f 0x13) ∧ (jxMaster s = true) ∧
    (ownRound s f = true) ∧ (isPass1 f = true) ∧ (s.jx.enumPass = 1) ∧ (payNat f 128 4 ≤ 10000) :=
  ⟨sealFrame ⟨0x13, 1023, 0, 3, 136, 5, 1, enumPayload 1 10000, false, 0⟩, comingBack 1,
    ⟨by decide +kernel, crcOk_sealFrame _, by decide +kernel, by decide +kernel, by decide +kernel⟩, by decide +kernel⟩

theorem witness_enumeration_5_overbooked : ∃ (f : Frame) (s : State), (comesBack s f 0x13) ∧ (jxMaster s = true) ∧
    (ownRound s f = true) ∧ (isPass1 f = true) ∧ (s.jx.enumPass = 1) ∧ (10000 < payNat f 128 4) :=
  ⟨sealFrame ⟨0x13, 1023, 0, 3, 136, 5, 1, enumPayload 1 10001, false, 0⟩, comingBack 1,
    ⟨by decide +kernel, crcOk_sealFrame _, by decide +kernel, by decide +kernel, by decide +kernel⟩, by decide +kernel⟩

theorem witness_enumeration_5_pass2 : ∃ (f : Frame) (s : State), (comesBack s f 0x13) ∧ (jxMaster s = true) ∧
    (ownRound s f = true) ∧ (isPass1 f = false) ∧ (s.jx.enumPass = 2) :=
  ⟨sealFrame ⟨0x13, 1023, 0, 3, 136, 5, 0, enumPayload 3 0, false, 0⟩, comingBack 2,
    ⟨by decide +kernel, crcOk_sealFrame _, by decide +kernel, by decide +kernel, by decide +kernel⟩, by decide +kernel⟩

theorem witness_boundary_takes_mode_requests_hold_again : ∃ s : State, (s.tb.running = true) ∧ (s.flt.inbox = []) ∧
    (s.mod.safeReq = false) ∧ (s.mod.safePend = false) ∧ (s.mod.mode = .hold) ∧ (s.mod.holdReq = true) ∧
    (s.mod.runReq = true) :=
  ⟨{ live .hold with mod := { (live .hold).mod with holdReq := true, runReq := true } }, by decide +kernel⟩

theorem witness_power_manager_11_range : ∀ v ∈ ([550, 900, 555, 540, 910] : List Word), ∃ s : State, (regsUp s = true) ∧
    ((field v 9 0 % 10 = 0 ∧ 550 ≤ field v 9 0 ∧ field v 9 0 ≤ 900) ∨
      (field v 9 0 % 10 ≠ 0 ∨ field v 9 0 < 550 ∨ 900 < field v 9 0)) :=
  fun v hv => ⟨inMode .run, by decide +kernel, by
    simp only [List.mem_cons, List.not_mem_nil, or_false] at hv
    rcases hv with rfl | rfl | rfl | rfl | rfl <;> decide +kernel⟩

theorem witness_unit_faults_2_cap : ∃ (ch : Fin 128) (volts : Rat) (normal : Bool) (s : State),
    (channelsLive s = true) ∧ (masked s ch normal = false) ∧ (33 / 2 < absR volts) :=
  ⟨127, -17, true, live .lockdown, by decide +kernel⟩

theorem witness_frames_and_misses_1_change : ∃ (f : FrameInputs) (s : State), (s.tb.running = true) ∧
    (channelsLive s = true) ∧ (s.tb.changeAt.isSome = true) :=
  ⟨quietFrame, { live .run with tb := { (live .run).tb with changeAt := some 8001600 } }, by decide +kernel⟩

theorem witness_encoders_3_passes : ∃ (enc : Fin 32) (started : Bool) (bits check : Nat) (s : State),
    (encSsi s.seq.enc[enc] = true) ∧ (s.seq.enc[enc].transfer = true) ∧
    (ssiPasses s.seq.enc[enc] started (bits % 2 ^ ssiBits s.seq.enc[enc]) check = true) :=
  ⟨0, true, 5, 0, ssiState 0, by decide +kernel⟩

theorem witness_encoders_3_fails : ∃ (enc : Fin 32) (started : Bool) (bits check : Nat) (s : State),
    (encSsi s.seq.enc[enc] = true) ∧ (s.seq.enc[enc].transfer = true) ∧
    (ssiPasses s.seq.enc[enc] started (bits % 2 ^ ssiBits s.seq.enc[enc]) check = false) :=
  ⟨0, false, 5, 0, ssiState 0, by decide +kernel⟩

theorem witness_ring_time_1_again : ∃ (tick last : Nat) (s : State), (receives s = true) ∧ (jxMaster s = true) ∧
    (s.jx.overbooked = false) ∧ (s.jx.timeSent = some last) ∧ (last + s.jx.timePer.toNat ≤ nextBoundary s) ∧
    (tick = Nat.max s.tb.now (last + s.jx.timePer.toNat)) :=
  ⟨800, 0, { ringMaster with jx := { ringMaster.jx with timeSent := some 0, timePer := 800 } }, by decide +kernel⟩

theorem witness_ring_time_2_timed : ∃ (f : Frame) (residence : Nat) (s : State), (arrives s f 0x12) ∧
    (jxMaster s = false) ∧ (f.dst = 1023) ∧ (f.hops < 1022) ∧ (payNat f 28 4 ≠ 0) ∧ (s.jx.timed = true) :=
  ⟨timeFrame, 5, { member with jx := { member.jx with timed := true } },
    ⟨by decide +kernel, crcOk_sealFrame _, by decide +kernel, by decide +kernel, by decide +kernel⟩, by decide +kernel⟩

theorem witness_enumeration_1_taken : ∃ (f : Frame) (i : Nat) (s : State), (arrives s f 0x13) ∧ (jxMaster s = false) ∧
    (f.dst = 1023) ∧ (f.hops < 1022) ∧ (isPass1 f = true) ∧ (claimedId s = some i) ∧
    ((payNat f 0 128).testBit i = true) :=
  ⟨enumFrame 1, 0, { member with jx := { member.jx with id := 0 } },
    ⟨by decide +kernel, crcOk_sealFrame _, by decide +kernel, by decide +kernel, by decide +kernel⟩, by decide +kernel⟩

theorem witness_enumeration_4_time : ∃ (f : Frame) (s : State), (jxMaster s = true) ∧ (jxAutonomous s = false) ∧
    (isPresent s 0x15 0x404 = false) ∧ (ownRound s f = false) ∧ (comesBack s f 0x12) :=
  ⟨sealFrame ⟨0x12, 1023, 0, 3, 32, 9, 0, timePayload 1000 0 0 1 2, false, 0⟩, ringMaster, by decide +kernel⟩

theorem witness_ring_events_1_known : ∃ (f : Frame) (e : RingEvent) (s : State), (arrives s f 0x10) ∧
    (f.dst = 1023) ∧ (e = ⟨payNat f 8 1 % 32, payNat f 0 8, payNat f 9 1 % 2 == 1⟩) ∧ (knownEvent s e = true) :=
  ⟨eventFrame, ⟨5, 100, true⟩, { member with seq := { member.seq with executed := [⟨5, 100, true⟩] } },
    by decide +kernel⟩

theorem witness_blocks_reach_rings_1_raw : ∃ (n : Fin 2048) (ring : Fin 31) (s : State),
    (s.sto.stream[n].opened = true) ∧
    (s.sto.stream[n].openedAt + field s.sto.stream[n].age 13 0 * 800000 ≤ nextBoundary s) ∧
    (strRing s.sto.stream[n].cfg = ring.val) ∧ (ringActive s ring = true) ∧ (ringBlocks s ring ≠ 0) ∧
    (s.sto.ring[ring].wp - s.sto.ring[ring].rp < ringBlocks s ring) ∧ (6 ≤ strSrc s.sto.stream[n].cfg) ∧
    (s.sto.stream[n].raw ≠ []) ∧ (s.tb.now ≤ s.sto.stream[n].nextCode) ∧
    (s.ch[strCh s.sto.stream[n].cfg].cfg.func ≠ .off) :=
  ⟨0, 0, { rawOpen with
      tb := { rawOpen.tb with now := 8000000, last := 8000000 }
      sto := { rawOpen.sto with
        stream := rawOpen.sto.stream.set 0 { rawOpen.sto.stream[0] with nextCode := 8000000 } } }, by decide +kernel⟩

theorem witness_block_commands_complete_1_young : ∃ (n : Fin 2048) (s : State), (s.sto.stream[n].opened = true) ∧
    (strSrc s.sto.stream[n].cfg < 6) ∧
    (nextBoundary s < s.sto.stream[n].openedAt + field s.sto.stream[n].age 13 0 * 800000) :=
  ⟨0, { blockOpen 0 with tb := { (blockOpen 0).tb with now := 7998399, last := 7998399 } }, by decide +kernel⟩

theorem witness_block_commands_complete_3_overwrites : ∃ (f : Frame) (n : Fin 31) (s : State), (arrives s f 0x20) ∧
    (f.dst = s.jx.id) ∧ (f.poison = false) ∧ (rxRing s (f.arg % 8) = some n) ∧ (ringActive s n = true) ∧
    (ringBlocks s n ≠ 0) ∧ (ringBlocks s n ≤ s.sto.ring[n].wp - s.sto.ring[n].rp) ∧
    (ringOverwrites s.sto.ring[n].cfg = true) :=
  ⟨toMember 0x20 0 (List.replicate 4112 1) 4112, 0, { receiver with sto := { receiver.sto with
      ring := receiver.sto.ring.set 0 { receiver.sto.ring[0] with wp := 255, cfg := 16 } } },
    ⟨by decide +kernel, crcOk_sealFrame _, by decide +kernel, by decide +kernel, by decide +kernel⟩, by decide +kernel⟩

theorem witness_dma_commands_complete_5_into_queue : ∃ (e : Fin 8) (d : Desc) (q : Fin 32) (s : State),
    (dmaRuns s e = true) ∧ (s.dma[e].cur = none) ∧ (s.dma[e].aborting = false) ∧ (queueTaken s e d = false) ∧ (q.val = d.maddr % 32) ∧
    (descOk d = true) ∧ (d.op = 2) ∧ (qProd s.sq[q].cfg = 1) ∧ (s.sq[q].en = true) ∧ (s.sq[q].dropping = false) ∧
    (s.dma[e].moved = 0) ∧ (d.len / 16 ≤ s.sq[q].credit) :=
  ⟨7, ⟨0, 31, 16, 2, 0⟩, 31, { dmaState with sq := dmaState.sq.set 31 { dmaState.sq[31] with
      en := true, cfg := 1, credit := 1 } }, by decide +kernel⟩

theorem witness_dma_commands_complete_5_from_queue : ∃ (e : Fin 8) (d : Desc) (q : Fin 32) (s : State),
    (dmaRuns s e = true) ∧ (s.dma[e].cur = none) ∧ (s.dma[e].aborting = false) ∧ (queueTaken s e d = false) ∧ (q.val = d.maddr % 32) ∧
    (descOk d = true) ∧ (d.op = 3) ∧ (qCons s.sq[q].cfg = 1) ∧ (s.sq[q].en = true) ∧
    (s.sq[q].visible ≤ s.sq[q].items.length) :=
  ⟨7, ⟨0, 31, 16, 3, 0⟩, 31, { dmaState with sq := dmaState.sq.set 31 { dmaState.sq[31] with
      en := true, cfg := 0x10, items := [⟨7, 2⟩], visible := 1 } }, by decide +kernel⟩

theorem witness_dma_commands_complete_5_from_ring : ∃ (e : Fin 8) (d : Desc) (r : Fin 31) (s : State),
    (dmaRuns s e = true) ∧ (s.dma[e].cur = none) ∧ (s.dma[e].aborting = false) ∧ (queueTaken s e d = false) ∧ (descOk d = true) ∧ (d.op = 4) ∧
    (engineRing s e = some r) :=
  ⟨7, ⟨0, 0, 4112, 4, 0⟩, 1, { dmaState with sto := { dmaState.sto with
      parts := dmaState.sto.parts.set 1 ⟨16, 1, 1⟩
      ring := dmaState.sto.ring.set 1 { dmaState.sto.ring[1] with cfg := 8, wp := 1 } } }, by decide +kernel⟩

theorem witness_dma_commands_complete_5_bad : ∃ (e : Fin 8) (d : Desc) (s : State), (dmaRuns s e = true) ∧
    (s.dma[e].cur = none) ∧ (s.dma[e].aborting = false) ∧ (queueTaken s e d = false) ∧ (descOk d = false) :=
  ⟨7, ⟨0, 0, 7, 0, 1⟩, dmaState, by decide +kernel⟩

theorem witness_calibration_runs_9_checks : ∀ check ∈ ([1 / 10000000000, 1 / 10000000001] : List Rat),
    ∃ (ch : Fin 128) (v : TermResult) (r : CalRun) (s : State), (channelsLive s = true) ∧
    (s.comb[combOf ch].run = some r) ∧ (r.aborting = false) ∧ (r.phase = .measuring) ∧ (r.kind = .termOpen) ∧
    (r.chan = some ch) ∧ (v.check = check) ∧ (v.disagree ≤ b64ToRat s.cal.tol) :=
  fun check _ => ⟨0, { aTermResult with check := check }, aRun .termOpen .measuring none,
    inRun (aRun .termOpen .measuring none) [], by decide +kernel, by decide +kernel, rfl, rfl, rfl, by decide +kernel,
    rfl, (by decide +kernel : aTermResult.disagree ≤ b64ToRat (inRun (aRun .termOpen .measuring none) []).cal.tol)⟩

theorem witness_calibration_and_repair_requests_7_parallel : ∃ (comb : Fin 16) (i : Fin 8) (s : State),
    (regsUp s = true) ∧ (s.comb[comb].assigned = 15) ∧ (spareOut s comb = false) ∧ (repairing s.comb[comb] = false) ∧
    (s.ch[chanAt comb i].state = .stopped) ∧ (s.comb[comb].parallel = true) :=
  ⟨0, 7, { inMode .run with comb := State.reset.comb.set 0 { State.reset.comb[0] with parallel := true } },
    by decide +kernel⟩

theorem witness_collector_commands_1_present : ∃ (v : Word) (k : Fin 29) (s : State), (regsUp s = true) ∧
    (s.mod.collStall = false) ∧ (s.flt.inbox = []) ∧ (s.flt.tick ≠ s.tb.now) ∧ (bit v 31 = false) ∧
    (field v 7 0 = k.val) ∧ (1 ≤ k.val) ∧ (s.flt.outLvl[k] ≠ 0) ∧ (curOf s.flt k.val = true) :=
  ⟨28, 28, { later .run with flt := { (later .run).flt with
      outLvl := State.reset.flt.outLvl.set 28 1, present := [(28, 0x40A)] } }, by decide +kernel⟩

theorem witness_remote_service_1_hole : ∃ (f : Frame) (s : State), (arrives s f 1) ∧ (f.dst = s.jx.id) ∧
    (f.arg % 4 = 1) ∧ (0x04000000 ≤ payNat f 0 4) :=
  ⟨toMember 1 1 (toBytes 8 0x04000000) 8, member, by decide +kernel⟩

theorem witness_registers_6_range : ∀ v ∈ ([1600000, 1600001] : List Word), ∃ (m : Master) (s : State),
    (regsUp s = true) ∧ (masterUp s m = true) ∧ (heldOf s.bus.stages m.id 0xB0008 = some v) :=
  fun v hv => ⟨.secCore, { inMode .run with bus := { State.reset.bus with stages := [(3, 0xB0008, v)] } }, by
    simp only [List.mem_cons, List.not_mem_nil, or_false] at hv
    rcases hv with rfl | rfl <;> decide +kernel⟩

theorem witness_forwarding_3_unknown : ∃ (f : Frame) (s : State), (receives s = true) ∧ (isOwn s f = true) ∧
    (crcOk f = true) ∧ (f.hops ≠ 0) ∧ (frameKnown f = false) :=
  ⟨sealFrame { ownFrame with type := 0x7F }, member, by decide +kernel⟩

theorem witness_dma_commands_complete_5_no_credit : ∃ (e : Fin 8) (d : Desc) (q : Fin 32) (s : State),
    (dmaRuns s e = true) ∧ (s.dma[e].cur = none) ∧ (s.dma[e].aborting = false) ∧ (queueTaken s e d = false) ∧
    (q.val = d.maddr % 32) ∧ (descOk d = true) ∧ (d.op = 2) ∧ (qProd s.sq[q].cfg = 1) ∧ (s.sq[q].en = true) ∧
    (s.dma[e].moved = 0) ∧ (s.sq[q].credit = 0) :=
  ⟨7, ⟨0, 31, 16, 2, 0⟩, 31, { dmaState with sq := dmaState.sq.set 31 { dmaState.sq[31] with
      en := true, cfg := 1, credit := 0 } }, by decide +kernel⟩

theorem witness_boot_failure_pll : ∃ (r : BootReport) (s : State), (s.mod.mode = .boot) ∧ (s.mod.collStall = false) ∧
    (s.boot.step = 0) ∧ (r.secure.keyStoreOk = true) ∧ (r.pllLocked = false) ∧ (s.tb.running = false) :=
  ⟨{ goodReport with pllLocked := false }, bootAt 0, by decide +kernel⟩

theorem witness_boot_failure_causeways : ∃ (r : BootReport) (s : State), (s.mod.mode = .boot) ∧
    (s.mod.collStall = false) ∧ (s.boot.step = 0) ∧ (s.sec.erased = true) ∧ (r.causewaysTrained = false) :=
  ⟨{ goodReport with causewaysTrained := false }, { bootAt 0 with sec := { State.reset.sec with erased := true } },
    by decide +kernel⟩

theorem witness_boot_failure_tag : ∃ (r : BootReport) (s : State), (s.mod.mode = .boot) ∧ (s.mod.collStall = false) ∧
    (s.boot.step = 4) ∧ (s.sec.imgKey.isSome = true) ∧ (s.sec.recordOk = true) ∧ (r.signatureOk = true) ∧
    (s.boot.encrypted = true) ∧ (r.tagOk = false) :=
  ⟨{ goodReport with tagOk := false },
    { keyed (bootAt 4) with boot := { (bootAt 4).boot with encrypted := true } }, by decide +kernel⟩

theorem witness_boot_failure_long : ∃ (r : BootReport) (s : State), (s.mod.mode = .boot) ∧ (s.mod.collStall = false) ∧
    (s.boot.step = 2) ∧ (r.headerOk = true) ∧ (67108864 < r.length) ∧ (r.length ≤ r.flashSize) :=
  ⟨{ goodReport with length := 67108865, flashSize := 134217728 }, bootAt 2, by decide +kernel⟩

theorem witness_start_and_stop_channels_2_in_frame : ∃ (ch : Fin 128) (s : State), (regsUp s = true) ∧
    (s.mod.mode = .run) ∧ (s.ch[ch].state = .stopped) ∧ (s.ch[ch].stopFrame = some s.tb.last) :=
  ⟨127, setCh (live .run) 127 fun h => { h with stopFrame := some 0 }, by decide +kernel⟩

theorem witness_start_and_stop_channels_5_reacted : ∃ (ch : Fin 128) (s : State), (s.mod.mode.operating = true) ∧
    (s.mod.safePend = false) ∧ (s.ch[ch].state = .safed) ∧ (s.ch[ch].reactFrame = some s.tb.last) :=
  ⟨127, setCh (live .run) 127 fun h => { h with state := .safed, reactFrame := some 0 }, by decide +kernel⟩

theorem witness_frame_runs_channels_1_bank : ∃ (c : Fin 128) (s : State), PlainFrame s ∧ (s.ch[c].state = .running) ∧
    (hasLoop s.ch[c].cfg = true) ∧ (s.ch[c].eng.bankSel ≠ s.ch[c].eng.bankAct) ∧
    (bankCross s.ch[c].cfg (bankOf s.ch[c].cfg s.ch[c].eng.bankSel) = true) :=
  ⟨0, looping fun h => { h with
      cfg := { h.cfg with vTable := [2], bankB := { h.cfg.bankB with ct := Vector.replicate 4 ctB } }
      eng := { h.eng with bankSel := true } }, by constructor <;> decide +kernel,
    by decide +kernel⟩

theorem witness_frame_runs_channels_1_current : ∃ (c : Fin 128) (i : Nat) (s : State), PlainFrame s ∧
    (s.ch[c].state = .running) ∧ (hasLoop s.ch[c].cfg = true) ∧ (s.ch[c].range.seq = none) ∧
    (inHandover s c = false) ∧ (s.ch[c].range.pendV = none) ∧ (s.ch[c].range.pendI = some i) ∧
    (i ≠ s.ch[c].range.iAct) ∧ (i < 8 ∨ s.ch[c].range.iAct < 8) ∧ (iRefused s.ch[c] i = false) :=
  ⟨0, 3, looping fun h => { h with cfg := { h.cfg with iTable := [3] }, range := { h.range with pendI := some 3 } }, by constructor <;> decide +kernel,
    by decide +kernel⟩

theorem witness_frame_runs_channels_1_current_refused : ∃ (c : Fin 128) (i : Nat) (s : State), PlainFrame s ∧
    (s.ch[c].state = .running) ∧ (s.ch[c].range.pendI = some i) ∧ (i ≠ s.ch[c].range.iAct) ∧
    (iRefused s.ch[c] i = true) :=
  ⟨0, 11, looping fun h => { h with range := { h.range with pendI := some 11 } }, by constructor <;> decide +kernel,
    by decide +kernel⟩

theorem witness_frame_runs_channels_1_voltage : ∃ (c : Fin 128) (v : Nat) (s : State), PlainFrame s ∧
    (s.ch[c].state = .running) ∧ (s.ch[c].range.seq = none) ∧ (inHandover s c = false) ∧
    (s.ch[c].range.pendV = some v) ∧ (v ≠ s.ch[c].range.vAct) ∧ (vRefused s.ch[c] v = false) :=
  ⟨0, 1, looping fun h => { h with cfg := { h.cfg with vTable := [1] }, range := { h.range with pendV := some 1 } }, by constructor <;> decide +kernel,
    by decide +kernel⟩

theorem witness_period_writes_and_ledger_refusals_8_bandwidth : ∃ (q : Fin 32) (s : State), (regsUp s = true) ∧
    (s.sq[q].en = false) ∧
    (verdictNow { s with sq := s.sq.set q { s.sq[q] with en := true } } [.store] true = .refusedByBandwidth) :=
  ⟨31, { inMode .run with sq := (Vector.replicate 32 { State.reset.sq[0] with en := true, cfg := 0x3E800000 }).set 31 State.reset.sq[31] },
    by decide +kernel⟩

theorem witness_frame_runs_channels_1_no_reaction : ∃ (c : Fin 128) (s : State), PlainFrame s ∧
    (s.ch[c].state = .running) ∧ (hasLoop s.ch[c].cfg = true) ∧ (s.ch[c].eng.frozen = false) ∧
    (s.ch[c].range.seq = none) ∧ ((engineFrame s c (frameSec s) 1).ch[c].eng.reacting = false) :=
  ⟨0, looping id, by constructor <;> decide +kernel, by decide +kernel⟩

/-! ## Ill-formed commands are refused -/

/-- A frame's header with nothing in it. -/
def bareFrame : Frame := ⟨0x12, 1023, 3, 0, 0, 5, 0, [], false, 0⟩

theorem test_wf_refuses_link_and_coef : ([.pcieLinkUp 6 4, .pcieLinkUp 5 3, .coefWrite 0 false 0x58 0,
    .coefWrite 0 false 0x404 0, .coefWrite 0 false 0x530 0, .ssiWordDone 0 true (2 ^ 48) 0,
    .ssiWordDone 0 true 0 64] : List Instr).all (fun c => !c.wf) = true := by decide +kernel

theorem test_wf_refuses_boundary : ([.frameBoundary { quietFrame with csl := [(1, 0), (1, 0)] },
    .frameBoundary { quietFrame with raw := [(7, []), (7, [])] },
    .frameBoundary { quietFrame with readings := [(2, readingOf quietFrame 2), (1, readingOf quietFrame 1)] }] :
    List Instr).all (fun c => !c.wf) = true := by decide +kernel

theorem test_wf_refuses_messages : ([.faultOnset [⟨256, 0, 0⟩], .faultOnset [⟨1, 4096, 0⟩], .notice ⟨0x41, 0, 2 ^ 40⟩,
    .faultEnd 128 0, .faultEnd 1 4096, .captureBlockClose 0 [2 ^ 32]] : List Instr).all (fun c => !c.wf) = true := by
  decide +kernel

theorem test_wf_refuses_descriptors : ([.dmaDescriptorDone 0 ⟨2 ^ 64, 0, 8, 0, 0⟩ [] .ok,
    .dmaDescriptorDone 0 ⟨0, 2 ^ 64, 8, 0, 0⟩ [] .ok, .dmaDescriptorDone 0 ⟨0, 0, 2 ^ 32, 0, 0⟩ [] .ok,
    .loReadLatch .host ⟨2 ^ 32, 0xF⟩, .loWriteStage .host ⟨2 ^ 32, 0xF⟩ 0, .hiWriteCommit .host ⟨2 ^ 32, 0xF⟩ 0,
    .registerWrite .host ⟨2 ^ 32, 0xF⟩ 0] : List Instr).all (fun c => !c.wf) = true := by decide +kernel

theorem test_wf_refuses_frames : ([.time { bareFrame with src := 1024 } 0, .enum { bareFrame with dst := 1024 },
    .event { bareFrame with hops := 1024 }, .block { bareFrame with len := 65536 },
    .qitems { bareFrame with arg := 2 ^ 32 }, .wrReq { bareFrame with seq := 2 ^ 32 },
    .rdReq { bareFrame with type := 256 }, .fault6 { bareFrame with src := 1024 }, .rdRsp { bareFrame with src := 1024 },
    .wrRsp { bareFrame with src := 1024 }, .jxFrameForward ⟨{ bareFrame with src := 1024 }, 0⟩,
    .jxFrameForward ⟨{ bareFrame with arg := 2 ^ 32 }, 0⟩, .jxFrameForward ⟨{ bareFrame with len := 8 }, 0⟩,
    .enum bareFrame] :
    List Instr).all (fun c => !c.wf) = true := by decide +kernel

theorem test_wf_accepts : ([.pcieLinkUp 5 4, .frameBoundary quietFrame, .coefWrite 0 false 0x528 0,
    .ssiWordDone 0 true (2 ^ 48 - 1) 63, .faultOnset [⟨28, 0x40A, 2 ^ 40 - 1⟩], .faultEnd 28 4095,
    .captureBlockClose 0 [2 ^ 32 - 1], .time bareFrame 0, .dmaDescriptorDone 0 ⟨2 ^ 64 - 1, 0, 8, 0, 0⟩ [] .ok,
    .registerWrite .host ⟨2 ^ 32 - 1, 0xF⟩ 0, .jxFrameForward ⟨bareFrame, 0⟩, .ready] : List Instr).all Instr.wf = true := by decide +kernel

/-! ## The manual's worked examples -/

/-- The state a command answers with, reset's where it answers none. -/
def after (c : Instr) (s : State) : State :=
  match exec c s with
  | .next t => t
  | _ => State.reset

/-- R248: the check value over "123456789". -/
theorem test_crc_check_value :
    crc32c [0x31, 0x32, 0x33, 0x34, 0x35, 0x36, 0x37, 0x38, 0x39] = 0xE3069283 := by decide +kernel

/-- R232: 1,200 ticks asked at B = 8,000,000: the first multiple of 1,200 at or after 8,000,800. -/
theorem test_frame_period_change : multipleFrom 1200 (8000000 + 800) = 8001600 := by decide +kernel

/-- R112: the demands of the worked case on the ±2 V range, and which steps are major. -/
theorem test_major_steps : ([(95, 102), (102, 110), (110, 90), (90, 1), (1, -1)] : List (Int × Int)).map
    (fun p => majorStep 2 ((p.1 : Rat) / 100) ((p.2 : Rat) / 100)) = [true, false, true, true, true] := by
  decide +kernel

/-- A contender whose integral term is v. -/
def holding (co : Coef) (v : Rat) : Contender := holdTerm co v State.reset.ch[0].eng.ct[0]

/-- R148, frame 0: the load takes 1.0 mA at 10 V. -/
theorem test_takeover_outputs :
    (evalCt ctA (1 / 1000000) false false 10 10 0 0 (holding ctA 10)).u = 10 ∧
    (evalCt ctB (1 / 1000000) false false (8 / 10000) (1 / 1000) 0 0 (holding ctB 10)).u = 8 ∧
    (evalCt ctB (1 / 1000000) false false (-8 / 10000) (1 / 1000) 0 0 (holding ctB 10)).u = -8 ∧
    select [⟨0, false, 10⟩, ⟨1, false, 8⟩, ⟨2, true, -8⟩] = some ⟨1, false, 8⟩ := by decide +kernel

theorem test_takeover_clamp : (dynClamp ctA false 8 (holding ctA 10)).iterm = 8 ∧
    (dynClamp ctA false 8 (holding ctA 10)).track = true ∧ (dynClamp ctB true 8 (holding ctB (-8))).iterm = 8 := by
  decide +kernel

/-- R153: the worked swap while saturated, 4×10^5 and 6.0 V to 2×10^5 and 5.0 V. -/
theorem test_swap_saturated :
    (swapCt { ctA with ki := 0x41186A0000000000, intHi := 0x4018000000000000 }
      { ctA with ki := 0x41086A0000000000, intHi := 0x4014000000000000 }
      { State.reset.ch[0].eng.ct[0] with s := 15 / 1000000 }).s = 25 / 1000000 ∧
    (swapCt { ctA with ki := 0x41186A0000000000, intHi := 0x4018000000000000 }
      { ctA with ki := 0x41086A0000000000, intHi := 0x4014000000000000 }
      { State.reset.ch[0].eng.ct[0] with s := 15 / 1000000 }).bump = true := by decide +kernel

/-- R168: 50 mm at 0.2 m/s, 2 m/s² and 100 m/s³. -/
theorem test_worked_move : motionSegs ⟨1 / 5, 2, 100⟩ (1 / 1000000) 0 0 (1 / 20) =
    [⟨100, 20000⟩, ⟨0, 80000⟩, ⟨-100, 20000⟩, ⟨0, 130000⟩, ⟨-100, 20000⟩, ⟨0, 80000⟩, ⟨100, 20000⟩] := by
  decide +kernel

/-- R170: the shortest stop from 0.2 m/s rests 12 mm on; the fresh move of 10 mm has 41,415 frames twice. -/
theorem test_worked_stop :
    (stopSegs ⟨1 / 5, 2, 100⟩ (1 / 1000000) (1 / 5) 0).map (·.frames) = [20000, 80000, 20000] ∧
    (endState' (1 / 1000000) (stopSegs ⟨1 / 5, 2, 100⟩ (1 / 1000000) (1 / 5) 0) (38 / 1000, 1 / 5, 0)).1 =
      50 / 1000 ∧
    (motionSegs ⟨1 / 5, 2, 100⟩ (1 / 1000000) 0 0 (1 / 100)).map (·.frames) =
      [20000, 41415, 20000, 20000, 41415, 20000] := by decide +kernel

/-- The channel of the worked admission (R220): four contenders, a pair, order 3, encoder 6. -/
def charged (n : Nat) : ChCfg :=
  { State.reset.ch[0].cfg with
    func := .servo
    lpCfg := BitVec.ofNat 32 (n * 16)
    ctCfg := #v[0x01, 0x31, 0x43, 0x11]
    ctFb := #v[0x64, 0x01, 0x01, 0x64] }

theorem test_engine_charges : engineCharge 10 (charged 3) = 209 ∧ engineCharge 10 (charged 4) = 238 ∧
    engineCharge 0 (charged 2) = 186 := by decide +kernel

/-- R369: rings of 1 MiB and 4 MiB hold 255 and 1,020 blocks. -/
theorem test_ring_sizes : ringBlocks captured 0 = 255 ∧
    ringBlocks { captured with sto := { captured.sto with parts := captured.sto.parts.set 0 ⟨0, 4, 1⟩ } } 0 = 1020 := by
  decide +kernel

/-- The ring of R253 with its reader stalled and WP as given: N = 255, RP 900, MARK 850. -/
def marked (wp : Nat) (cfg : Word) : State :=
  let s := blockOpen 0
  { s with sto := { s.sto with ring := s.sto.ring.set 0 { s.sto.ring[0] with
      cfg := cfg, wp := wp, rp := 900, mark := 850, markValid := true } } }
/-- Its ring after one more block. -/
def marked' (wp : Nat) (cfg : Word) : CapRing := (after (.captureBlockClose 0 []) (marked wp cfg)).sto.ring[0]

theorem test_mark_survives_and_is_lost :
    (marked' 1104 0).wp = 1105 ∧ (marked' 1104 0).markValid = true ∧ (marked' 1105 0).wp = 1106 ∧
    (marked' 1105 0).markValid = false ∧ (marked' 1105 0).markLost = true := by decide +kernel

theorem test_full_ring_policies :
    (marked' 1155 16).wp = 1156 ∧ (marked' 1155 16).rp = 901 ∧ (marked' 1155 16).ovwr = 1 ∧
    (marked' 1155 0).wp = 1155 ∧ (marked' 1155 0).rp = 900 ∧ (marked' 1155 0).drop = 1 := by decide +kernel

/-- R288: FEEDBACK_LOST outstanding at level 1, then three faults at T = 5,200,000,800. -/
def escalating : State :=
  let s := live .run
  { s with
    tb := { s.tb with now := 5200000800, last := 5200000800 }
    flt := { s.flt with outLvl := s.flt.outLvl.set 6 1 } }
/-- The state after the three. -/
def escalated : State :=
  after (.faultOnset [⟨5, 0x045, 41 * 2 ^ 32⟩, ⟨6, 0x095, 86 * 2 ^ 32 + 1⟩, ⟨6, 0x050, 45 * 2 ^ 32 + 1⟩]) escalating

theorem test_worked_escalation : escalated.flt.hist.slots[0] = BitVec.ofNat 64 (5200000800 + 2 ^ 60) ++ (0x0605022D00000001 : DWord) ∧
    escalated.flt.hist.slots[1] = BitVec.ofNat 64 (5200000800 + 2 ^ 60 + 2 ^ 63) ++ (0x0609525600000001 : DWord) ∧
    escalated.flt.hist.slots[2] = BitVec.ofNat 64 (5200000800 + 2 ^ 63) ++ (0x0504512900000000 : DWord) ∧
    escalated.flt.hist.first = escalated.flt.hist.slots[0] := by decide +kernel

theorem test_worked_escalation_next :
    (after (.faultOnset [⟨6, 0x0C4, 112 * 2 ^ 32 + 1⟩])
        { escalated with tb := { escalated.tb with now := 5200001600 } }).flt.hist.slots[3] =
      BitVec.ofNat 64 (5200001600 + 2 ^ 60) ++ (0x060C437000000001 : DWord) ∧
    (after (.faultOnset [⟨6, 0x0C4, 112 * 2 ^ 32 + 1⟩])
        { escalated with tb := { escalated.tb with now := 5200001600 } }).flt.outLvl[6] = 3 := by decide +kernel

/-- R315, in units of 1/1,024 tick taken as 0.1 ns: T_M 0, CORR 220 ns, LTOT 9.9 ns, WACC 2, LINK_WT 2, WTOT 6. -/
theorem test_time_estimate : timeEstimate { member with jx := { member.jx with cfg := 0x02000001 } }
    (frameOf 0x12 1023 0 0 32 (timePayload 0 2200 99 2 6)) * 1024 = 2266 := by decide +kernel

/-- R382, R389: the worked set of writes for channel 101; bank A is active, so a write of its KI is turned away. -/
theorem test_worked_writes :
    (after (.hiWriteCommit .appCore ⟨0x01C5300C, 0xF⟩ 0x41086A00)
      (after (.loWriteStage .appCore ⟨0x01C53008, 0xF⟩ 0) (inMode .run))).ch[101].cfg.bankB.ct[0].ki = 0x41086A0000000000 ∧
    (after (.registerWrite .appCore ⟨0x01C51004, 0xF⟩ 1) (inMode .run)).ch[101].eng.bankSel = true ∧
    (after (.loReadLatch .appCore ⟨0x01CF0000, 0xF⟩) (inMode .run)).bus.read = 0x76543210 := by decide +kernel

theorem test_worked_write_of_active_bank :
    (after (.hiWriteCommit .appCore ⟨0x01C5200C, 0xF⟩ 0x41086A00)
      (after (.loWriteStage .appCore ⟨0x01C52008, 0xF⟩ 0)
        (setCh (inMode .run) 101 fun h => { h with state := .running }))).ch[101].eng.bankRej = true := by
  decide +kernel

/-- R380: the worked address of channel 13 of board 2, channel 77; 1.5 V through the legacy window. -/
theorem test_worked_legacy_address :
    (after (.hiWriteCommit .appCore ⟨0x020021AC, 0xF⟩ 0x3FF80000)
      (after (.loWriteStage .appCore ⟨0x020021A8, 0xF⟩ 0)
        (setCh (inMode .run) 77 fun h => { h with cfg := { h.cfg with
          func := .fv, vTable := [1] } }))).ch[77].pg.target =
      0x3FF8000000000000 := by decide +kernel

/-- R87: the worked case of channel 37, a full down count on code 4 asks for code 3. -/
theorem test_autorange_wants_down :
    (after (.autorangeDown 37) (setCh (inMode .run) 37 fun h => { h with
      state := .running
      cfg := { h.cfg with func := .fv, ar := 0x5201 }
      range := { h.range with downCount := 16, iAct := 4 } })).ch[37].range.pendI = some 3 := by decide +kernel

end Sys2Proof.Tests
end

section
/-!
PROOF. Register accesses (R9, R10, R13, R14, R38): where an access lands, what a read of a LO and of a HI register
returns and latches, what a write stages and commits, and O58 from these.
-/

namespace Sys2Proof.Machine

variable {s : State} {m : Master} {a : Nat} {be : BitVec 4} {v : Word}

/-! ## The four commands -/

theorem exec_loReadLatch : exec (.loReadLatch m ⟨a, be⟩) s = .next (readRegister s m a be) := rfl
theorem exec_loWriteStage : exec (.loWriteStage m ⟨a, be⟩ v) s = .next (writeLo s m a be v) := rfl
theorem exec_hiWriteCommit : exec (.hiWriteCommit m ⟨a, be⟩ v) s = .next (writeHi s m a be v) := rfl
theorem exec_registerWrite : exec (.registerWrite m ⟨a, be⟩ v) s = .next (writeOther s m a be v) := rfl

theorem wholeDword_narrow (h : be ≠ 0xF) : wholeDword be = false := by simpa [wholeDword] using h
@[simp] theorem wholeDword_full : wholeDword 15#4 = true := rfl

/-! ## Where an access lands -/

/-- The register space lies below BAR2. -/
theorem inBar2_of_answers (h : answers s m a = true) : inBar2 s m a = false := by
  have ha : a < 0x04000000 := by
    simp only [answers, Bool.and_eq_true, decide_eq_true_eq] at h
    exact h.1.1.2
  have hb : ¬ bar2Base ≤ a := by simp only [bar2Base]; omega
  simp [inBar2, hb]

theorem answers_unaligned (h : a % 4 ≠ 0) : answers s m a = false := by simp [answers, h]
theorem inBar2_unaligned (h : a % 4 ≠ 0) : inBar2 s m a = false := by simp [inBar2, h]
theorem answers_bypass (h : s.mod.mode = .bypass) : answers s m a = false := by simp [answers, h]
theorem inBar2_bypass (h : s.mod.mode = .bypass) : inBar2 s m a = false := by simp [inBar2, h]

/-- From SAFE onwards every aligned address of BAR0 answers (R38, R48). -/
theorem answers_of_regsUp (hr : regsUp s = true) (hm : masterUp s m = true) (h4 : a % 4 = 0) (ha : a < 0x04000000) :
    answers s m a = true := by
  cases hmode : s.mod.mode <;> simp_all [answers, regsUp]

/-- Identity and mode answer in every mode but BYPASS (R48). -/
theorem answers_of_modBlock (hb : s.mod.mode ≠ .bypass) (hm : masterUp s m = true) (h4 : a % 4 = 0)
    (ha : a < 0x10000) : answers s m a = true := by
  have hw : a < 0x04000000 := by omega
  cases hmode : s.mod.mode <;> simp_all [answers]

/-- Below the unit blocks the block of a LO register is found by its address alone. -/
theorem unitAddr_below (h : a < 0x01000000) : unitAddr a = none := by
  have : ¬ 0x01000000 ≤ a := by omega
  simp [unitAddr, this]

theorem legacyAddr_below (h : a < 0x01000000) : legacyAddr a = none := by
  have : ¬ 0x02000000 ≤ a := by omega
  simp [legacyAddr, this]

/-! ## Reads (R9, R13) -/

theorem readRegister_narrow (h : be ≠ 0xF) : readRegister s m a be = updBus s fun b => { b with read := 0 } := by
  simp [readRegister, wholeDword_narrow h]

theorem readRegister_whole {w : Word} {t : State} (h : busRead s m a = (w, t)) :
    readRegister s m a 0xF = updBus t fun b => { b with read := w } := by
  simp [readRegister, h]

theorem busRead_silent (hb : inBar2 s m a = false) (ha : answers s m a = false) : busRead s m a = (0, s) := by
  simp [busRead, hb, ha]

/-- A LO register: its low word, and its high word is latched for the master. -/
theorem busRead_lo {v : DWord} (ha : answers s m a = true) (hv : lo64 s a = some v) :
    busRead s m a =
      (loHalf v, updBus s fun b => { b with latches := holdNew b.latches m.id a (hiHalf v) }) := by
  simp [busRead, inBar2_of_answers ha, ha, hv]

/-- A HI register: what the master has latched, or the present high word. -/
theorem busRead_hi {w : DWord} (ha : answers s m (a + 4) = true) (hn : lo64 s (a + 4) = none)
    (hw : lo64 s a = some w) :
    busRead s m (a + 4) = ((heldOf s.bus.latches m.id a).getD (hiHalf w), s) := by
  simp [busRead, inBar2_of_answers ha, ha, hn, hw]

/-! ## Writes (R9, R14) -/

theorem writeLo_narrow (h : be ≠ 0xF) : writeLo s m a be v = s := by
  simp [writeLo, wholeDword_narrow h]
theorem writeHi_narrow (h : be ≠ 0xF) : writeHi s m a be v = s := by
  simp [writeHi, wholeDword_narrow h]
theorem writeOther_narrow (h : be ≠ 0xF) : writeOther s m a be v = s := by
  simp [writeOther, wholeDword_narrow h]

theorem writeOther_silent (hb : inBar2 s m a = false) (ha : answers s m a = false) :
    writeOther s m a be v = s := by
  simp [writeOther, hb, ha]

theorem writeLo_of_lo (ha : answers s m a = true) (hw : mayWrite m a = true) (hl : halfOf s a = .lo) :
    writeLo s m a 0xF v = stageWord s m a v := by
  simp [writeLo, ha, hw, hl]

theorem writeHi_of_hi (ha : answers s m a = true) (hw : mayWrite m a = true) (hh : halfOf s a = .hi) :
    writeHi s m a 0xF v = commitHi s m a v := by
  simp [writeHi, ha, hw, hh]

/-- A register outside the ring's block that is no half of a 64-bit one. -/
theorem writeOther_of_none (ha : answers s m a = true) (hw : mayWrite m a = true) (hn : halfOf s a = .none)
    (h7 : a / 0x10000 ≠ 7) : writeOther s m a 0xF v = write32 s m a v := by
  simp [writeOther, inBar2_of_answers ha, ha, hw, hn, h7]

theorem mayWrite_outside (h : a < 0x90000 ∨ 0xA0000 ≤ a) : mayWrite m a = true := by
  simp [mayWrite, h]

/-! ## SEQ_RINGLEAD and the identity and mode block -/

theorem halfOf_ringLead_lo : halfOf s 0xB0008 = .lo := rfl
theorem halfOf_ringLead_hi : halfOf s 0xB000C = .hi := rfl

/-- A commit of SEQ_RINGLEAD takes a value up to 1,600,000 and refuses others (R157). -/
theorem commit64_ringLead (x : DWord) : commit64 s 0xB0008 x =
    if x.toNat ≤ 1600000 then updSeq s fun q => { q with ringLead := x } else seqRej s := rfl

theorem commitHi_ringLead {w : Word} (h : heldOf s.bus.stages m.id 0xB0008 = some w) :
    commitHi s m 0xB000C v = commit64 s 0xB0008 (joinHalves v w) := by
  simp [commitHi, h]

/-- A commit of SEQ_RINGLEAD by a master that is up, from SAFE onwards. -/
theorem writeHi_ringLead {w : Word} (hr : regsUp s = true) (hm : masterUp s m = true)
    (h : heldOf s.bus.stages m.id 0xB0008 = some w) :
    writeHi s m 0xB000C 0xF v = if (joinHalves v w).toNat ≤ 1600000
      then updSeq s fun q => { q with ringLead := joinHalves v w } else seqRej s := by
  rw [writeHi_of_hi (answers_of_regsUp hr hm (by decide) (by decide)) (mayWrite_outside (.inr (by decide)))
    halfOf_ringLead_hi, commitHi_ringLead h, commit64_ringLead]

/-- A write to the identity and mode block past its 64-bit register. -/
theorem writeOther_modBlock (hb : s.mod.mode ≠ .bypass) (hm : masterUp s m = true) (h4 : a % 4 = 0)
    (hn : halfOf s a = .none) (ha : a < 0x10000) : writeOther s m a 0xF v = modWrite s a v := by
  have hdiv : a / 0x10000 = 0 := by omega
  have hmod : a % 0x10000 = a := by omega
  rw [writeOther_of_none (answers_of_modBlock hb hm h4 ha) (mayWrite_outside (.inl (by omega))) hn (by omega)]
  simp [write32, unitAddr_below (show a < 0x01000000 by omega), legacyAddr_below (show a < 0x01000000 by omega),
    hdiv, hmod]

/-- Settles O58: each clause from where its access lands. -/
theorem registers : Obligations.Registers := by
  unfold Obligations.Registers
  refine ⟨fun m a be v s h => ?_, fun m a v s ha hv => ?_, fun m a v w s ha hn hw hh => ?_,
    fun m a w s ha hn hw hh => ?_, fun m a v s h => ?_,
    fun m v w s hr hm => ⟨?_, fun hh => ⟨fun hle => ?_, fun hgt => ?_⟩⟩,
    fun m v s hm => ⟨fun hb => ?_, fun hb a => ?_, ?_⟩⟩
  · rw [exec_loReadLatch, exec_loWriteStage, exec_hiWriteCommit, exec_registerWrite, readRegister_narrow h,
      writeLo_narrow h, writeHi_narrow h, writeOther_narrow h]
    exact ⟨rfl, rfl, rfl, rfl⟩
  · rw [exec_loReadLatch, readRegister_whole (busRead_lo ha hv)]
    rfl
  · rw [exec_loReadLatch, readRegister_whole (busRead_hi ha hn hw), hh]
    rfl
  · rw [exec_loReadLatch, readRegister_whole (busRead_hi ha hn hw), hh]
    rfl
  · rw [exec_loReadLatch, exec_registerWrite,
      readRegister_whole (busRead_silent (inBar2_unaligned h) (answers_unaligned h)),
      writeOther_silent (inBar2_unaligned h) (answers_unaligned h)]
    exact ⟨rfl, rfl⟩
  · rw [exec_loWriteStage, writeLo_of_lo (answers_of_regsUp hr hm (by decide) (by decide))
      (mayWrite_outside (.inr (by decide))) halfOf_ringLead_lo]
    rfl
  · rw [exec_hiWriteCommit, writeHi_ringLead hr hm hh, if_pos hle]
    rfl
  · rw [exec_hiWriteCommit, writeHi_ringLead hr hm hh, if_neg (by omega)]
    rfl
  · rw [exec_registerWrite, writeOther_modBlock hb hm (by decide) rfl (by decide)]
    rfl
  · rw [exec_registerWrite, writeOther_silent (inBar2_bypass hb) (answers_bypass hb)]
  · rw [exec_registerWrite]
    by_cases hb : s.mod.mode = .bypass
    · rw [writeOther_silent (inBar2_bypass hb) (answers_bypass hb)]
    · rw [writeOther_modBlock hb hm (by decide) rfl (by decide)]
      rfl

end Sys2Proof.Machine
end

section
/-!
PROOF. The steps of BOOT (R50): one lemma per step that says what its completion leaves, and O12 from these.
-/

namespace Sys2Proof.Machine

variable {s : State} {r : BootReport} {m : Image}

/-- The operation that completes the step after the k-th. -/
def bootStepAfter (k : Nat) (s : State) (r : BootReport) : State :=
  match k with
  | 0 => bootStep1 s r
  | 1 => bootStep2 s r
  | 2 => bootStep3 s r
  | 3 => bootStep4 s r
  | 4 => bootStep5 s r
  | 5 => bootStep6 s r
  | 6 => bootStep7 s r
  | 7 => bootStep8 s
  | 8 => bootStep9 s r
  | _ => s

/-- In BOOT the command completes the step after the last completed one. -/
theorem exec_bootStepComplete_in_boot {k : Nat} (hb : s.mod.mode = .boot) (hk : s.boot.step = k) :
    exec (.bootStepComplete r) s = .next (bootStepAfter k s r) := by
  subst hk
  have he : exec (.bootStepComplete r) s = .next (bootStep s r) := rfl
  rw [he]
  simp only [bootStep, hb, bne_self_eq_false, Bool.false_eq_true, if_false]
  rfl

/-! ## Step 1: the provisioning record in force (R202, R345) -/

theorem provActive_isSome (x : Sec) :
    (provActive x).isSome = true ↔ x.recA.isSome = true ∨ x.recB.isSome = true := by
  cases ha : x.recA <;> cases hb : x.recB <;> simp [provActive, provIsB, ha, hb]
  split <;> rfl

/-- The slots that pass the check. -/
def checkedSlots (c : SecureCheck) (x : Sec) : Sec :=
  { x with recA := if c.slotAOk then x.recA else none, recB := if c.slotBOk then x.recB else none }

theorem checkedSlots_isSome (c : SecureCheck) (x : Sec) : (provActive (checkedSlots c x)).isSome = true ↔
    c.slotAOk = true ∧ x.recA.isSome = true ∨ c.slotBOk = true ∧ x.recB.isSome = true := by
  rw [provActive_isSome]
  cases ha : c.slotAOk <;> cases hb : c.slotBOk <;> simp [checkedSlots, ha, hb]

/-- The secure core holds what the record in force gives, or no keys and NEVER where there is none. -/
structure RecordTaken (x : Sec) : Prop where
  ok : x.recordOk = true ↔ (provActive x).isSome = true
  held : ∀ p, provActive x = some p → x.imgKey = p.imgKey ∧ x.hostKey = p.hostKey ∧ x.policy = p.policy
  without : x.recordOk = false → x.imgKey = none ∧ x.hostKey = none ∧ x.policy = 2

/-- The check takes the record in force among the slots that pass, and leaves the key that decrypts images alone. -/
theorem checkRecord_takes (c : SecureCheck) (x : Sec) : RecordTaken (checkRecord c x) ∧
    provActive (checkRecord c x) = provActive (checkedSlots c x) ∧ (checkRecord c x).decKey = x.decKey := by
  cases h : provActive (checkedSlots c x) with
  | none =>
    have he : checkRecord c x =
        { checkedSlots c x with imgKey := none, hostKey := none, policy := 2, recordOk := false } := by
      simp only [checkedSlots] at h
      simp [checkRecord, checkedSlots, h]
    have ha : provActive (checkRecord c x) = none := (congrArg provActive he).trans h
    refine ⟨⟨by rw [ha, he]; simp, by simp [ha], fun _ => ?_⟩, ha, by rw [he]; rfl⟩
    rw [he]
    exact ⟨rfl, rfl, rfl⟩
  | some p =>
    have he : checkRecord c x = { checkedSlots c x with
        imgKey := p.imgKey, hostKey := p.hostKey, policy := p.policy, recordOk := true } := by
      simp only [checkedSlots] at h
      simp [checkRecord, checkedSlots, h]
    have ha : provActive (checkRecord c x) = some p := by rw [he]; exact h
    refine ⟨⟨by rw [ha, he]; simp, fun q hq => ?_, by simp [he]⟩, ha, by rw [he]; rfl⟩
    obtain rfl : p = q := Option.some.inj (ha.symm.trans hq)
    rw [he]
    exact ⟨rfl, rfl, rfl⟩

/-- At the start of BOOT the record is checked as the secure core stands, but for a key store erased before. -/
theorem secureStart_whole {c : SecureCheck} {x : Sec} (h : x.erased = true ∨ c.keyStoreOk = true) :
    ∃ y, secureStart x c = (checkRecord c y, false) ∧ y.recA = x.recA ∧ y.recB = x.recB ∧
      (x.erased = false → y = x) := by
  cases he : x.erased with
  | true =>
    exact ⟨{ x with attGen := x.attGen + 1, attFactory := false, decKey := none
                    ksGen := (x.ksGen + 1) % 65536, erased := false },
      by simp [secureStart, he], rfl, rfl, by simp⟩
  | false =>
    have hk : c.keyStoreOk = true := by simpa [he] using h
    exact ⟨x, by simp [secureStart, he, hk], rfl, rfl, fun _ => rfl⟩

/-- Step 1 completes with the PLL locked and the causeways trained: the secure core is what its start leaves, the
timebase runs and VCORE is asked for. -/
theorem bootStep1_completes {x : Sec} (hx : secureStart s.sec r.secure = (x, false)) (hp : r.pllLocked = true)
    (hc : r.causewaysTrained = true) :
    (bootStep1 s r).sec = x ∧ (bootStep1 s r).boot.step = 1 ∧ (bootStep1 s r).tb.running = true ∧
      (bootStep1 s r).ldg.vcore = 800 ∧ (bootStep1 s r).ldg.waitSense = true ∧ (bootStep1 s r).mod = s.mod ∧
      (bootStep1 s r).ch = s.ch := by
  cases hr : s.tb.running <;> simp [bootStep1, hx, hp, hc, hr, requestVcore, stepDone]

/-! ## Steps 2 to 6: the loader's registers, and the body in the store -/

theorem bootStep2_completes (ht : r.storeTrained = true) (hf : r.flash ≠ .absent) :
    bootStep2 s r = { s with boot := { s.boot with step := 2, octal := r.flash == .octal } } := by
  simp [bootStep2, ht, hf, stepDone, updBoot]

theorem bootStep3_completes (hh : r.headerOk = true) (hl : r.length ≤ 67108864) (hf : r.length ≤ r.flashSize) :
    bootStep3 s r = { s with boot := { s.boot with step := 3, len := r.length, encrypted := r.encrypted } } := by
  simp [bootStep3, hh, Nat.not_lt.mpr hl, Nat.not_lt.mpr hf, stepDone, updBoot]

/-- Step 4 stages the whole body from the base of the staging area on (R50, R239). -/
theorem bootStep4_completes (hk : s.boot.encrypted = true → s.sec.decKey.isSome = true)
    (hl : r.body.length ≤ 67108864) : bootStep4 s r = { s with
      boot := { s.boot with step := 4, hash := r.hash, image := some r.image }
      sto := { s.sto with mem := memWriteN s.sto.mem (131008 * 1048576) r.body } } := by
  have hkey : (s.boot.encrypted && s.sec.decKey.isNone) = false := by
    cases he : s.boot.encrypted with
    | false => rfl
    | true => simpa using hk he
  have htake : r.body.take (64 * 2 ^ 20) = r.body := List.take_of_length_le hl
  simp only [bootStep4, hkey, htake, Bool.false_eq_true, if_false]
  rfl

theorem bootStep5_completes (hi : s.sec.imgKey.isSome = true) (hr : s.sec.recordOk = true)
    (hs : r.signatureOk = true) (ht : s.boot.encrypted = true → r.tagOk = true) :
    bootStep5 s r = { s with boot := { s.boot with step := 5 } } := by
  have hi' : s.sec.imgKey.isNone = false := by simpa using hi
  have ht' : (s.boot.encrypted && !r.tagOk) = false := by
    cases he : s.boot.encrypted with
    | false => rfl
    | true => simpa using ht he
  simp only [bootStep5, hi', hr, hs, ht', Bool.not_true, Bool.or_self, Bool.false_eq_true, if_false]
  rfl

theorem bootStep6_completes (hm : s.boot.image = some m) (hf : imageFormatOk m = true)
    (hc : imageConflict m = false) : bootStep6 s r = { s with boot := { s.boot with step := 6 } } := by
  simp [bootStep6, hm, hf, hc, stepDone, updBoot]

/-! ## Step 7: the image is loaded (R64, R80, R167) -/

theorem loadImage_ch (c : Fin 128) : (loadImage s m).ch[c] = loadCh m c := by simp [loadImage]

/-- A channel as loaded: the image's configuration, STOPPED and open, at its initial ranges, PG_TARGET at PG_INIT. -/
theorem loadCh_spec (c : Fin 128) : (loadCh m c).cfg = loadedCfg (imageCfg m c) ∧ (loadCh m c).state = .stopped ∧
    (loadCh m c).isHiz ∧ (loadCh m c).range.vAct = (imageCfg m c).vInit ∧
    (loadCh m c).range.iAct = (imageCfg m c).iInit ∧ (loadCh m c).pg.target = (imageCfg m c).pgInit :=
  ⟨rfl, rfl, ⟨rfl, rfl⟩, rfl, rfl, rfl⟩

theorem bootStep7_completes (hm : s.boot.image = some m) : bootStep7 s r = stepDone (loadImage s m) 7 := by
  simp [bootStep7, hm]

/-! ## Step 8: the calibration records (R203) -/

/-- Step 8's notices: one for each unit without a record in force. -/
def noteUnitsWithoutRecord (s : State) : State :=
  (List.finRange 144).foldl (fun s p => if (activeRec p s.unit[p]).isNone then unitNotice s p 0x45 0 else s) s

theorem bootStep8_eq : bootStep8 s = stepDone { noteUnitsWithoutRecord s with
    unit := Vector.ofFn fun p => applyRec p (noteUnitsWithoutRecord s).unit[p] } 8 := rfl

/-- The notices are all that step 8 says of a missing record. -/
theorem noteUnitsWithoutRecord_frame : (noteUnitsWithoutRecord s).boot = s.boot ∧
    (noteUnitsWithoutRecord s).unit = s.unit ∧ (noteUnitsWithoutRecord s).ch = s.ch ∧
    (noteUnitsWithoutRecord s).mod = s.mod := by
  refine List.foldlRecOn
    (motive := fun t : State => t.boot = s.boot ∧ t.unit = s.unit ∧ t.ch = s.ch ∧ t.mod = s.mod) _ _
    ⟨rfl, rfl, rfl, rfl⟩ fun u hu p _ => ?_
  split <;> exact hu

theorem bootStep8_spec : (bootStep8 s).boot = { s.boot with step := 8 } ∧
    (∀ p : Fin 144, (bootStep8 s).unit[p] = applyRec p s.unit[p]) ∧ (bootStep8 s).ch = s.ch ∧
    (bootStep8 s).mod = s.mod := by
  obtain ⟨hboot, hunit, hch, hmod⟩ := noteUnitsWithoutRecord_frame (s := s)
  rw [bootStep8_eq, stepDone]
  refine ⟨?_, fun p => ?_, ?_, ?_⟩
  · rw [updBoot_boot, hboot]
  · rw [updBoot_unit, hunit, Fin.getElem_fin, Vector.getElem_ofFn]
  · rw [updBoot_ch, hch]
  · rw [updBoot_mod, hmod]

/-! ## Step 9: SAFE (R45, R47, R50, R54, R239) -/

theorem setMode_mod (k : Mode) : (setMode s k).mod = { s.mod with mode := k } := by
  unfold setMode
  split
  next h => subst h; rfl
  next => rfl

/-- The initial state of a STOPPED channel leaves the channel's state as it is. -/
theorem initialCh_state (estop : Bool) (h : Channel) : (initialCh estop h).state = h.state := by
  unfold initialCh
  split <;> rfl

/-- Connecting at the entry to SAFE changes no channel's state. -/
theorem connectAtEntry_state (c : Fin 128) : (connectAtEntry s).ch[c].state = s.ch[c].state := by
  simp only [connectAtEntry, mapCh_ch, Fin.getElem_fin, Vector.getElem_ofFn]
  split
  · exact initialCh_state _ _
  · rfl

theorem setMode_frame (k : Mode) : (setMode s k).boot = s.boot ∧ (setMode s k).sto = s.sto ∧
    (setMode s k).ch = s.ch := by
  unfold setMode
  split <;> exact ⟨rfl, rfl, rfl⟩

theorem ringAtSafe_frame : (ringAtSafe s).mod = s.mod ∧ (ringAtSafe s).boot = s.boot ∧
    (ringAtSafe s).sto = s.sto ∧ (ringAtSafe s).ch = s.ch := by
  unfold ringAtSafe
  split <;> exact ⟨rfl, rfl, rfl, rfl⟩

/-- Entering SAFE sets the mode and may connect outputs and start ring training; the store, the loader and the
channels' states stay. -/
theorem enterSafe_spec : (enterSafe s).mod = { s.mod with mode := .safe } ∧ (enterSafe s).boot = s.boot ∧
    (enterSafe s).sto = s.sto ∧ ∀ c : Fin 128, (enterSafe s).ch[c].state = s.ch[c].state := by
  obtain ⟨hmod, hboot, hsto, hch⟩ := ringAtSafe_frame (s := connectAtEntry (setMode s .safe))
  obtain ⟨hboot', hsto', hch'⟩ := setMode_frame (s := s) .safe
  refine ⟨?_, ?_, ?_, fun c => ?_⟩
  · rw [enterSafe, hmod, connectAtEntry, mapCh_mod, setMode_mod]
  · rw [enterSafe, hboot, connectAtEntry, mapCh_boot, hboot']
  · rw [enterSafe, hsto, connectAtEntry, mapCh_sto, hsto']
  · rw [enterSafe, hch, connectAtEntry_state, hch']

/-- Step 9 before SAFE: the staging area is partition 31 and the loader has ended (R239). -/
def bootEnded (s : State) (r : BootReport) : State :=
  updBoot (updSto s fun t => { t with parts := t.parts.set 31 ⟨stagingBase, 64, 4⟩ }) fun b =>
    { b with step := 9, time := r.micros % 2 ^ 32 }

/-- Step 9: SAFE, and on the automatic path the request for READY (R54). -/
theorem bootStep9_eq : bootStep9 s r = if (enterSafe (bootEnded s r)).mod.auto
    then updMod (updWm (enterSafe (bootEnded s r))) fun m => { m with readyReq := true, readyAuto := true }
    else updWm (enterSafe (bootEnded s r)) := rfl

theorem bootStep9_spec : (bootStep9 s r).mod.mode = .safe ∧ (bootStep9 s r).boot.step = 9 ∧
    ((bootStep9 s r).mod.readyReq = true ↔ s.mod.auto = true ∨ s.mod.readyReq = true) ∧
    (bootStep9 s r).sto.parts[31] = ⟨stagingBase, 64, 4⟩ ∧
    ∀ c : Fin 128, (bootStep9 s r).ch[c].state = s.ch[c].state := by
  obtain ⟨hmod, hboot, hsto, hch⟩ := enterSafe_spec (s := bootEnded s r)
  have hauto : (enterSafe (bootEnded s r)).mod.auto = s.mod.auto := by rw [hmod]; rfl
  have hpart : (bootEnded s r).sto.parts[31] = ⟨stagingBase, 64, 4⟩ := by simp [bootEnded]
  have hstep : (bootEnded s r).boot.step = 9 := rfl
  have hreq : (bootEnded s r).mod.readyReq = s.mod.readyReq := rfl
  rw [bootStep9_eq, hauto]
  cases s.mod.auto <;> simp [updWm, hmod, hboot, hsto, hstep, hpart, hreq] <;> exact hch

/-- Settles O12: the completion lemma of each step, in order. -/
theorem bootSteps : Obligations.BootSteps := by
  unfold Obligations.BootSteps
  refine ⟨fun r s hb hk hs hp hc => ?_, fun r s hb hk ht hf => ?_, fun r s hb hk hh hl hf => ?_,
    fun r s hb hk he hw hl => ?_, fun r s hb hk hi ho hs ht => ?_, fun r m s hb hk hm hf hc => ?_,
    fun r m s hb hk hm => ?_, fun r s hb hk => ?_, fun r s hb hk => ?_⟩ <;>
    rw [exec_bootStepComplete_in_boot hb hk, bootStepAfter]
  · obtain ⟨y, hy, hA, hB, hsame⟩ := secureStart_whole hs
    obtain ⟨⟨hok, hheld, hwithout⟩, hact, hdec⟩ := checkRecord_takes r.secure y
    obtain ⟨hsec, hstep, hrun, hvcore, hwait, hmod, hch⟩ := bootStep1_completes hy hp hc
    refine ⟨_, rfl, hstep, hrun, hvcore, hwait, hmod, hch, fun he => ?_, ?_, ?_, ?_⟩ <;> rw [hsec]
    · rw [hdec, hsame he]
    · rw [hok, hact, checkedSlots_isSome, hA, hB]
    · exact hheld
    · exact hwithout
  · rw [bootStep2_completes ht hf]
  · rw [bootStep3_completes hh hl hf]
  · exact ⟨_, by rw [bootStep4_completes he hl], memReadN_memWriteN hw, fun a ha => memRead_memWriteN_out hw ha⟩
  · rw [bootStep5_completes hi ho hs ht]
  · rw [bootStep6_completes hm hf hc]
  · rw [bootStep7_completes hm]
    refine ⟨_, rfl, rfl, rfl, rfl, rfl, fun c => ?_⟩
    have hload : (stepDone (loadImage s m) 7).ch[c] = loadCh m c := by rw [stepDone, updBoot_ch, loadImage_ch]
    rw [hload]
    exact loadCh_spec c
  · exact ⟨_, rfl, bootStep8_spec⟩
  · obtain ⟨hmode, hstep, hready, hpart, hch⟩ := bootStep9_spec (s := s) (r := r)
    exact ⟨_, rfl, hmode, hstep, hready, congrArg Part.size hpart, congrArg Part.type hpart, hch⟩

end Sys2Proof.Machine
end

section
/-!
PROOF. Messages to the collector (R272), and ESTOP (R101, R102): one lemma says what each part of a channel's reaction
leaves, and O10 follows from these.
-/

namespace Sys2Proof.Machine

variable {s t u : State}

/-! ## Onsets and ends at the collector's inputs (R272) -/

theorem raiseState_eq {kind source detail : Nat} : raiseState s kind source detail =
    { s with flt := if isPresent s kind source then s.flt else { s.flt with
        inbox := s.flt.inbox ++ [⟨⟨kind, source, detail⟩, s.tb.now⟩] } } := by
  unfold raiseState send
  split <;> rfl

theorem raiseState_absent {kind source detail : Nat} (h : isPresent s kind source = false) :
    raiseState s kind source detail = send s kind source detail := if_neg (ne_true_of_eq_false h)

/-- What is present depends on the collector alone. -/
theorem isPresent_congr {kind source : Nat} (h : s.flt = t.flt) :
    isPresent s kind source = isPresent t kind source := by
  simp [isPresent, h]

/-- The last message sent about a kind at a source says whether it is present. -/
theorem isPresent_send {kind source sent detail : Nat} (h : sent = kind ∨ sent = kind + 0x80) :
    isPresent (send s sent source detail) kind source = (sent == kind) := by
  have hb : (sent == kind || sent == kind + 0x80) = true := by simpa using h
  simp [isPresent, hb]

theorem isPresent_raiseState {kind source detail : Nat} :
    isPresent (raiseState s kind source detail) kind source = true := by
  unfold raiseState
  split
  · assumption
  · rw [isPresent_send (.inl rfl), beq_self_eq_true]

theorem not_isPresent_endState {kind source : Nat} : isPresent (endState s kind source) kind source = false := by
  unfold endState endWith
  split
  · rw [isPresent_send (.inr rfl)]
    simp
  next h => exact Bool.not_eq_true _ ▸ h

/-! ## What a reaction's steps before the channel's own leave (R207, R272, R276) -/

/-- From `s`, the state `t` has the same pins, mode and bytes of the store, and every channel's state and output. -/
structure OutputsKept (s t : State) : Prop where
  pins : t.pins = s.pins
  mode : t.mod.mode = s.mod.mode
  mem : t.sto.mem = s.sto.mem
  outputs : ∀ c : Fin 128, t.ch[c].state = s.ch[c].state ∧ t.ch[c].switchOn = s.ch[c].switchOn ∧
    t.ch[c].out = s.ch[c].out

/-- A state that shares the pins, the mode, the store and the channels. -/
theorem OutputsKept.of_eq (hpins : t.pins = s.pins) (hmod : t.mod = s.mod) (hsto : t.sto = s.sto) (hch : t.ch = s.ch) :
    OutputsKept s t := ⟨hpins, by rw [hmod], by rw [hsto], fun _ => by rw [hch]; exact ⟨rfl, rfl, rfl⟩⟩

theorem OutputsKept.refl : OutputsKept s s := .of_eq rfl rfl rfl rfl

theorem OutputsKept.trans (h : OutputsKept s t) (k : OutputsKept t u) : OutputsKept s u where
  pins := k.pins.trans h.pins
  mode := k.mode.trans h.mode
  mem := k.mem.trans h.mem
  outputs c := by
    obtain ⟨h1, h2, h3⟩ := h.outputs c
    obtain ⟨k1, k2, k3⟩ := k.outputs c
    exact ⟨k1.trans h1, k2.trans h2, k3.trans h3⟩

theorem OutputsKept.foldl {α : Type} {f : State → α → State} (hf : ∀ s x, OutputsKept s (f s x)) (l : List α) :
    OutputsKept s (l.foldl f s) := by
  induction l generalizing s with
  | nil => exact .refl
  | cons x l ih => exact (hf s x).trans ih

theorem updCh_outputsKept {c : Fin 128} {f : Channel → Channel}
    (hf : ∀ h, (f h).state = h.state ∧ (f h).switchOn = h.switchOn ∧ (f h).out = h.out) :
    OutputsKept s (updCh s c f) where
  pins := rfl
  mode := rfl
  mem := rfl
  outputs d := by
    by_cases e : c = d
    · subst e
      rw [updCh_self]
      exact hf _
    · rw [updCh_other _ _ _ _ e]
      exact ⟨rfl, rfl, rfl⟩

theorem send_outputsKept {kind source detail : Nat} : OutputsKept s (send s kind source detail) :=
  .of_eq rfl rfl rfl rfl
theorem updUnit_outputsKept {p : Fin 144} {f : CalUnit → CalUnit} : OutputsKept s (updUnit s p f) :=
  .of_eq rfl rfl rfl rfl
theorem updComb_outputsKept {c : Fin 16} {f : Comb → Comb} : OutputsKept s (updComb s c f) :=
  .of_eq rfl rfl rfl rfl

theorem raiseState_outputsKept {kind source detail : Nat} : OutputsKept s (raiseState s kind source detail) := by
  rw [raiseState_eq]
  exact .of_eq rfl rfl rfl rfl

theorem endTests_outputsKept {c : Fin 128} : OutputsKept s (endTests s c) :=
  .foldl (fun s k => by
    unfold endUnit endWith
    split
    · exact send_outputsKept
    · exact .refl) _

theorem cutWindow_outputsKept {c : Fin 128} : OutputsKept s (cutWindow s c) := by
  unfold cutWindow updSw
  dsimp only
  split
  · exact .refl
  · have hfresh : OutputsKept s { s with freshCount := s.freshCount + 2 } := .of_eq rfl rfl rfl rfl
    exact hfresh.trans (updCh_outputsKept fun _ => ⟨rfl, rfl, rfl⟩)

theorem freeComb_outputsKept {c : Fin 16} {r : CalRun} : OutputsKept s (freeComb s c r) := by
  have hfree : OutputsKept s (updUnit (updComb s c fun k => { k with run := none, serve := 15, parallel := false })
      (unitAt c r.unit) fun u => { u with running := false, spareOn := false }) :=
    updComb_outputsKept.trans updUnit_outputsKept
  unfold freeComb
  dsimp only
  split
  · split
    · exact hfree.trans (updCh_outputsKept fun _ => ⟨rfl, rfl, rfl⟩)
    · exact hfree
  · exact hfree

theorem dropCommit_outputsKept {c : Fin 16} {r : CalRun} : OutputsKept s (dropCommit s c r) := by
  unfold dropCommit
  split
  · exact updComb_outputsKept
  · exact .refl

theorem abortRun_outputsKept {c : Fin 16} {cause : CalCause} {atOnce : Bool} :
    OutputsKept s (abortRun s c cause atOnce) := by
  unfold abortRun dropRun
  split
  · exact .refl
  next r _ =>
    split
    · split
      · exact freeComb_outputsKept
      · exact .refl
    · dsimp only
      split
      · exact ((send_outputsKept.trans dropCommit_outputsKept).trans updUnit_outputsKept).trans updComb_outputsKept
      · exact ((send_outputsKept.trans dropCommit_outputsKept).trans updUnit_outputsKept).trans freeComb_outputsKept

theorem abortRuns_outputsKept {k : Fin 16 → Bool} {cause : CalCause} {atOnce : Bool} :
    OutputsKept s (abortRuns s k cause atOnce) :=
  .foldl (fun s c => by
    split
    · exact abortRun_outputsKept
    · exact .refl) _

theorem abortUnitRun_outputsKept {c : Fin 16} {i : Fin 9} {cause : CalCause} :
    OutputsKept s (abortUnitRun s c i cause) := by
  unfold abortUnitRun
  split
  · split
    · exact abortRun_outputsKept
    · exact .refl
  · exact .refl

/-- The state in which a reaction reaches its channel: its window cut, its unit's run aborted, its tests ended. -/
def beforeReaction (s : State) (c : Fin 128) (cause : CalCause) : State :=
  endTests (abortUnitRun (cutWindow s c) (combOf c) (cutWindow s c).comb[combOf c].map[slotOf c] cause) c

theorem reactCh_eq {c : Fin 128} {kind : Nat} {cause : CalCause} : reactCh s c kind cause =
    updCh (beforeReaction s c cause) c (safedCh (beforeReaction s c cause).pins.estopLow
      (beforeReaction s c cause).tb.last (beforeReaction s c cause).tb.now (frameSec (beforeReaction s c cause))
      kind) := by
  simp only [reactCh, beforeReaction]

theorem beforeReaction_outputsKept {c : Fin 128} {cause : CalCause} : OutputsKept s (beforeReaction s c cause) :=
  cutWindow_outputsKept.trans (abortUnitRun_outputsKept.trans endTests_outputsKept)

/-! ## ESTOP opens a channel (R97, R101, R102) -/

/-- With ESTOP_N low the safe state of a channel that is not SAFED yet is HIZ, whatever CH_SAFE selects. -/
theorem safedCh_estop {frame now kind : Nat} {T : Rat} {h : Channel} (hs : h.state ≠ .safed) :
    (safedCh true frame now T kind h).isHiz := by
  simp [safedCh, hs, safeOut, hizCh, calmDac, Channel.isHiz]

/-- From `s`, the state `t` has the same pins, mode and bytes of the store, and no output that was open is connected. -/
structure OpenKept (s t : State) : Prop where
  pins : t.pins = s.pins
  mode : t.mod.mode = s.mod.mode
  mem : t.sto.mem = s.sto.mem
  hiz : ∀ c : Fin 128, s.ch[c].isHiz → t.ch[c].isHiz

theorem OpenKept.trans (h : OpenKept s t) (k : OpenKept t u) : OpenKept s u :=
  ⟨k.pins.trans h.pins, k.mode.trans h.mode, k.mem.trans h.mem, fun c hc => k.hiz c (h.hiz c hc)⟩

theorem OutputsKept.openKept (h : OutputsKept s t) : OpenKept s t where
  pins := h.pins
  mode := h.mode
  mem := h.mem
  hiz c hc := by
    obtain ⟨hopen, hhiz⟩ := hc
    obtain ⟨_, hswitch, hout⟩ := h.outputs c
    exact ⟨hswitch.trans hopen, hout.trans hhiz⟩

/-- An update that opens its channel connects no other. -/
theorem updCh_openKept {c : Fin 128} {f : Channel → Channel} (hf : (f s.ch[c]).isHiz) :
    OpenKept s (updCh s c f) ∧ (updCh s c f).ch[c].isHiz := by
  have hc : (updCh s c f).ch[c].isHiz := by rwa [updCh_self]
  refine ⟨⟨rfl, rfl, rfl, fun d hd => ?_⟩, hc⟩
  by_cases e : c = d
  · exact e ▸ hc
  · rwa [updCh_other _ _ _ _ e]

/-- With ESTOP_N low a reaction opens the output of a channel that is not SAFED yet, and connects no other. -/
theorem reactCh_opens {c : Fin 128} {kind : Nat} {cause : CalCause} (hlow : s.pins.estopLow = true)
    (hs : s.ch[c].state ≠ .safed) :
    OpenKept s (reactCh s c kind cause) ∧ (reactCh s c kind cause).ch[c].isHiz := by
  have hpre : OutputsKept s (beforeReaction s c cause) := beforeReaction_outputsKept
  have hunsafed : (beforeReaction s c cause).ch[c].state ≠ .safed := by
    obtain ⟨hstate, _, _⟩ := hpre.outputs c
    rwa [hstate]
  rw [reactCh_eq, hpre.pins, hlow]
  generalize beforeReaction s c cause = b at hpre hunsafed ⊢
  obtain ⟨hopen, hc⟩ :=
    updCh_openKept (f := safedCh true b.tb.last b.tb.now (frameSec b) kind) (safedCh_estop hunsafed)
  exact ⟨hpre.openKept.trans hopen, hc⟩

/-- The dedicated path opens its channel, in whatever state, and connects no other. -/
theorem estopCh_opens {c : Fin 128} (hlow : s.pins.estopLow = true) :
    OpenKept s (estopCh s c) ∧ (estopCh s c).ch[c].isHiz := by
  unfold estopCh
  split
  next hrun => exact reactCh_opens hlow (by rw [hrun]; decide)
  next hstart => exact reactCh_opens hlow (by rw [hstart]; decide)
  next => exact updCh_openKept ⟨rfl, rfl⟩

/-- Channel after channel, every one listed is open, and none that was open is connected again. -/
theorem foldl_estopCh_opens (hlow : s.pins.estopLow = true) (l : List (Fin 128)) :
    OpenKept s (l.foldl estopCh s) ∧ ∀ c ∈ l, (l.foldl estopCh s).ch[c].isHiz := by
  induction l generalizing s with
  | nil => exact ⟨OutputsKept.refl.openKept, by simp⟩
  | cons x l ih =>
    obtain ⟨hkept, hx⟩ := estopCh_opens (c := x) hlow
    obtain ⟨hrest, hl⟩ := ih (hkept.pins ▸ hlow)
    refine ⟨hkept.trans hrest, fun c hc => ?_⟩
    rcases List.mem_cons.mp hc with rfl | hc
    · exact hrest.hiz c hx
    · exact hl c hc

theorem forCh_estopCh_opens (hlow : s.pins.estopLow = true) :
    OpenKept s (forCh s estopCh) ∧ ∀ c : Fin 128, (forCh s estopCh).ch[c].isHiz := by
  obtain ⟨hkept, hall⟩ := foldl_estopCh_opens hlow (List.finRange 128)
  exact ⟨hkept, fun c => hall c (List.mem_finRange c)⟩

/-- ESTOP_N low outside BYPASS: every output open, ESTOP present at the pin, the mode and the store's bytes kept. -/
theorem estopFall_opens (hhigh : s.pins.estopLow = false) (hmode : s.mod.mode ≠ .bypass) :
    (estopFall s).pins.estopLow = true ∧ (∀ c : Fin 128, (estopFall s).ch[c].isHiz) ∧
      isPresent (estopFall s) 0x18 0x409 = true ∧ (estopFall s).mod.mode = s.mod.mode ∧
      (estopFall s).sto.mem = s.sto.mem := by
  let low := updPins s fun p => { p with estopLow := true }
  let aborted := abortRuns low (fun _ => true) .estop true
  have heq : estopFall s = raiseState (forCh aborted estopCh) 0x18 0x409 0 := by
    simp [estopFall, hhigh, hmode, low, aborted]
  have habort : OutputsKept low aborted := abortRuns_outputsKept
  obtain ⟨hkept, hall⟩ := forCh_estopCh_opens (s := aborted) (by rw [habort.pins]; rfl)
  have hraise : OpenKept (forCh aborted estopCh) (estopFall s) := heq ▸ raiseState_outputsKept.openKept
  obtain ⟨hpins, hmode', hmem, _⟩ := (habort.openKept.trans hkept).trans hraise
  exact ⟨by rw [hpins]; rfl, fun c => hraise.hiz c (hall c), heq ▸ isPresent_raiseState, hmode', hmem⟩

/-- The pins of a channel whose output is open (R90, R95, R101). -/
theorem terminal_of_isHiz {h : Channel} (hz : h.isHiz) : (terminal h).driver = false ∧ (terminal h).guard = none ∧
    (usesBooster h.cfg = true → (terminal h).bdrvZero = true) := by
  obtain ⟨hswitch, _⟩ := hz
  have hdrive : driving h = false := by simp [driving, hswitch]
  refine ⟨?_, ?_, fun hb => ?_⟩
  · simp [terminal, driverOn, hdrive]
  · simp [terminal, hswitch]
  · simp [terminal, hdrive, hb]

/-- The end of a kind reaches the collector's inputs alone. -/
theorem endState_inbox {kind source : Nat} :
    ∃ inbox, endState s kind source = { s with flt := { s.flt with inbox := inbox } } := by
  unfold endState endWith
  split
  · exact ⟨_, rfl⟩
  · exact ⟨s.flt.inbox, rfl⟩

/-- Settles O10: each channel's dedicated path opens its own output and connects no other; the end of ESTOP is one
message. -/
theorem estopOpensEveryOutput : Obligations.EstopOpensEveryOutput := by
  unfold Obligations.EstopOpensEveryOutput
  refine ⟨fun s hhigh hmode => ?_, fun s => ?_⟩
  · obtain ⟨hlow, hhiz, hpresent, hmode', hmem⟩ := estopFall_opens hhigh hmode
    exact ⟨estopFall s, rfl, hlow, hhiz, fun c => terminal_of_isHiz (hhiz c), hpresent, hmode', hmem⟩
  · obtain ⟨inbox, he⟩ := endState_inbox (s := updPins s fun p => { p with estopLow := false }) (kind := 0x18)
      (source := 0x409)
    refine ⟨inbox, congrArg Host.Outcome.next he, ?_⟩
    rw [← not_isPresent_endState (s := updPins s fun p => { p with estopLow := false }), he]
    exact isPresent_congr rfl

end Sys2Proof.Machine
end

section
/-!
PROOF. Ranges (R80, R82, R84, R87, R88, R178): what a write of CH_RANGE, the end of a sequence and a full down count
leave of the channel, and O20 from these.
-/

namespace Sys2Proof.Machine

variable {s : State} {ch : Fin 128} {v : Word} {h : Channel} {q : RangeSeq}

/-! ## Writes of what a list may own (R178) -/

theorem ownedBy_owned {k : State → State} (ho : s.ch[ch].sw.state.owns = true) :
    ownedBy s ch k = updSw s ch fun w => { w with ownRej := true } := if_pos ho

theorem ownedBy_free {k : State → State} (ho : s.ch[ch].sw.state.owns = false) : ownedBy s ch k = k s :=
  if_neg (by rw [ho]; decide)

/-! ## Writes of CH_RANGE (R80) -/

theorem exec_chRangeWrite (hr : regsUp s = true) : exec (.chRangeWrite ch v) s = .next (writeRange s ch v) :=
  congrArg Host.Outcome.next (if_pos hr)

theorem writeRange_refused (ho : s.ch[ch].sw.state.owns = false)
    (hc : s.ch[ch].state = .safed ∨ s.ch[ch].state = .starting ∨ 2 < field v 1 0 ∨ 11 < field v 7 4) :
    writeRange s ch v = updRange s ch fun r => { r with rangeRej := true } := by
  rw [writeRange, ownedBy_free ho]
  exact if_pos (by simpa [or_assoc] using hc)

theorem writeRange_taken (ho : s.ch[ch].sw.state.owns = false) (hsafed : s.ch[ch].state ≠ .safed)
    (hstart : s.ch[ch].state ≠ .starting) (hv : field v 1 0 ≤ 2) (hi : field v 7 4 ≤ 11) :
    writeRange s ch v = requestRanges s ch (field v 1 0) (field v 7 4) := by
  rw [writeRange, ownedBy_free ho]
  refine if_neg ?_
  simp only [Bool.or_eq_true, decide_eq_true_eq]
  rintro (((hs | hs) | hs) | hs)
  · exact hsafed hs
  · exact hstart hs
  · omega
  · omega

/-! ## The ends of the sequences (R82, R84) -/

theorem endSequence_current (hq : h.range.seq = some q) (hc : q.current = true) : endSequence h true =
    { h with range := { h.range with iAct := q.new, seq := none, downCount := 0 } } := by
  simp [endSequence, hq, hc]

/-- After a voltage sequence the deglitcher releases on the new range. -/
theorem endSequence_voltage (hq : h.range.seq = some q) (hc : q.current = false) : endSequence h false =
    deglitchRelease { h with
      range := { h.range with vAct := q.new, seq := none, downCount := 0 }
      eng := { h.eng with frozen := false } } := by
  simp [endSequence, hq, hc]

theorem exec_irangeSequenceEnd (hq : s.ch[ch].range.seq = some q) (hf : 16 ≤ q.frames) :
    exec (.irangeSequenceEnd ch) s = .next (updCh s ch fun h => endSequence h true) := by
  have he : exec (.irangeSequenceEnd ch) s = execIrangeSequenceEnd ch s := rfl
  rw [he, execIrangeSequenceEnd, hq]
  exact congrArg Host.Outcome.next (if_pos hf)

/-! ## The down count (R87) -/

theorem autorange_asks {code : Nat} (hs : h.range.seq = none) (hmin : arMin h.cfg ≤ code)
    (hmax : code ≤ arMax h.cfg) :
    autorange h code = { h with range := { h.range with iReq := code, pendI := some code } } := by
  simp [autorange, hs, Nat.not_lt.mpr hmin, Nat.not_lt.mpr hmax]

/-- A full down count of a RUNNING channel asks for the next lower code. -/
theorem autorangeLower_asks (ha : arOn h.cfg = true) (hr : h.state = .running) (hd : h.range.downCount = 16)
    (hmin : arMin h.cfg + 1 ≤ h.range.iAct) (hmax : h.range.iAct ≤ arMax h.cfg + 1) (hs : h.range.seq = none) :
    autorangeLower h =
      { h with range := { h.range with iReq := h.range.iAct - 1, pendI := some (h.range.iAct - 1) } } := by
  have hpos : 0 < h.range.iAct := by omega
  have hdue : (arOn h.cfg && h.state == .running && h.range.downCount == 16 && decide (0 < h.range.iAct)) = true := by
    simp [ha, hr, hd, hpos]
  rw [autorangeLower, if_pos hdue, autorange_asks hs (by omega) (by omega)]

/-- Settles O20: each clause from what its operation leaves of the channel. -/
theorem ranges : Obligations.Ranges := by
  unfold Obligations.Ranges
  refine ⟨fun ch v s hr ho hsafed hstart hv hi => ?_, fun ch v s hr ho hc => ?_, fun ch v s hr ho => ?_,
    fun ch q s hq hc hf => ?_, fun ch q s hq hc => ?_, fun ch s ha hr hd hmin hmax hs => ?_⟩
  · rw [exec_chRangeWrite hr, writeRange_taken ho hsafed hstart hv hi]
    rfl
  · rw [exec_chRangeWrite hr, writeRange_refused ho hc]
    rfl
  · rw [exec_chRangeWrite hr, writeRange, ownedBy_owned ho]
    rfl
  · rw [exec_irangeSequenceEnd hq hf, updCh, endSequence_current hq hc]
  · have he : exec (.vrangeHoldEnd ch) s = .next (updCh s ch fun h => endSequence h false) := rfl
    rw [he, updCh, endSequence_voltage hq hc]
    rfl
  · have he : exec (.autorangeDown ch) s = .next (updCh s ch autorangeLower) := rfl
    rw [he, updCh, autorangeLower_asks ha hr hd hmin hmax hs]

end Sys2Proof.Machine
end

section
/-!
PROOF. Faults of a unit or a comb (R79, R91, R93, R94, R132, R133, R149, R162, R197, R271, R272): when a comparator's
report raises a kind, when its condition is met, and O21 from these and the rule of an onset.
-/

namespace Sys2Proof.Machine

variable {s : State} {ch : Fin 128} {normal : Bool} {level : Rat}

/-! ## The comparators at a channel's terminal (R79, R91, R197) -/

/-- OVERVOLTAGE's threshold is the lower of two (R79). -/
theorem tripVolts_lt (h : Channel) (x : Rat) :
    tripVolts h < x ↔ (ovLim h.cfg : Rat) / 100 * vFs h < x ∨ 33 / 2 < x := by
  rw [tripVolts, minR]
  split
  next hle =>
    have hcap (hx : 33 / 2 < x) : (ovLim h.cfg : Rat) / 100 * vFs h < x := by grind
    exact ⟨.inl, fun hx => hx.elim id hcap⟩
  next hgt =>
    have hlim (hx : (ovLim h.cfg : Rat) / 100 * vFs h < x) : 33 / 2 < x := by grind
    exact ⟨.inr, fun hx => hx.elim hlim id⟩

theorem exec_overcurrentTrip (hl : channelsLive s = true) (hm : masked s ch normal = false)
    (hx : tripAmps s.ch[ch] < absR level) : exec (.overcurrentTrip ⟨ch, level, normal⟩) s =
      .next (raiseDetect (updCh s ch dropBooster) ch 0x01 normal) := by
  refine congrArg Host.Outcome.next (if_pos ?_)
  simp only [hl, hm, decide_eq_true hx]
  rfl

theorem exec_overvoltageTrip (hl : channelsLive s = true) (hm : masked s ch normal = false)
    (hx : tripVolts s.ch[ch] < absR level) :
    exec (.overvoltageTrip ⟨ch, level, normal⟩) s = .next (raiseDetect s ch 0x02 normal) := by
  refine congrArg Host.Outcome.next (if_pos ?_)
  simp only [hl, hm, decide_eq_true hx]
  rfl

theorem exec_rangeSwitch {code : Fin 16} {current : Bool} (hl : channelsLive s = true)
    (hm : masked s ch normal = false) : exec (.rangeSwitch ⟨ch, normal⟩ code current) s =
      .next (send s 0x09 (unitSource ch) (detectDetail s ch normal (code.val + if current then 16 else 0))) := by
  refine congrArg Host.Outcome.next (if_pos ?_)
  simp only [hl, hm]
  rfl

/-- The open paths of a normal unit trip nothing (R197). -/
theorem exec_overcurrentTrip_masked (hm : masked s ch normal = true) :
    exec (.overcurrentTrip ⟨ch, level, normal⟩) s = .next s :=
  congrArg Host.Outcome.next (if_neg (by simp [hm]))

theorem exec_overvoltageTrip_masked (hm : masked s ch normal = true) :
    exec (.overvoltageTrip ⟨ch, level, normal⟩) s = .next s :=
  congrArg Host.Outcome.next (if_neg (by simp [hm]))

/-! ## Conditions that a frame has found (R79, R93, R94, R132, R133, R149, R162) -/

theorem exec_clampActive (hd : s.ch[ch].ms.clampDue = true) :
    exec (.clampActive ch) s = .next (raiseUnit s ch 0x03 0) := congrArg Host.Outcome.next (if_pos hd)

theorem exec_leadDrop (hd : s.ch[ch].ms.leadDue = true) :
    exec (.leadDrop ch) s = .next (raiseUnit s ch 0x06 6) := congrArg Host.Outcome.next (if_pos hd)

theorem exec_modelResidual (hd : s.ch[ch].eng.resDue = true) :
    exec (.modelResidual ch) s = .next (raiseUnit s ch 0x08 0) := congrArg Host.Outcome.next (if_pos hd)

theorem exec_feedbackFrozen (hd : s.ch[ch].eng.frzDue = true) :
    exec (.feedbackFrozen ch) s = .next (raiseUnit s ch 0x07 0) := congrArg Host.Outcome.next (if_pos hd)

theorem exec_cslWindowFault {comb : Fin 16} (hd : s.comb[comb].cslDue = true) :
    exec (.cslWindowFault comb) s = .next (raiseState s 0x02 (combSource comb) 0) :=
  congrArg Host.Outcome.next (if_pos hd)

theorem exec_budgetThermal {die : Fin 2} (hd : 1000 ≤ s.pwr.overFrames[die]) : exec (.budgetThermal die) s =
    .next (raiseState (updPwr s fun w => { w with budgetHot := w.budgetHot.set die true }) 0x0E (0x300 + die.val) 31) :=
  congrArg Host.Outcome.next (if_pos hd)

theorem exec_openLoad (hd : s.ch[ch].ms.openDue = true) : exec (.openLoad ch) s =
    .next (sendUnit (updMs s ch fun m => { m with openDue := false }) ch 0x04 0) :=
  congrArg Host.Outcome.next (if_pos hd)

theorem exec_monitorDisagree (hd : s.ch[ch].ms.monDue = true) : exec (.monitorDisagree ch) s =
    .next (sendUnit (updMs s ch fun m => { m with monDue := false }) ch 0x05 0) :=
  congrArg Host.Outcome.next (if_pos hd)

/-- Settles O21: each clause from when its command reports, and the one onset or event that it sends. -/
theorem unitFaults : Obligations.UnitFaults := by
  unfold Obligations.UnitFaults
  refine ⟨fun ch amps normal s hl hm hx => ?_, fun ch volts normal s hl hm hx => ?_, fun ch x normal s hm => ?_,
    fun ch c kind s _ hc => ?_, fun comb s hd => ?_, fun die s hd hp => ?_,
    fun ch code current normal s hl hm => ?_, fun ch s hd => ?_, fun ch s hd => ?_⟩
  · rw [exec_overcurrentTrip hl hm hx, raiseDetect, raiseState_eq]
    rfl
  · rw [exec_overvoltageTrip hl hm ((tripVolts_lt _ _).mpr hx), raiseDetect, raiseState_eq]
  · exact ⟨exec_overcurrentTrip_masked hm, exec_overvoltageTrip_masked hm⟩
  · rcases hc with ⟨rfl, hd, rfl⟩ | ⟨rfl, hd, rfl⟩ | ⟨rfl, hd, rfl⟩ | ⟨rfl, hd, rfl⟩
    · exact exec_clampActive hd
    · exact exec_leadDrop hd
    · exact exec_modelResidual hd
    · exact exec_feedbackFrozen hd
  · exact exec_cslWindowFault hd
  · refine (exec_budgetThermal hd).trans (congrArg Host.Outcome.next (raiseState_absent ?_))
    exact (isPresent_congr rfl).trans hp
  · exact exec_rangeSwitch hl hm
  · exact exec_openLoad hd
  · exact exec_monitorDisagree hd

end Sys2Proof.Machine
end

section
/-!
PROOF. Live settings and the deglitcher (R66, R76, R110, R113, R114, R152, R153, R166, R167, R178): what each write
leaves of the channel, what the end of a hold leaves, which step of the source DAC a code drives, and O22 from these.
-/

namespace Sys2Proof.Machine

variable {s : State} {ch : Fin 128} {v : DWord} {h : Channel}

/-! ## Target and compliance pair (R66, R76, R166, R167, R178) -/

theorem exec_pgTargetWrite (hr : regsUp s = true) : exec (.pgTargetWrite ch v) s = .next (writeTarget s ch v) :=
  congrArg Host.Outcome.next (if_pos hr)

theorem exec_chCompWrite {hi : Bool} (hr : regsUp s = true) :
    exec (.chCompWrite ch hi v) s = .next (writeComp s ch hi v) := congrArg Host.Outcome.next (if_pos hr)

/-- A target that the channel's function and window allow is taken, any other sets TGT_REJ. -/
theorem writeTarget_free (ho : s.ch[ch].sw.state.owns = false) : writeTarget s ch v = updPg s ch fun p =>
    if s.ch[ch].cfg.func ≠ .mi ∧ targetOk s.ch[ch].cfg v = true
    then { p with target := v, fresh := p.fresh || !s.ch[ch].stopping } else { p with tgtRej := true } := by
  rw [writeTarget, ownedBy_free ho]
  split
  next hc => rw [updPg, updPg, updCh, updCh, if_neg (by simpa [Classical.or_iff_not_imp_left] using hc)]
  next hc => rw [updPg, updPg, updCh, updCh, if_pos (by simpa using hc)]

/-- A pair that keeps its order and distance is taken, any other sets COMP_REJ. -/
theorem writePair_eq {hi lo : DWord} : writePair s ch hi lo = updCh s ch fun h =>
    if pairOk s.ch[ch].cfg (pairFs s ch) hi lo then { h with compHi := hi, compLo := lo }
    else { h with compRej := true } := by
  unfold writePair
  split <;> rfl

/-- A write of one limit makes a pair with the other as it stands. -/
theorem writeComp_free {hi : Bool} (ho : s.ch[ch].sw.state.owns = false) : writeComp s ch hi v =
    writePair s ch (if hi then v else s.ch[ch].compHi) (if hi then s.ch[ch].compLo else v) := by
  rw [writeComp, ownedBy_free ho]
  cases hi <;> rfl

/-! ## Bank values (R152, R153) -/

theorem exec_lpBankSelWrite {sel : Bool} (hr : regsUp s = true) :
    exec (.lpBankSelWrite ch sel) s = .next (updEng s ch fun e => writeSel e sel) :=
  congrArg Host.Outcome.next (if_pos hr)

theorem exec_coefWrite {bankB : Bool} {offset : Nat} (hr : regsUp s = true) (ho : bankOffsetOk offset = true) :
    exec (.coefWrite ch bankB offset v) s = .next (updCh s ch fun h => writeCoef h bankB offset v) :=
  congrArg Host.Outcome.next (if_pos (by rw [hr, ho]; rfl))

/-- The active bank is closed to writes but in a STOPPED channel. -/
theorem bankWritable_eq_false {bankB : Bool} :
    bankWritable h bankB = false ↔ bankB = h.eng.bankAct ∧ h.state ≠ .stopped := by
  simp [bankWritable]

theorem writeCoef_eq {bankB : Bool} {offset : Nat} : writeCoef h bankB offset v =
    if bankB = h.eng.bankAct ∧ h.state ≠ .stopped then { h with eng := { h.eng with bankRej := true } }
    else if coefOk h.cfg offset v = false then { h with eng := { h.eng with coefRej := true } }
    else if bankB then { h with cfg := { h.cfg with bankB := h.cfg.bankB.put offset (round48 v) } }
    else { h with cfg := { h.cfg with bankA := h.cfg.bankA.put offset (round48 v) } } := by
  simp only [writeCoef, ← bankWritable_eq_false, Bool.not_eq_true']

/-! ## The end of a hold (R113, R114) -/

/-- Outside a voltage range sequence the end of a hold tracks the demand, or, where the demand has taken another major
step meanwhile, the step held for, and holds again. -/
theorem deglitchEnd_tracks (hh : h.dg.hold = true) (hv : voltSeq h = false) : deglitchEnd h = { h with
    dg := if h.eng.dac ≠ h.dg.next ∧ majorStep (forcedFs h) h.dg.next h.eng.dac = true
      then ⟨true, true, dacValue (forcedFs h) h.dg.next, h.eng.dac⟩
      else { h.dg with hold := false, out := dacValue (forcedFs h) h.eng.dac, next := h.eng.dac } } := by
  simp [deglitchEnd, hh, hv]

/-- During a voltage range sequence the terminal stays held. -/
theorem deglitchEnd_held (hh : h.dg.hold = true) (hv : voltSeq h = true) : deglitchEnd h =
    { h with dg := { h.dg with hold := false, next := h.eng.dac } } := by
  simp [deglitchEnd, hh, hv]

/-! ## The step that a code drives (R110) -/

theorem roundEven_int (n : Int) : roundEven n = n := by
  have hlow : (0 : Rat) < 1 / 2 := by grind
  simp only [roundEven, Rat.floor_intCast, Rat.sub_self, if_pos hlow]

theorem floor_half (n : Int) : ((n : Rat) + 1 / 2).floor = n := by
  have hlow : n ≤ ((n : Rat) + 1 / 2).floor := Rat.le_floor_iff.mpr (by grind)
  have hhigh : ((n : Rat) + 1 / 2).floor < n + 1 := Rat.floor_lt_iff.mpr (by rw [Rat.intCast_add]; grind)
  omega

/-- Half-way between two integers the even one is taken. -/
theorem roundEven_half (n : Int) : roundEven (n + 1 / 2) = if n % 2 = 0 then n else n + 1 := by
  have hrest : (n : Rat) + 1 / 2 - n = 1 / 2 := by grind
  simp only [roundEven, floor_half, hrest, Rat.lt_irrefl, if_false]

theorem dacStep_even (n : Int) : dacStep (2 * n) = n := by
  have hhalf : ((2 * n : Int) : Rat) / 2 = n := by
    rw [Rat.intCast_mul]
    grind
  rw [dacStep, hhalf, roundEven_int]

theorem dacStep_odd (n : Int) : dacStep (2 * n + 1) = if n % 2 = 0 then n else n + 1 := by
  have hhalf : ((2 * n + 1 : Int) : Rat) / 2 = n + 1 / 2 := by
    rw [Rat.intCast_add, Rat.intCast_mul]
    grind
  rw [dacStep, hhalf, roundEven_half]

/-- Settles O22: each clause from what its operation leaves of the channel. -/
theorem liveSettingsAndDeglitch : Obligations.LiveSettingsAndDeglitch := by
  unfold Obligations.LiveSettingsAndDeglitch
  refine ⟨fun ch v s hr ho => ?_, fun ch hi v s hr ho => ?_, fun c ch hi v s hr ho hc => ?_, fun ch sel s hr => ?_,
    fun ch bankB offset v s hr ho => ?_, fun ch s hh hv => ?_, fun ch s hh hv => ?_,
    fun n => ⟨dacStep_even n, ?_⟩⟩
  · rw [exec_pgTargetWrite hr, writeTarget_free ho]
    rfl
  · rw [exec_chCompWrite hr, writeComp_free ho, writePair_eq]
    rfl
  · rcases hc with rfl | rfl
    · rw [exec_pgTargetWrite hr, writeTarget, ownedBy_owned ho]
      rfl
    · rw [exec_chCompWrite hr, writeComp, ownedBy_owned ho]
      rfl
  · exact exec_lpBankSelWrite hr
  · rw [exec_coefWrite hr ho, updCh, writeCoef_eq]
  · have he : exec (.deglitchHoldEnd ch) s = .next (updCh s ch deglitchEnd) := rfl
    rw [he, updCh, deglitchEnd_tracks hh hv]
  · have he : exec (.deglitchHoldEnd ch) s = .next (updCh s ch deglitchEnd) := rfl
    rw [he, updCh, deglitchEnd_held hh hv]
  · rw [dacStep_odd]
    split <;> omega

end Sys2Proof.Machine
end

section
/-!
PROOF. Blocks and rings (R127, R245, R247, R249, R251, R252): what a block leaves of its ring and of the store, what a
stream's assembly block holds when it closes, and O36 from these.
-/

namespace Sys2Proof.Machine

variable {s : State} {n : Fin 2048} {ring : Fin 31} {data desc : List Byte} {raw : List Nat}

/-! ## Lengths -/

@[simp] theorem length_toBytes (k v : Nat) : (toBytes k v).length = k := by
  induction k generalizing v with
  | zero => rfl
  | succ k ih => rw [toBytes, List.length_cons, ih]

@[simp] theorem length_padBlock (bs : List Byte) : (padBlock bs).length = 4096 := by
  simp only [padBlock, List.length_append, List.length_take, List.length_replicate]
  omega

theorem descHead_decide (tick stream count : Nat) (p : Prop) [Decidable p] :
    descHead tick stream count (decide p) =
      toBytes 8 tick ++ toBytes 4 (stream + count * 2048 + if p then 16777216 else 0) := by
  simp only [descHead, decide_eq_true_eq, Nat.reducePow]

/-- A block descriptor has 16 bytes (R247). -/
@[simp] theorem length_descBytes_descHead (tick stream count : Nat) (part : Bool) :
    (descBytes data (descHead tick stream count part)).length = 16 := by
  simp [descBytes, descHead]

/-! ## A span that a write does not meet -/

theorem memReadN_memWriteN_out {bs : List Byte} {m : List Host.Cell} {a x k : Nat} (h : Memory.wf m = true)
    (hx : x + k ≤ a ∨ a + bs.length ≤ x) : memReadN (memWriteN m a bs) x k = memReadN m x k := by
  induction k generalizing x with
  | zero => rfl
  | succ k ih => rw [memReadN, memReadN, memRead_memWriteN_out h (by omega), ih (by omega)]

/-! ## A block of a ring and the store (R249, R251, R252) -/

/-- The data of a block lie below every descriptor. -/
theorem blockAddr_data_below (hN : ringBlocks s ring ≠ 0) (i : Nat) :
    (blockAddr s ring i).1 + 4096 ≤ (blockAddr s ring i).2 := by
  have hi : i % ringBlocks s ring < ringBlocks s ring := Nat.mod_lt _ (Nat.pos_of_ne_zero hN)
  simp only [blockAddr]
  omega

/-- The store's bytes with a block and its descriptor written in the place of block `i`. -/
def blockWritten (s : State) (ring : Fin 31) (i : Nat) (data desc : List Byte) : List Host.Cell :=
  memWriteN (memWriteN s.sto.mem (blockAddr s ring i).1 data) (blockAddr s ring i).2 desc

theorem blockWritten_desc {i : Nat} (hw : storeCanonical s) (hlen : desc.length = 16) :
    memReadN (blockWritten s ring i data desc) (blockAddr s ring i).2 16 = desc :=
  hlen ▸ memReadN_memWriteN (memWriteN_wf hw)

theorem blockWritten_data {i : Nat} (hw : storeCanonical s) (hN : ringBlocks s ring ≠ 0)
    (hlen : data.length = 4096) :
    memReadN (blockWritten s ring i data desc) (blockAddr s ring i).1 4096 = data := by
  have hbelow : (blockAddr s ring i).1 + data.length ≤ (blockAddr s ring i).2 :=
    hlen ▸ blockAddr_data_below hN i
  rw [← hlen, blockWritten, memReadN_memWriteN_out (memWriteN_wf hw) (.inl hbelow), memReadN_memWriteN hw]

theorem blockWritten_outside {i a : Nat} (hw : storeCanonical s) (hdata : data.length = 4096)
    (hdesc : desc.length = 16) (h1 : a < (blockAddr s ring i).1 ∨ (blockAddr s ring i).1 + 4096 ≤ a)
    (h2 : a < (blockAddr s ring i).2 ∨ (blockAddr s ring i).2 + 16 ≤ a) :
    memRead (blockWritten s ring i data desc) a = memRead s.sto.mem a := by
  rw [← hdata] at h1
  rw [← hdesc] at h2
  rw [blockWritten, memRead_memWriteN_out (memWriteN_wf hw) h2, memRead_memWriteN_out hw h1]

/-- A block changes nothing but bytes of the store and its ring's registers. -/
theorem writeBlock_frame : ∃ m r, writeBlock s ring data desc =
    { s with sto := { s.sto with mem := m, ring := r } } := by
  simp only [writeBlock]
  split
  · exact ⟨_, _, rfl⟩
  · split <;> exact ⟨_, _, rfl⟩

/-- A ring with room takes the block. -/
theorem writeBlock_room (ha : ringActive s ring = true) (hN : ringBlocks s ring ≠ 0)
    (hroom : s.sto.ring[ring].wp - s.sto.ring[ring].rp < ringBlocks s ring) :
    writeBlock s ring data desc = { s with sto := { s.sto with
      mem := blockWritten s ring s.sto.ring[ring].wp data desc
      ring := s.sto.ring.set ring (advanceWp (ringBlocks s ring) s.sto.ring[ring]) } } := by
  simp only [writeBlock, ha, hN, hroom, Bool.not_true, decide_false, decide_true, Bool.or_false, Bool.true_or,
    Bool.false_eq_true, if_false, if_true]
  simp only [updRing, storeWrite, updSto_sto, hroom, if_true]
  rfl

/-- A full ring under the drop policy counts the block and drops it. -/
theorem writeBlock_drops (ha : ringActive s ring = true) (hN : ringBlocks s ring ≠ 0)
    (hfull : ringBlocks s ring ≤ s.sto.ring[ring].wp - s.sto.ring[ring].rp)
    (hpol : ringOverwrites s.sto.ring[ring].cfg = false) :
    writeBlock s ring data desc =
      updRing s ring fun r => { r with drop := satInc r.drop, overrun := true } := by
  simp only [writeBlock, ha, hN, hpol, Nat.not_lt.mpr hfull, Bool.not_true, decide_false, Bool.or_false,
    Bool.false_eq_true, if_false]

/-- A full ring under the overwrite policy gives up its oldest block for the new one. -/
theorem writeBlock_overwrites (ha : ringActive s ring = true) (hN : ringBlocks s ring ≠ 0)
    (hfull : ringBlocks s ring ≤ s.sto.ring[ring].wp - s.sto.ring[ring].rp)
    (hpol : ringOverwrites s.sto.ring[ring].cfg = true) :
    writeBlock s ring data desc = { s with sto := { s.sto with
      mem := blockWritten s ring s.sto.ring[ring].wp data desc
      ring := s.sto.ring.set ring (advanceWp (ringBlocks s ring) { s.sto.ring[ring] with
        rp := s.sto.ring[ring].rp + 1, ovwr := satInc s.sto.ring[ring].ovwr, overrun := true }) } } := by
  simp only [writeBlock, ha, hN, hpol, Nat.not_lt.mpr hfull, Bool.not_true, decide_false, Bool.or_true,
    Bool.false_eq_true, Bool.or_self, if_false, if_true]
  simp only [updRing, storeWrite, updSto_sto, Nat.not_lt.mpr hfull, if_false]
  rfl

/-- A MARK more than a ring behind the advanced WP is lost, any other kept (R252). -/
theorem advanceWp_mark (N : Nat) (r : CapRing) :
    (advanceWp N r).markValid = (r.markValid && decide (r.wp + 1 - r.mark ≤ N)) ∧
    (advanceWp N r).markLost = (r.markLost || (r.markValid && decide (N < r.wp + 1 - r.mark))) := by
  refine ⟨?_, rfl⟩
  have hkept : decide (r.wp + 1 - r.mark ≤ N) = !decide (N < r.wp + 1 - r.mark) := by
    rw [← decide_not, decide_eq_decide, Nat.not_lt]
  simp only [advanceWp, overwritten, hkept]
  cases r.markValid <;> rfl

/-! ## The assembly block of a stream (R127, R245, R247) -/

/-- The tick at which the block that is being assembled has reached its age. -/
def ageTick (st : Stream) : Nat := st.openedAt + field st.age 13 0 * 800000

/-- The stream's block has data of its kind, raw codes or samples. -/
def hasData (st : Stream) : Prop := if rawSource st then st.raw ≠ [] else st.block ≠ []

/-- The data bytes of the stream's block. -/
def blockData (st : Stream) : List Byte :=
  if rawSource st then toBytes 4096 (packCodes (rawShape st).2.1 st.raw)
  else padBlock (st.block.flatMap fun w => toBytes 4 w.toNat)

/-- The codes or samples in the stream's block. -/
def blockCount (st : Stream) : Nat := if rawSource st then st.raw.length else st.block.length

/-- The codes or samples that fill the stream's block. -/
def blockFull (st : Stream) : Nat := if rawSource st then (rawShape st).1 else 1024

/-- The stream after its block has closed. -/
def emptied (st : Stream) : Stream :=
  if rawSource st then { st with raw := [], ts := 0 } else { st with block := [], ts := 0 }

theorem rawSource_of_lt {st : Stream} (h : strSrc st.cfg < 6) : rawSource st = false := by
  simp only [rawSource, decide_eq_false_iff_not]
  omega

theorem rawSource_of_le {st : Stream} (h : 6 ≤ strSrc st.cfg) : rawSource st = true := by
  simpa only [rawSource, decide_eq_true_eq]

@[simp] theorem emptied_ts (st : Stream) : (emptied st).ts = 0 := by
  unfold emptied
  split <;> rfl

theorem length_blockData (st : Stream) : (blockData st).length = 4096 := by
  unfold blockData
  split
  · exact length_toBytes _ _
  · exact length_padBlock _

/-- A block goes to the ring that its stream names. -/
theorem putBlock_eq {tick count : Nat} {part : Bool} (h : strRing s.sto.stream[n].cfg = ring.val) :
    putBlock s n tick count part data =
      writeBlock s ring data (descBytes data (descHead tick n.val count part)) := by
  have hring : streamRing s.sto.stream[n] = some ring := by
    simp only [streamRing, h, ring.isLt, dite_true]
  simp only [putBlock, hring]

/-- Whatever its ring does, a stream's block changes nothing but bytes of the store and rings' registers. -/
theorem putBlock_frame {tick count : Nat} {part : Bool} : ∃ m r, putBlock s n tick count part data =
    { s with sto := { s.sto with mem := m, ring := r } } := by
  unfold putBlock
  split
  · exact writeBlock_frame
  · exact ⟨_, _, rfl⟩

@[simp] theorem putBlock_stream {tick count : Nat} {part : Bool} :
    (putBlock s n tick count part data).sto.stream = s.sto.stream := by
  obtain ⟨m, r, h⟩ := putBlock_frame (s := s) (n := n) (data := data) (tick := tick) (count := count) (part := part)
  rw [h]

/-- An update of a stream depends on its function at that stream alone. -/
theorem updStream_congr {f g : Stream → Stream} (h : f s.sto.stream[n] = g s.sto.stream[n]) :
    updStream s n f = updStream s n g := by
  simp only [updStream, h]

theorem closeBlock_eq (h : s.sto.stream[n].block ≠ []) : closeBlock s n =
    updStream (putBlock s n s.sto.stream[n].ts s.sto.stream[n].block.length
      (decide (s.sto.stream[n].block.length < 1024))
      (padBlock (s.sto.stream[n].block.flatMap fun w => toBytes 4 w.toNat))) n
      fun x => { x with block := [], ts := 0 } :=
  if_neg (by rwa [List.isEmpty_iff])

theorem closeRaw_eq (h : s.sto.stream[n].raw ≠ []) : closeRaw s n =
    updStream (putBlock s n s.sto.stream[n].ts s.sto.stream[n].raw.length
      (decide (s.sto.stream[n].raw.length < (rawShape s.sto.stream[n]).1))
      (toBytes 4096 (packCodes (rawShape s.sto.stream[n]).2.1 s.sto.stream[n].raw))) n
      fun x => { x with raw := [], ts := 0 } :=
  if_neg (by rwa [List.isEmpty_iff])

/-- The stream's block goes to its ring, and the stream begins an empty one. -/
theorem closeAssembly_eq (h : hasData s.sto.stream[n]) : closeAssembly s n =
    updStream (putBlock s n s.sto.stream[n].ts (blockCount s.sto.stream[n])
      (decide (blockCount s.sto.stream[n] < blockFull s.sto.stream[n])) (blockData s.sto.stream[n])) n emptied := by
  cases hr : rawSource s.sto.stream[n] with
  | false =>
    simp only [hasData, hr, Bool.false_eq_true, if_false] at h
    simp only [closeAssembly, blockCount, blockFull, blockData, hr, Bool.false_eq_true, if_false]
    rw [closeBlock_eq h]
    exact updStream_congr (by simp only [putBlock_stream, emptied, hr, Bool.false_eq_true, if_false])
  | true =>
    simp only [hasData, hr, if_true] at h
    simp only [closeAssembly, blockCount, blockFull, blockData, hr, if_true]
    rw [closeRaw_eq h]
    exact updStream_congr (by simp only [putBlock_stream, emptied, hr, if_true])

/-! ## CAPTURE_BLOCK_CLOSE (R127, R245) -/

/-- Up to the instant of the next code a raw stream has none to take. -/
theorem addRaw_none (hf : s.ch[strCh s.sto.stream[n].cfg].cfg.func ≠ .off) {before : Nat}
    (h : before ≤ s.sto.stream[n].nextCode) : addRaw s n before raw = s := by
  have hdue : rawDue s.sto.stream[n] before = 0 := by
    have hgap : 0 < (rawShape s.sto.stream[n]).2.2 := by
      unfold rawShape
      split <;> decide
    exact Nat.div_eq_of_lt (by omega)
  simp only [addRaw, hf, hdue, if_false, List.range_zero, List.map_nil, List.foldl_nil]

/-- Every code that has come before is in the stream's block; a stream of samples takes none. -/
def codesTaken (s : State) (n : Fin 2048) : Prop :=
  rawSource s.sto.stream[n] = true →
    s.ch[strCh s.sto.stream[n].cfg].cfg.func ≠ .off ∧ s.tb.now ≤ s.sto.stream[n].nextCode

theorem closeCommand_opened (ho : s.sto.stream[n].opened = true) (hc : codesTaken s n) :
    closeCommand s n raw = closeAged s n := by
  cases hr : rawSource s.sto.stream[n] with
  | false => simp only [closeCommand, ho, hr, Bool.not_true, Bool.false_eq_true, if_false]
  | true =>
    obtain ⟨hf, hnow⟩ := hc hr
    simp only [closeCommand, ho, hr, addRaw_none hf hnow, Bool.not_true, Bool.false_eq_true, if_false, if_true]

/-- A block that has not reached its age by the next boundary stays. -/
theorem closeAged_young (h : nextBoundary s < ageTick s.sto.stream[n]) : closeAged s n = s := by
  have hdue : dueBy s (ageTick s.sto.stream[n]) = false := by
    simp only [dueBy, decide_eq_false_iff_not]
    omega
  exact if_pos (by rw [ageTick] at hdue; simp only [hdue, Bool.not_false, Bool.or_true])

/-- A block that reaches its age closes, at that tick or now. -/
theorem closeAged_due (hd : hasData s.sto.stream[n]) (h : ageTick s.sto.stream[n] ≤ nextBoundary s) :
    closeAged s n = closeAssembly (reachTick s (ageTick s.sto.stream[n])) n := by
  have hdue : dueBy s (ageTick s.sto.stream[n]) = true := decide_eq_true h
  have hsome : (s.sto.stream[n].block.isEmpty && s.sto.stream[n].raw.isEmpty) = false := by
    unfold hasData at hd
    split at hd <;> simp only [List.isEmpty_eq_false_iff.mpr hd, Bool.and_false, Bool.false_and]
  exact if_neg (by rw [ageTick] at hdue; simp only [hsome, hdue]; decide)

/-- The descriptor of the stream's block. -/
def blockDesc (s : State) (n : Fin 2048) : List Byte :=
  descBytes (blockData s.sto.stream[n]) (descHead s.sto.stream[n].ts n.val (blockCount s.sto.stream[n])
    (decide (blockCount s.sto.stream[n] < blockFull s.sto.stream[n])))

/-- The aged block has gone to its ring, at the tick of its age or now. -/
def agedBlockPut (s : State) (n : Fin 2048) : State :=
  putBlock (reachTick s (ageTick s.sto.stream[n])) n s.sto.stream[n].ts (blockCount s.sto.stream[n])
    (decide (blockCount s.sto.stream[n] < blockFull s.sto.stream[n])) (blockData s.sto.stream[n])

theorem agedBlockPut_eq (h : strRing s.sto.stream[n].cfg = ring.val) : agedBlockPut s n =
    writeBlock (reachTick s (ageTick s.sto.stream[n])) ring (blockData s.sto.stream[n]) (blockDesc s n) :=
  putBlock_eq h

/-- The command closes a block that is due: beside what its ring does, the stream begins an empty one. -/
theorem exec_captureBlockClose_due {m : List Host.Cell} {r : Vector CapRing 31}
    (ho : s.sto.stream[n].opened = true) (hc : codesTaken s n) (hd : hasData s.sto.stream[n])
    (h : ageTick s.sto.stream[n] ≤ nextBoundary s)
    (hput : agedBlockPut s n =
      { reachTick s (ageTick s.sto.stream[n]) with sto := { s.sto with mem := m, ring := r } }) :
    exec (.captureBlockClose n raw) s = .next { reachTick s (ageTick s.sto.stream[n]) with
      sto := { s.sto with mem := m, ring := r, stream := s.sto.stream.set n (emptied s.sto.stream[n]) } } := by
  have he : exec (.captureBlockClose n raw) s = .next (closeCommand s n raw) := rfl
  have hclose : closeAssembly (reachTick s (ageTick s.sto.stream[n])) n = updStream (agedBlockPut s n) n emptied :=
    closeAssembly_eq hd
  rw [he, closeCommand_opened ho hc, closeAged_due hd h, hclose, hput]
  rfl

/-! ## Blocks of samples and blocks of codes -/

theorem rawShape_full (st : Stream) : (rawShape st).1 = if strSrc st.cfg = 9 then 1820 else 5461 := by
  unfold rawShape
  split <;> rfl

theorem rawShape_width (st : Stream) : (rawShape st).2.1 = if strSrc st.cfg = 9 then 18 else 6 := by
  unfold rawShape
  split <;> rfl

theorem rawShape_gap (st : Stream) : (rawShape st).2.2 = if strSrc st.cfg = 9 then 800 else 10 := by
  unfold rawShape
  split <;> rfl

theorem codesTaken_of_lt (h : strSrc s.sto.stream[n].cfg < 6) : codesTaken s n := fun hr => by
  rw [rawSource_of_lt h] at hr
  cases hr

/-- The block of a stream of samples. -/
theorem block_of_samples {st : Stream} (h : strSrc st.cfg < 6) :
    (hasData st ↔ st.block ≠ []) ∧ blockData st = padBlock (st.block.flatMap fun w => toBytes 4 w.toNat) ∧
      blockCount st = st.block.length ∧ blockFull st = 1024 := by
  simp only [hasData, blockData, blockCount, blockFull, rawSource_of_lt h, Bool.false_eq_true, if_false, and_self]

theorem emptied_of_samples {st : Stream} (h : strSrc st.cfg < 6) : emptied st = { st with block := [], ts := 0 } := by
  simp only [emptied, rawSource_of_lt h, Bool.false_eq_true, if_false]

/-- The block of a raw stream. -/
theorem block_of_codes {st : Stream} (h : 6 ≤ strSrc st.cfg) :
    (hasData st ↔ st.raw ≠ []) ∧
      blockData st = toBytes 4096 (packCodes (if strSrc st.cfg = 9 then 18 else 6) st.raw) ∧
      blockCount st = st.raw.length ∧ blockFull st = (if strSrc st.cfg = 9 then 1820 else 5461) := by
  simp only [hasData, blockData, blockCount, blockFull, rawSource_of_le h, if_true, rawShape_width, rawShape_full,
    and_self]

theorem emptied_of_codes {st : Stream} (h : 6 ≤ strSrc st.cfg) : emptied st = { st with raw := [], ts := 0 } := by
  simp only [emptied, rawSource_of_le h, if_true]

/-- Settles O36: the command hands the block to its ring, which takes it or drops it. -/
theorem blocksReachRings : Obligations.BlocksReachRings := by
  unfold Obligations.BlocksReachRings
  refine ⟨fun n ring raw data head count full s ho hage hring ha hN hroom hw hblock hhead => ?_,
    fun n ring raw s ho hsrc hb hage hring ha hN hfull hpol => ?_⟩
  · obtain ⟨hc, hd, rfl, rfl, rfl⟩ : codesTaken s n ∧ hasData s.sto.stream[n] ∧ data = blockData s.sto.stream[n] ∧
        count = blockCount s.sto.stream[n] ∧ full = blockFull s.sto.stream[n] := by
      rcases hblock with ⟨hsrc, hb, hdata, hcount, hfull⟩ | ⟨hsrc, hb, hnow, hf, hdata, hcount, hfull⟩
      · obtain ⟨hhas, h1, h2, h3⟩ := block_of_samples hsrc
        exact ⟨codesTaken_of_lt hsrc, hhas.mpr hb, h1 ▸ hdata, h2 ▸ hcount, h3 ▸ hfull⟩
      · obtain ⟨hhas, h1, h2, h3⟩ := block_of_codes hsrc
        exact ⟨fun _ => ⟨hf, hnow⟩, hhas.mpr hb, h1 ▸ hdata, h2 ▸ hcount, h3 ▸ hfull⟩
    have hdesc : head ++ toBytes 4 (crc32c (blockData s.sto.stream[n] ++ head)).toNat = blockDesc s n := by
      rw [blockDesc, descHead_decide, ← hhead]
      rfl
    have hlen : (blockDesc s n).length = 16 := length_descBytes_descHead _ _ _ _
    have hdata : (blockData s.sto.stream[n]).length = 4096 := length_blockData _
    obtain ⟨hvalid, hlost⟩ := advanceWp_mark (ringBlocks s ring) s.sto.ring[ring]
    refine ⟨_, exec_captureBlockClose_due ho hc hd hage
      ((agedBlockPut_eq hring).trans (writeBlock_room ha hN hroom)), ?_⟩
    simp only [Fin.getElem_fin, Vector.getElem_set_self, emptied_ts] at hdesc hvalid hlost ⊢
    refine ⟨trivial, ?_, hvalid, hlost, fun hs => ?_, fun hs => ?_, rfl, rfl, rfl, ?_, fun a h1 h2 => ?_, rfl, rfl⟩
    · rw [hdesc]
      exact blockWritten_desc hw hlen
    · rw [emptied_of_samples hs]
    · rw [emptied_of_codes hs]
    · exact blockWritten_data hw hN hdata
    · exact blockWritten_outside hw hdata hlen h1 h2
  · have hempty := emptied_of_samples hsrc
    refine ⟨_, exec_captureBlockClose_due ho (codesTaken_of_lt hsrc)
      ((block_of_samples hsrc).1.mpr hb) hage
      ((agedBlockPut_eq hring).trans (writeBlock_drops ha hN hfull hpol)), ?_, rfl, rfl⟩
    simp only [Fin.getElem_fin, Vector.getElem_set_self] at hempty ⊢
    rw [hempty]

end Sys2Proof.Machine
end

section
/-!
PROOF. Block and item commands (R127, R245, R249, R251, R265, R305, R321, R322): the codes that a raw stream takes, a
block and the items of a frame that arrive, a packet that a queue takes whole, and O59 from these.
-/

namespace Sys2Proof.Machine

variable {s : State} {f : Frame} {q : Fin 32} {n : Fin 2048} {ring : Fin 31}

/-! ## The codes a raw stream takes (R107, R127; A14) -/

theorem updStream_updStream {g h : Stream → Stream} :
    updStream (updStream s n g) n h = updStream s n fun x => h (g x) := by
  simp only [updStream, Fin.getElem_fin, Vector.getElem_set_self, Vector.set_set]

/-- The block of a raw stream with further codes in it, each at its instant. -/
def withCodes (codes : List Nat) (st : Stream) : Stream :=
  { st with raw := st.raw ++ codes, nextCode := st.nextCode + codes.length * (rawShape st).2.2 }

theorem withCodes_nil (st : Stream) : withCodes [] st = st := by
  simp only [withCodes, List.append_nil, List.length_nil, Nat.zero_mul, Nat.add_zero]

theorem withCodes_cons (c : Nat) (l : List Nat) (st : Stream) :
    withCodes l (withCodes [c] st) = withCodes (c :: l) st := by
  have hnext : st.nextCode + 1 * (rawShape st).2.2 + l.length * (rawShape st).2.2 =
      st.nextCode + (l.length + 1) * (rawShape st).2.2 := by
    rw [Nat.add_mul]
    omega
  have hraw : st.raw ++ [c] ++ l = st.raw ++ c :: l := by
    rw [List.append_assoc, List.singleton_append]
  calc withCodes l (withCodes [c] st)
    _ = { st with raw := st.raw ++ [c] ++ l
                  nextCode := st.nextCode + 1 * (rawShape st).2.2 + l.length * (rawShape st).2.2 } := rfl
    _ = withCodes (c :: l) st := by
      rw [hraw, hnext]
      rfl

/-- A code that does not fill a block begun before. -/
theorem addCode_open {code : Nat} (hr : s.sto.stream[n].raw ≠ [])
    (hl : s.sto.stream[n].raw.length + 1 < (rawShape s.sto.stream[n]).1) :
    addCode s n code = updStream s n (withCodes [code]) := by
  have hbegun : s.sto.stream[n].raw.isEmpty = false := List.isEmpty_eq_false_iff.mpr hr
  have hopen : ¬ (rawShape s.sto.stream[n]).1 ≤ (updStream s n (withCodes [code])).sto.stream[n].raw.length := by
    simp only [updStream_sto, Fin.getElem_fin, Vector.getElem_set_self, withCodes, List.length_append,
      List.length_singleton] at hl ⊢
    omega
  unfold addCode
  dsimp only
  rw [updStream_congr (g := withCodes [code]) (by
    simp only [withCodes, hbegun, Bool.false_eq_true, if_false, List.length_singleton, Nat.one_mul])]
  exact if_neg hopen

/-- Codes that do not fill a block begun before. -/
theorem foldl_addCode_open {codes : List Nat} (hr : s.sto.stream[n].raw ≠ [])
    (hl : s.sto.stream[n].raw.length + codes.length < (rawShape s.sto.stream[n]).1) :
    codes.foldl (fun s c => addCode s n c) s = updStream s n (withCodes codes) := by
  induction codes generalizing s with
  | nil =>
    simp only [List.foldl_nil, updStream, withCodes_nil, Fin.getElem_fin, Vector.set_getElem_self]
  | cons c l ih =>
    rw [List.length_cons] at hl
    have hthis : (updStream s n (withCodes [c])).sto.stream[n] = withCodes [c] s.sto.stream[n] := by
      simp only [updStream_sto, Fin.getElem_fin, Vector.getElem_set_self]
    rw [List.foldl_cons, addCode_open hr (by omega), ih, updStream_updStream]
    · simp only [withCodes_cons]
    · rw [hthis]
      simp [withCodes]
    · rw [hthis]
      simp only [withCodes, List.length_append, List.length_singleton]
      exact lt_of_eq_of_lt (by omega) hl

/-- A raw stream whose block stays open takes the codes of the instants since the last one, and no block closes. -/
theorem closeCommand_codes {raw : List Nat} (ho : s.sto.stream[n].opened = true)
    (hsrc : rawSource s.sto.stream[n] = true) (hf : s.ch[strCh s.sto.stream[n].cfg].cfg.func ≠ .off)
    (hr : s.sto.stream[n].raw ≠ [])
    (hl : s.sto.stream[n].raw.length + rawDue s.sto.stream[n] s.tb.now < (rawShape s.sto.stream[n]).1)
    (hage : nextBoundary s < ageTick s.sto.stream[n]) :
    closeCommand s n raw = updStream s n
      (withCodes ((List.range (rawDue s.sto.stream[n] s.tb.now)).map fun i => raw[i]?.getD 0)) := by
  have htake : addRaw s n s.tb.now raw = updStream s n
      (withCodes ((List.range (rawDue s.sto.stream[n] s.tb.now)).map fun i => raw[i]?.getD 0)) := by
    simp only [addRaw, hf, if_false]
    exact foldl_addCode_open hr (by simpa only [List.length_map, List.length_range])
  simp only [closeCommand, ho, hsrc, Bool.not_true, Bool.false_eq_true, if_false, if_true, htake]
  refine closeAged_young ?_
  simp only [updStream_sto, Fin.getElem_fin, Vector.getElem_set_self]
  exact hage

/-! ## A block from the ring (R321) -/

theorem exec_block (h : arrives s f 0x20) (hd : f.dst = s.jx.id) :
    exec (.block f) s = .next (blockUse (noteUpstream s f) f) := by
  have hmine : isMine s f = true := isMine_of_arrives h hd (by decide)
  have htype : f.type = 0x20 := h.2.2.1
  have he : exec (.block f) s = .next (arrive 0 s f) := rfl
  have ha : arrive 0 s f = takeBlock s f := by simp only [arrive, htype]
  rw [he, ha, takeBlock, receive_mine h hmine]

theorem rxRing_noteUpstream (r : Nat) : rxRing (noteUpstream s f) r = rxRing s r := by
  simp only [rxRing, noteUpstream_jx]

theorem ringActive_noteUpstream : ringActive (noteUpstream s f) ring = ringActive s ring := by
  simp only [ringActive, isRxRing, noteUpstream_jx, noteUpstream_sto]

theorem ringBlocks_noteUpstream : ringBlocks (noteUpstream s f) ring = ringBlocks s ring := by
  simp only [ringBlocks, noteUpstream_sto]

/-- A whole block goes to the receive ring of its ARG. -/
theorem blockUse_ring (hp : f.poison = false) (hr : rxRing s (f.arg % 8) = some ring) :
    blockUse s f = writeBlock s ring (padBlock (f.payload.drop 16))
      (descBytes (padBlock (f.payload.drop 16)) (f.payload.take 12)) := by
  simp only [blockUse, hp, hr, Bool.false_eq_true, if_false]

theorem blockUse_without_ring (hp : f.poison = false) (hr : rxRing s (f.arg % 8) = none) : blockUse s f = s := by
  simp only [blockUse, hp, hr, Bool.false_eq_true, if_false]

/-- A whole block goes to the receive ring of its ARG, with a descriptor made anew. -/
theorem exec_block_ring (h : arrives s f 0x20) (hd : f.dst = s.jx.id) (hp : f.poison = false)
    (hr : rxRing s (f.arg % 8) = some ring) : exec (.block f) s = .next (writeBlock (noteUpstream s f) ring
      (padBlock (f.payload.drop 16)) (descBytes (padBlock (f.payload.drop 16)) (f.payload.take 12))) := by
  rw [exec_block h hd, blockUse_ring hp (by rwa [rxRing_noteUpstream])]

/-! ## A packet that a queue takes whole (R256, R257) -/

/-- The queue takes the items one after another: it is enabled, discards nothing, awaits no flush and has the credits,
and the items are the rest of its open packet, or a whole one. -/
structure Accepts (x : Queue) (items : List QItem) : Prop where
  en : x.en = true
  dropping : x.dropping = false
  flushPend : x.flushPend = false
  credit : items.length ≤ x.credit
  framed : ∀ (k : Nat) (i : QItem), items[k]? = some i →
    i.sop = (decide (k = 0) && !x.pktOpen) ∧ i.eop = decide (k + 1 = items.length)

variable {x : Queue} {i : QItem} {items : List QItem}

theorem pushItem_eq (h : x.flushPend = false) : pushItem x i =
    { x with items := x.items ++ [i.held], credit := x.credit - 1, pktOpen := !i.eop
             pktLen := if i.eop then 0 else if i.sop then 1 else x.pktLen + 1 } := by
  simp only [pushItem, h, Bool.and_false, Bool.false_eq_true, if_false]

theorem Accepts.pushItem (h : Accepts x (i :: items)) : Accepts (pushItem x i) items := by
  rw [pushItem_eq h.flushPend]
  refine ⟨h.en, h.dropping, h.flushPend, Nat.le_sub_of_add_le h.credit, fun k j hj => ?_⟩
  obtain ⟨hsop, heop⟩ := h.framed (k + 1) j hj
  have hmore : i.eop = false := by
    rw [(h.framed 0 i rfl).2]
    have hk : k < items.length := (List.getElem?_eq_some_iff.mp hj).1
    simp only [List.length_cons, decide_eq_false_iff_not]
    omega
  refine ⟨?_, ?_⟩
  · simp [hsop, hmore]
  · simp [heop]

theorem queueWrite_accepted (h : Accepts s.sq[q] (i :: items)) :
    queueWrite s q i = updWm (updQ s q fun x => Machine.pushItem x i) := by
  have hcredit : s.sq[q].credit ≠ 0 := Nat.ne_zero_of_lt (Nat.lt_of_lt_of_le (Nat.succ_pos _) h.credit)
  have hframe : breaksFrame s.sq[q] i = false := by
    rw [breaksFrame, (h.framed 0 i rfl).1]
    cases s.sq[q].pktOpen <;> rfl
  simp only [queueWrite, queueWrite.queueAccept, h.en, h.dropping, hcredit, hframe, Bool.not_true, Bool.false_and,
    Bool.false_eq_true, if_false]

/-- Taking items touches their queue and the watermark pins alone. -/
theorem foldl_queueWrite_accepted (h : Accepts s.sq[q] items) : ∃ p,
    items.foldl (fun s i => queueWrite s q i) s =
      { s with pins := p, sq := s.sq.set q (items.foldl Machine.pushItem s.sq[q]) } := by
  induction items generalizing s with
  | nil => exact ⟨s.pins, by simp only [List.foldl_nil, Fin.getElem_fin, Vector.set_getElem_self]⟩
  | cons i l ih =>
    have hthis : (updWm (updQ s q fun x => Machine.pushItem x i)).sq[q] = Machine.pushItem s.sq[q] i := 
      updQ_self s q fun x => Machine.pushItem x i
    obtain ⟨p, hp⟩ := ih (hthis ▸ h.pushItem)
    refine ⟨p, ?_⟩
    rw [List.foldl_cons, queueWrite_accepted h, hp, hthis]
    simp only [updWm, updPins, updQ, List.foldl_cons, Fin.getElem_fin, Vector.set_set]

/-- The items stand last in the queue, a credit each, and their packet ends with them. -/
theorem foldl_pushItem (h : Accepts x items) :
    (items.foldl Machine.pushItem x).items = x.items ++ items.map QItem.held ∧
    (items.foldl Machine.pushItem x).credit = x.credit - items.length ∧
    (items.foldl Machine.pushItem x).pktOpen = (x.pktOpen && items.isEmpty) := by
  induction items generalizing x with
  | nil => simp
  | cons i l ih =>
    obtain ⟨hitems, hcredit, hopen⟩ := ih h.pushItem
    have heop : i.eop = l.isEmpty := by
      rw [(h.framed 0 i rfl).2]
      cases l <;> simp
    rw [List.foldl_cons, hitems, hcredit, hopen, pushItem_eq h.flushPend]
    refine ⟨?_, ?_, ?_⟩
    · simp
    · simp only [List.length_cons]
      omega
    · simp [heop]

/-! ## The items of a frame (R265, R305, R322; A26) -/

@[simp] theorem length_frameItems (f : Frame) (bad : Bool) : (frameItems f bad).length = fieldN f.arg 24 16 := by
  simp only [frameItems, List.length_map, List.length_range]

/-- A frame for this member has come: the member upstream is noted, and a CRC that fails. -/
def frameNoted (s : State) (f : Frame) : State :=
  if crcOk f then noteUpstream s f else noteBadCrc (noteUpstream s f) f

theorem noteBadCrc_frame : ∃ j, noteBadCrc s f = { s with jx := j } := by
  unfold noteBadCrc
  split <;> exact ⟨_, rfl⟩

theorem noteUpstream_frame : ∃ j, noteUpstream s f = { s with jx := j } := by
  unfold noteUpstream
  split <;> exact ⟨_, rfl⟩

/-- Of the state the ring port's part alone changes. -/
theorem frameNoted_frame : ∃ j, frameNoted s f = { s with jx := j } := by
  obtain ⟨j, hup⟩ := noteUpstream_frame (s := s) (f := f)
  rw [frameNoted, hup]
  split
  · exact ⟨j, rfl⟩
  · exact noteBadCrc_frame (s := { s with jx := j })

theorem exec_qitems (hr : receives s = true) (hm : isMine s f = true) (hown : isOwn s f = false)
    (hk : frameKnown f = true) (ht : f.type = 0x21) :
    exec (.qitems f) s = .next (pushFrame (frameNoted s f) f (!crcOk f || f.poison)) := by
  have he : exec (.qitems f) s = .next (arrive 0 s f) := rfl
  have ha : arrive 0 s f = takeQitems s f := by simp only [arrive, ht]
  rw [he, ha]
  simp only [takeQitems, hr, hm, hown, hk, Bool.not_false, Bool.and_self, if_true]
  rfl

/-- Where the queue has the credits its items are written in order. -/
theorem pushFrame_writes {bad : Bool} (hq : q.val = f.arg % 32) (hp : qProd s.sq[q].cfg = 7)
    (he : s.sq[q].en = true) (hc : fieldN f.arg 24 16 ≤ s.sq[q].credit) :
    pushFrame s f bad = (frameItems f bad).foldl (fun s i => queueWrite s q i) s := by
  obtain rfl : q = ⟨f.arg % 32, Nat.mod_lt _ (by decide)⟩ := Fin.ext hq
  simp only [pushFrame, hp, he, length_frameItems, Nat.not_lt.mpr hc, bne_self_eq_false, Bool.not_true, Bool.or_self,
    Bool.false_eq_true, if_false]

/-- A frame that its queue accepts: beside the ring port and the watermark pins, its queue alone changes. -/
theorem exec_qitems_accepted (hr : receives s = true) (hm : isMine s f = true) (hown : isOwn s f = false)
    (hk : frameKnown f = true) (ht : f.type = 0x21) (hq : q.val = f.arg % 32) (hp : qProd s.sq[q].cfg = 7)
    (hitems : items = frameItems f (!crcOk f || f.poison)) (h : Accepts s.sq[q] items) :
    ∃ j p, exec (.qitems f) s =
      .next { s with jx := j, pins := p, sq := s.sq.set q (items.foldl Machine.pushItem s.sq[q]) } := by
  obtain ⟨j, hnoted⟩ := frameNoted_frame (s := s) (f := f)
  have hcredit : fieldN f.arg 24 16 ≤ s.sq[q].credit := by
    rw [← length_frameItems f, ← hitems]
    exact h.credit
  obtain ⟨p, hpush⟩ := foldl_queueWrite_accepted (s := { s with jx := j }) h
  refine ⟨j, p, ?_⟩
  rw [exec_qitems hr hm hown hk ht, hnoted, pushFrame_writes (s := { s with jx := j }) hq hp h.en hcredit,
    ← hitems, hpush]

/-- Settles O59: each clause from the one operation that its command runs. -/
theorem blockCommandsComplete : Obligations.BlockCommandsComplete := by
  unfold Obligations.BlockCommandsComplete
  refine ⟨fun n raw s ho hsrc => ⟨fun hb hraw hage => ?_, fun hage => ?_⟩,
    fun n raw gap k s ho hsrc hf hr hgap hk hl hage => ?_,
    fun f n s h hd hp hrx ha hN hfull => ⟨fun hpol => ?_, fun hpol => ?_⟩, fun f s h hd hp hrx => ?_,
    fun f q items s hr hm hown hk ht hq hprod hen hcredit hdrop hopen hflush hitems hframed => ?_⟩
  · obtain ⟨m, r, hput⟩ : ∃ m r, agedBlockPut s n = _ := putBlock_frame
    exact ⟨_, exec_captureBlockClose_due ho (codesTaken_of_lt hsrc) ((block_of_samples hsrc).1.mpr hb) hage hput,
      by rw [emptied_of_samples hsrc], rfl, rfl, rfl, rfl, rfl, rfl⟩
  · have he : exec (.captureBlockClose n raw) s = .next (closeCommand s n raw) := rfl
    rw [he, closeCommand_opened ho (codesTaken_of_lt hsrc), closeAged_young hage]
  · have he : exec (.captureBlockClose n raw) s = .next (closeCommand s n raw) := rfl
    have hdue : rawDue s.sto.stream[n] s.tb.now = k := by rw [rawDue, rawShape_gap, ← hgap, hk]
    rw [he, closeCommand_codes ho (rawSource_of_le hsrc) hf hr (by rwa [hdue, rawShape_full]) hage, hdue]
    simp only [updStream, withCodes, List.length_map, List.length_range, rawShape_gap, ← hgap]
  · refine ⟨_, exec_block_ring h hd hp hrx, ?_⟩
    rw [writeBlock_drops (ringActive_noteUpstream.trans ha) (by rwa [ringBlocks_noteUpstream])
      (by rwa [ringBlocks_noteUpstream, noteUpstream_sto]) (by rwa [noteUpstream_sto])]
    simp only [updRing_sto, updRing_ch, updRing_sq, noteUpstream_sto, noteUpstream_ch, noteUpstream_sq]
    exact ⟨trivial, rfl, trivial, trivial⟩
  · refine ⟨_, exec_block_ring h hd hp hrx, ?_⟩
    rw [writeBlock_overwrites (ringActive_noteUpstream.trans ha) (by rwa [ringBlocks_noteUpstream])
      (by rwa [ringBlocks_noteUpstream, noteUpstream_sto]) (by rwa [noteUpstream_sto])]
    simp only [noteUpstream_sto, noteUpstream_ch, noteUpstream_sq, Fin.getElem_fin, Vector.getElem_set_self]
    exact ⟨rfl, rfl, rfl, rfl, trivial, trivial⟩
  · rw [exec_block h hd, blockUse_without_ring hp (by rwa [rxRing_noteUpstream])]
  · have hlen : items.length = fieldN f.arg 24 16 := by rw [hitems, length_frameItems]
    have haccepts : Accepts s.sq[q] items :=
      ⟨hen, hdrop, hflush, hlen ▸ hcredit, by simpa only [hopen, Bool.not_false, Bool.and_true] using hframed⟩
    obtain ⟨j, p, he⟩ := exec_qitems_accepted hr hm hown hk ht hq hprod hitems haccepts
    obtain ⟨hheld, hleft, hended⟩ := foldl_pushItem haccepts
    rw [hopen, Bool.false_and] at hended
    rw [hlen] at hleft
    refine ⟨_, he, ?_, ?_, ?_, fun k hne => ?_, rfl, rfl, rfl⟩
    · simpa only [Fin.getElem_fin, Vector.getElem_set_self] using hheld
    · simpa only [Fin.getElem_fin, Vector.getElem_set_self] using hleft
    · simpa only [Fin.getElem_fin, Vector.getElem_set_self] using hended
    · exact updQ_other s q k (fun x => items.foldl Machine.pushItem x) hne.symm

end Sys2Proof.Machine
end

section
/-!
PROOF. Encoders (R158 to R160): when an index is in order, the value that a Gray code stands for, what an SSI word does
to its encoder, and the onsets of an error run; O23 from these.
-/

namespace Sys2Proof.Machine

variable {s : State} {enc : Fin 32} {e : Encoder} {started : Bool} {now bits check : Nat}

/-! ## The index check (R158) -/

/-- `a` is within 2 of a multiple of `c` just where its remainder is within 2 of 0 or of `c`. -/
theorem exists_multiple_near_iff {a c : Nat} (hc : c ≠ 0) :
    (∃ k : Int, -2 ≤ a - k * c ∧ a - k * c ≤ 2) ↔ a % c ≤ 2 ∨ c ≤ a % c + 2 := by
  have hsplit : (a : Int) = (a / c : Nat) * c + (a % c : Nat) := by exact_mod_cast (Nat.div_add_mod' a c).symm
  have hlt : a % c < c := Nat.mod_lt a (Nat.pos_of_ne_zero hc)
  constructor
  · rintro ⟨k, hlow, hhigh⟩
    have hdiff : (a : Int) - k * c = ((a / c : Nat) - k) * c + (a % c : Nat) := by
      rw [Int.sub_mul]
      omega
    rw [hdiff] at hlow hhigh
    rcases Int.lt_or_le (((a / c : Nat) : Int) - k) 0 with hneg | hnonneg
    · have : (((a / c : Nat) : Int) - k) * c ≤ -1 * c := Int.mul_le_mul_of_nonneg_right (by omega) (by omega)
      omega
    · have : 0 ≤ (((a / c : Nat) : Int) - k) * c := Int.mul_nonneg hnonneg (by omega)
      omega
  · rintro (hzero | hfull)
    · exact ⟨(a / c : Nat), by omega⟩
    · refine ⟨(a / c : Nat) + 1, ?_⟩
      rw [Int.add_mul]
      omega

theorem indexOk_iff {c : Nat} {d : Int} (hc : c ≠ 0) :
    indexOk c d = true ↔ ∃ k : Int, -2 ≤ d - k * c ∧ d - k * c ≤ 2 := by
  have habs : indexOk c d = true ↔ ∃ k : Int, -2 ≤ d.natAbs - k * c ∧ d.natAbs - k * c ≤ 2 := by
    rw [exists_multiple_near_iff hc]
    simp [indexOk, hc]
  rw [habs]
  rcases Int.natAbs_eq d with hd | hd
  · rw [← hd]
  · have hneg (k : Int) : d - k * c = -(d.natAbs - -k * c) := by
      rw [Int.neg_mul]
      omega
    constructor
    · rintro ⟨k, hlow, hhigh⟩
      refine ⟨-k, ?_⟩
      rw [hneg, Int.neg_neg]
      omega
    · rintro ⟨k, hlow, hhigh⟩
      rw [hneg] at hlow hhigh
      exact ⟨-k, by omega⟩

/-! ## Gray code (R159) -/

theorem fromGray_succ (v n : Nat) : fromGray v (n + 1) = fromGray v n ^^^ (v >>> n) := by
  rw [fromGray, List.range_succ, List.foldl_append]
  rfl

theorem gray_fromGray (v n : Nat) : fromGray v n ^^^ (fromGray v n >>> 1) = v ^^^ (v >>> n) := by
  induction n with
  | zero => simp [fromGray]
  | succ n ih =>
    calc fromGray v (n + 1) ^^^ (fromGray v (n + 1) >>> 1)
      _ = (fromGray v n ^^^ (fromGray v n >>> 1)) ^^^ ((v >>> n) ^^^ (v >>> (n + 1))) := by
        rw [fromGray_succ, Nat.shiftRight_xor_distrib, ← Nat.shiftRight_add]
        ac_rfl
      _ = v ^^^ (v >>> (n + 1)) := by
        rw [ih, Nat.xor_assoc, ← Nat.xor_assoc (v >>> n), Nat.xor_self, Nat.zero_xor]

/-- The Gray code of the decoded value is the word itself. -/
theorem gray_fromGray_of_lt {v n : Nat} (hv : v < 2 ^ n) : fromGray v n ^^^ (fromGray v n >>> 1) = v := by
  rw [gray_fromGray, Nat.shiftRight_eq_zero v n hv, Nat.xor_zero]

/-! ## Transitions, Z edges and SSI words (R158, R159) -/

/-- A Z edge's test against CPR: what it adds to the index error. -/
def indexBad (e : Encoder) : Bool :=
  bit e.cfg 4 && match e.zFirst with
    | some z => !indexOk e.cpr.toNat (e.count - z)
    | none => false

theorem indexBad_of_no_test (h : bit e.cfg 4 = false ∨ e.zFirst = none) : indexBad e = false := by
  rcases h with h | h <;> simp [indexBad, h]

theorem indexBad_eq_false_iff {z : Int} (hz : bit e.cfg 4 = true) (hfirst : e.zFirst = some z) (hc : e.cpr ≠ 0) :
    indexBad e = false ↔
      ∃ k : Int, -2 ≤ e.count - z - k * e.cpr.toNat ∧ e.count - z - k * e.cpr.toNat ≤ 2 := by
  have hcpr : e.cpr.toNat ≠ 0 := fun h => hc (BitVec.eq_of_toNat_eq h)
  rw [← indexOk_iff hcpr]
  simp [indexBad, hz, hfirst]

theorem zEdge_quadrature (h : encSsi e = false) : zEdge e = { e with
    zlatch := e.count, zFirst := some (e.zFirst.getD e.count), indexErr := e.indexErr || indexBad e } :=
  if_neg (ne_true_of_eq_false h)

theorem exec_encQuadEdge {d : QuadEdge} (hl : channelsLive s = true) :
    exec (.encQuadEdge enc d) s = .next (updEnc s enc (quadEdge d)) := congrArg Host.Outcome.next (if_pos hl)

theorem exec_encIndexEdge (hl : channelsLive s = true) :
    exec (.encIndexEdge enc) s = .next (updEnc s enc zEdge) := congrArg Host.Outcome.next (if_pos hl)

theorem ssiWord_passes (hm : encSsi e = true) (ht : e.transfer = true)
    (hp : ssiPasses e started (bits % 2 ^ ssiBits e) check = true) :
    ssiWord now started bits check e = { e with
      transfer := false, pauseUntil := now + 800 * (field e.cfg 28 23 + 1)
      count := ((if bit e.cfg 14 then fromGray (bits % 2 ^ ssiBits e) (ssiBits e)
        else bits % 2 ^ ssiBits e : Nat) : Int)
      age := e.transferAge, stamp := e.transferAt, errSeq := 0, ssiFault := false } := by
  simp only [ssiWord, hm, ht, hp, Bool.and_self, Bool.not_true, Bool.false_eq_true, if_false, if_true]

theorem ssiWord_fails (hm : encSsi e = true) (ht : e.transfer = true)
    (hf : ssiPasses e started (bits % 2 ^ ssiBits e) check = false) :
    ssiWord now started bits check e = { e with
      transfer := false, pauseUntil := now + 800 * (field e.cfg 28 23 + 1)
      errCnt := satInc e.errCnt, errSeq := Nat.min (e.errSeq + 1) 16 } := by
  simp only [ssiWord, hm, ht, hf, Bool.and_self, Bool.not_true, Bool.false_eq_true, if_false]

theorem ssiWord_transfer (hm : encSsi e = true) : (ssiWord now started bits check e).transfer = false := by
  cases ht : e.transfer
  · simp [ssiWord, ht]
  · cases hp : ssiPasses e started (bits % 2 ^ ssiBits e) check
    · rw [ssiWord_fails hm ht hp]
    · rw [ssiWord_passes hm ht hp]

/-! ## An error run (R160) -/

/-- A message about another source leaves a kind as it is. -/
theorem isPresent_send_other {kind source sent other detail : Nat} (h : other ≠ source) :
    isPresent (send s sent other detail) kind source = isPresent s kind source := by
  simp [isPresent, send, h]

/-- An onset ends no other source's. -/
theorem isPresent_raiseState_mono {kind source other detail : Nat} (h : isPresent s kind source = true) :
    isPresent (raiseState s kind other detail) kind source = true := by
  by_cases hs : other = source
  · exact hs ▸ isPresent_raiseState
  · unfold raiseState
    split
    · exact h
    · rw [isPresent_send_other hs, h]

/-- The collector's inputs with these messages on the way. -/
def withInbox (s : State) (inbox : List Stamped) : State := { s with flt := { s.flt with inbox := inbox } }

/-- A running channel that reads the encoder reports its error run. -/
def reportRun (enc : Fin 32) (s : State) (c : Fin 128) : State :=
  if s.ch[c].state == .running && readsEnc s.ch[c].cfg enc then raiseUnit s c 0x06 4 else s

theorem reportRun_frame (c : Fin 128) : ∃ inbox, reportRun enc s c = withInbox s inbox := by
  unfold reportRun raiseUnit raiseState
  split
  · split
    · exact ⟨s.flt.inbox, rfl⟩
    · exact ⟨_, rfl⟩
  · exact ⟨s.flt.inbox, rfl⟩

theorem isPresent_reportRun_mono {c : Fin 128} {source : Nat} (h : isPresent s 0x06 source = true) :
    isPresent (reportRun enc s c) 0x06 source = true := by
  unfold reportRun
  split
  · exact isPresent_raiseState_mono h
  · exact h

theorem isPresent_reportRun {c : Fin 128} (hr : s.ch[c].state = .running) (he : readsEnc s.ch[c].cfg enc = true) :
    isPresent (reportRun enc s c) 0x06 (unitSource c) = true := by
  rw [reportRun, if_pos (by simp only [hr, he, beq_self_eq_true, Bool.and_self])]
  exact isPresent_raiseState

theorem isPresent_foldl_reportRun_mono {source : Nat} (l : List (Fin 128)) (h : isPresent s 0x06 source = true) :
    isPresent (l.foldl (reportRun enc) s) 0x06 source = true :=
  List.foldlRecOn (motive := fun t => isPresent t 0x06 source = true) l (reportRun enc) h fun _ ht _ _ =>
    isPresent_reportRun_mono ht

/-- The reports touch the collector's inputs alone, and each channel of the list that runs and reads has its onset. -/
theorem foldl_reportRun (l : List (Fin 128)) : ∃ inbox, l.foldl (reportRun enc) s = withInbox s inbox ∧
    ∀ c ∈ l, s.ch[c].state = .running → readsEnc s.ch[c].cfg enc = true →
      isPresent (withInbox s inbox) 0x06 (unitSource c) = true := by
  induction l generalizing s with
  | nil => exact ⟨s.flt.inbox, rfl, fun _ h => nomatch h⟩
  | cons d l ih =>
    obtain ⟨first, hfirst⟩ := reportRun_frame (s := s) (enc := enc) d
    obtain ⟨inbox, hfold, hall⟩ := ih (s := withInbox s first)
    have hwhole : (d :: l).foldl (reportRun enc) s = withInbox s inbox := by
      rw [List.foldl_cons, hfirst, hfold]
      rfl
    refine ⟨inbox, hwhole, fun c hc hr he => ?_⟩
    rcases List.mem_cons.mp hc with rfl | hmem
    · rw [← hwhole]
      exact isPresent_foldl_reportRun_mono l (isPresent_reportRun hr he)
    · exact hall c hmem hr he

theorem exec_ssiErrorRun (hm : encSsi s.seq.enc[enc] = true) (hf : s.seq.enc[enc].ssiFault = false)
    (hn : field s.seq.enc[enc].errRun 3 0 + 1 ≤ s.seq.enc[enc].errSeq) : exec (.ssiErrorRun enc) s =
      .next (forCh (updEnc s enc fun x => { x with ssiFault := true }) (reportRun enc)) := by
  refine congrArg Host.Outcome.next (if_pos ?_)
  simp only [hm, hf, decide_eq_true hn]
  rfl

/-- Settles O23: the counts and the words from what each does to its encoder, the error run from the reports. -/
theorem encoders : Obligations.Encoders := by
  unfold Obligations.Encoders
  refine ⟨fun enc d s hl hq => ?_, fun enc s hl hq => ?_, fun enc started bits check s hm ht => ?_,
    fun enc s hm hf hn => ?_⟩
  · rw [exec_encQuadEdge hl]
    cases d <;> simp only [updEnc, quadEdge, hq, Bool.false_eq_true, if_false]
  · refine ⟨indexBad s.seq.enc[enc], ?_, indexBad_of_no_test, fun hz z => indexBad_eq_false_iff hz⟩
    rw [exec_encIndexEdge hl, updEnc, zEdge_quadrature hq]
  · refine ⟨ssiWord s.tb.now started bits check s.seq.enc[enc], rfl, ssiWord_transfer hm,
      fun hp => ?_, fun hp => ?_⟩
    · rw [ssiWord_passes hm ht hp]
      refine ⟨rfl, rfl, rfl, rfl, rfl, fun hbin => ?_, fun hgray => ?_⟩
      · simp only [hbin, Bool.false_eq_true, if_false]
      · exact ⟨fromGray (bits % 2 ^ ssiBits s.seq.enc[enc]) (ssiBits s.seq.enc[enc]), by simp only [hgray, if_true],
          gray_fromGray_of_lt (Nat.mod_lt bits (Nat.two_pow_pos _))⟩
    · rw [ssiWord_fails hm ht hp]
      exact ⟨rfl, rfl, rfl⟩
  · obtain ⟨inbox, hfold, hall⟩ :=
      foldl_reportRun (s := updEnc s enc fun x => { x with ssiFault := true }) (enc := enc) (List.finRange 128)
    refine ⟨inbox, ?_, fun c hr he => ?_⟩
    · rw [exec_ssiErrorRun hm hf hn, forCh, hfold]
      rfl
    · exact (isPresent_congr rfl).trans (hall c (List.mem_finRange c) hr he)

end Sys2Proof.Machine
end

section
/-!
PROOF. The invariants at reset (R212, R254, R281, R290, R341): every queue, lock and comb is a copy of one, the store
lists no byte, and O5 from these.
-/

namespace Sys2Proof.Machine

theorem queuesBalanced_reset : queuesBalanced State.reset := fun q => by
  have hq : State.reset.sq[q] = Queue.reset := Vector.getElem_replicate _
  rw [hq]
  exact Queue.reset_balanced

theorem locksLegal_reset : locksLegal State.reset := fun l => by
  have hl : State.reset.lock[l] = 0 := Vector.getElem_replicate _
  rw [hl]
  exact Nat.zero_le 8

theorem storeCanonical_reset : storeCanonical State.reset := rfl

theorem waggleLegal_reset : waggleLegal State.reset :=
  ⟨⟨nofun, nofun⟩, fun _ => rfl⟩

theorem combsLegal_reset : combsLegal State.reset := fun c => by
  have hc : State.reset.comb[c] = Comb.reset := Vector.getElem_replicate _
  rw [hc]
  exact Comb.reset_legal

/-- Settles O5: each invariant from the reset value of what it speaks of. -/
theorem resetIsSound : Obligations.ResetIsSound := by
  unfold Obligations.ResetIsSound
  exact ⟨queuesBalanced_reset, locksLegal_reset, storeCanonical_reset, waggleLegal_reset, combsLegal_reset⟩

end Sys2Proof.Machine
end

section
/-!
PROOF. Calibration and repair requests (R189, R202, R208, R210, R212, R213, R393, R395): what each command leaves of
its unit and of its comb, and O27 from these.
-/

namespace Sys2Proof.Machine

variable {s : State} {ch : Fin 128} {comb : Fin 16} {p : Fin 144} {i : Fin 8}

/-! ## One unit, one comb -/

/-- An update that changes nothing of its unit changes nothing. -/
theorem updUnit_unchanged {f : CalUnit → CalUnit} (h : f s.unit[p] = s.unit[p]) : updUnit s p f = s := by
  rw [updUnit, h, Fin.getElem_fin, Vector.set_getElem_self]

theorem updUnit_updUnit {f g : CalUnit → CalUnit} :
    updUnit (updUnit s p f) p g = updUnit s p fun u => g (f u) := by
  simp only [updUnit, Fin.getElem_fin, Vector.getElem_set_self, Vector.set_set]

theorem updComb_updComb {f g : Comb → Comb} :
    updComb (updComb s comb f) comb g = updComb s comb fun k => g (f k) := by
  simp only [updComb, Fin.getElem_fin, Vector.getElem_set_self, Vector.set_set]

theorem updComb_updUnit {f : Comb → Comb} {g : CalUnit → CalUnit} :
    updComb (updUnit s p g) comb f = updUnit (updComb s comb f) p g := rfl

/-! ## INTERNAL, REQ_ALL and the 1 ms check (R189, R376, R393) -/

theorem exec_internal (hr : regsUp s = true) : exec (.internal p) s = .next (updUnit s p calInternal) :=
  congrArg Host.Outcome.next (if_pos hr)

theorem exec_reqAll (hr : regsUp s = true) : exec .reqAll s = .next (reqAllUnits s) :=
  congrArg Host.Outcome.next (if_pos hr)

theorem exec_calTriggerCheck (hr : regsUp s = true) : exec .calTriggerCheck s = .next (triggerCheck s) :=
  congrArg Host.Outcome.next (if_pos hr)

theorem calInternal_busy {u : CalUnit} (h : u.running ∨ runDue u = true) : calInternal u = u :=
  if_pos (by simpa using h)

theorem calInternal_free {u : CalUnit} (h : ¬ (u.running ∨ runDue u = true)) :
    calInternal u = { u with dueReq := true } :=
  if_neg (by simpa using h)

theorem reqAllUnits_unit : (reqAllUnits s).unit[p] =
    if s.unit[p].running then s.unit[p] else { s.unit[p] with dueReq := true } := by
  simp only [reqAllUnits, Fin.getElem_fin, Vector.getElem_map]

theorem triggerCheck_unit : (triggerCheck s).unit[p] =
    checkUnit s.cal s.tb.now (combTemp s (unitComb p)) (unitInRun s p) s.unit[p] := by
  simp only [triggerCheck, Fin.getElem_fin, Vector.getElem_ofFn]

theorem triggerCheck_inRun (h : unitInRun s p = true) : (triggerCheck s).unit[p] = s.unit[p] := by
  rw [triggerCheck_unit, h]
  exact if_pos rfl

/-- Without automatic calibration the check leaves no automatic trigger. -/
theorem checkUnit_autoOff {k : CalGlobal} {now : Nat} {T : Rat} {u : CalUnit} (h : k.autoEn = false) :
    (checkUnit k now T false u).dueTemp = false ∧ (checkUnit k now T false u).dueAge = false := by
  simp only [checkUnit, h, Bool.not_false, if_true, Bool.false_eq_true, if_false, forgetGone]
  split <;> exact ⟨rfl, rfl⟩

theorem triggerCheck_autoOff (hoff : s.cal.autoEn = false) (hno : unitInRun s p = false) :
    (triggerCheck s).unit[p].dueTemp = false ∧ (triggerCheck s).unit[p].dueAge = false := by
  rw [triggerCheck_unit, hno]
  exact checkUnit_autoOff hoff

/-! ## Terminal commands (R208, R210) -/

theorem exec_termCommand {c : Instr} {k : RunKind} (hr : regsUp s = true)
    (hc : c = .termOpen ch ∧ k = .termOpen ∨ c = .termShort ch ∧ k = .termShort) :
    exec c s = .next (calTerm s ch k) := by
  rcases hc with ⟨rfl, rfl⟩ | ⟨rfl, rfl⟩ <;> exact congrArg Host.Outcome.next (if_pos hr)

theorem exec_termClear (hr : regsUp s = true) : exec (.termClear ch) s = .next (calTermClear s ch) :=
  congrArg Host.Outcome.next (if_pos hr)

theorem calTerm_eq {k : RunKind} : calTerm s ch k = updUnit s (assignedUnit s ch) fun u =>
    if termOk s ch then { u with dueTerm := u.dueTerm ++ [k] } else { u with cmdRej := true } := by
  cases h : termOk s ch <;> simp [calTerm, h]

theorem calTermClear_refused (h : termOk s ch = false) :
    calTermClear s ch = updUnit s (assignedUnit s ch) fun u => { u with cmdRej := true } :=
  if_neg (by simp [h])

theorem calTermClear_accepted (h : termOk s ch = true) : calTermClear s ch =
    beginCommit s (combOf ch) s.comb[combOf ch].map[slotOf ch]
      { latestRec s (combOf ch) s.comb[combOf ch].map[slotOf ch] with openOk := false, shortOk := false } :=
  if_pos h

/-! ## REPAIR and RELEASE (R212, R213, R395) -/

theorem exec_repair {unit : Fin 16} (hr : regsUp s = true) :
    exec (.repair comb unit) s = .next (repairUnit s comb unit.val) :=
  congrArg Host.Outcome.next (if_pos hr)

theorem exec_release (hr : regsUp s = true) : exec (.release comb) s = .next (releaseUnit s comb) :=
  congrArg Host.Outcome.next (if_pos hr)

theorem repairUnit_accepted (ha : s.comb[comb].assigned = 15) (hs : spareOut s comb = false)
    (hi : repairing s.comb[comb] = false)
    (hq : s.ch[chanAt comb i].state = .safed ∨ s.ch[chanAt comb i].state = .stopped) :
    repairUnit s comb i.val = tryRepair (updComb s comb fun k => { k with repairPend := some i }) comb := by
  rw [repairUnit, dif_pos i.isLt]
  refine if_neg ?_
  rcases hq with hq | hq <;> simp only [ha, hs, hi, hq] <;> decide

theorem repairUnit_refused {unit : Nat}
    (h : 8 ≤ unit ∨ s.comb[comb].assigned ≠ 15 ∨ spareOut s comb = true ∨ repairing s.comb[comb] = true ∨
      ∃ i : Fin 8, i.val = unit ∧ s.ch[chanAt comb i].state ≠ .safed ∧ s.ch[chanAt comb i].state ≠ .stopped) :
    repairUnit s comb unit = cmbRej s comb := by
  by_cases hu : unit < 8
  · rw [repairUnit, dif_pos hu]
    refine if_pos ?_
    simp only [Bool.or_eq_true, bne_iff_ne, Bool.not_eq_true', Bool.or_eq_false_iff, beq_eq_false_iff_ne]
    rcases h with h | h | h | h | ⟨i, rfl, h⟩
    · omega
    · exact .inl (.inl (.inl h))
    · exact .inl (.inl (.inr h))
    · exact .inl (.inr h)
    · exact .inr h
  · exact dif_neg hu

theorem tryRepair_waits (hp : s.comb[comb].parallel = true) : tryRepair s comb = s := by
  unfold tryRepair
  split
  · rfl
  · exact if_pos hp

/-- With the spare in no run the commit that gives it the failed unit's terminal fields begins. -/
theorem tryRepair_begins (hi : s.comb[comb].repairPend = some i) (hp : s.comb[comb].parallel = false)
    (hr : spareInRun s.comb[comb].run = false) : tryRepair s comb =
      beginCommit (updComb s comb fun k => { k with repairPend := none, repairCommit := some i }) comb 8
        (repairRec s comb i) := by
  simp only [tryRepair, hi, hp, hr, Bool.false_eq_true, if_false]

/-- The records a repair builds on are those before its request. -/
theorem repairRec_asked {j : Option (Fin 8)} :
    repairRec (updComb s comb fun k => { k with repairPend := j }) comb i = repairRec s comb i := by
  simp only [repairRec, latestRec, updComb_self, updComb_unit]

theorem releaseUnit_accepted (ha : s.comb[comb].assigned = i.val) (hs : s.ch[chanAt comb i].state = .stopped) :
    releaseUnit s comb = updComb s comb fun k => { k with releasePend := true } := by
  simp only [releaseUnit, ha, i.isLt, dif_pos, hs, if_true]

theorem releaseUnit_refused (h : s.comb[comb].assigned = 15 ∨
      ∃ i : Fin 8, i.val = s.comb[comb].assigned ∧ s.ch[chanAt comb i].state ≠ .stopped) :
    releaseUnit s comb = cmbRej s comb := by
  rcases h with h | ⟨i, ha, hs⟩
  · exact dif_neg (by omega)
  · simp only [releaseUnit, ← ha, i.isLt, dif_pos, hs, if_false]

/-! ## The end of a repair's commit (R202, R212) -/

theorem exec_calCommitDone {c : SlotCheck} (hl : channelsLive s = true) :
    exec (.calCommitDone comb c) s = .next (commitDone s comb c.first c.second) :=
  congrArg Host.Outcome.next (if_pos hl)

/-- A commit of the spare's record outside a run: the spare shows it, and the repair's map change is due. -/
theorem afterCommit_repair {x : Record} (hr : s.comb[comb].run = none) (hm : s.comb[comb].repairCommit = some i) :
    afterCommit s comb 8 x = updComb (updUnit s (unitAt comb 8) fun u => showRec (unitAt comb 8) u) comb fun k =>
      { k with repairCommit := none, mapPend := some i } := by
  simp only [afterCommit, hr, Option.filter_none, repairCommitted, updUnit_comb, hm]
  rfl

theorem commitDone_repair {x : Record} {l : List (Fin 9 × Record)} (hc : s.comb[comb].commits = (8, x) :: l)
    (hr : s.comb[comb].run = none) (hm : s.comb[comb].repairCommit = some i) : commitDone s comb true true =
      updUnit (updComb s comb fun k => { k with commits := l, repairCommit := none, mapPend := some i })
        (unitAt comb 8) fun u => showRec (unitAt comb 8) (writeCheck (unitAt comb 8) u x) := by
  simp only [commitDone, hc, writeBack, Bool.or_self, if_true]
  rw [afterCommit_repair (i := i) (by simpa [updComb] using hr) (by simpa [updComb] using hm), updUnit_updUnit,
    updComb_updUnit, updComb_updComb]

/-- Settles O27: each clause from what its command leaves of the one unit or comb it reaches. -/
theorem calibrationAndRepairRequests : Obligations.CalibrationAndRepairRequests := by
  unfold Obligations.CalibrationAndRepairRequests
  refine ⟨fun unit s hr => ?_, fun s hr => ?_, fun ch c k s hr hc => ?_, fun ch s hr ht => ?_,
    fun ch i rec_ s hr ht hi hrec => ?_, fun s hr => ?_,
    fun comb i s hr ha hs hi hq => ⟨fun hp hrun => ?_, fun hp => ?_⟩, fun comb i rec_ l s hl hc hrun hm => ?_,
    fun comb unit s hr h => ?_, fun comb i s hr ha hs => ?_, fun comb s hr h => ?_⟩
  · rw [exec_internal hr]
    split
    next h => rw [updUnit_unchanged (calInternal_busy h)]
    next h => rw [updUnit, calInternal_free h]
  · exact ⟨_, exec_reqAll hr, fun _ => reqAllUnits_unit⟩
  · rw [exec_termCommand hr hc, calTerm_eq]
    rfl
  · rw [exec_termClear hr, calTermClear_refused ht]
    rfl
  · subst hi hrec
    rw [exec_termClear hr, calTermClear_accepted ht]
    rfl
  · exact ⟨_, exec_calTriggerCheck hr, fun _ => ⟨triggerCheck_autoOff, triggerCheck_inRun⟩⟩
  · rw [exec_repair hr, repairUnit_accepted ha hs hi hq,
      tryRepair_begins (i := i) (by rw [updComb_self]) (by rw [updComb_self]; exact hp)
        (by rw [updComb_self]; exact hrun),
      repairRec_asked, updComb_updComb, beginCommit, updComb_updUnit, updComb_updComb]
    rfl
  · rw [exec_repair hr, repairUnit_accepted ha hs hi hq, tryRepair_waits (by rw [updComb_self]; exact hp)]
    rfl
  · rw [exec_calCommitDone hl, commitDone_repair hc hrun hm]
    rfl
  · rw [exec_repair hr, repairUnit_refused h]
    rfl
  · rw [exec_release hr, releaseUnit_accepted ha hs]
    rfl
  · rw [exec_release hr, releaseUnit_refused h]
    rfl

end Sys2Proof.Machine
end

section
/-!
PROOF. The collector's commands (R280, R282, R285, R286, R364): with nothing waiting, an access only begins its tick;
what an acknowledgement, a clearing and a read then leave, and O31 from these.
-/

namespace Sys2Proof.Machine

variable {s : State} {f : Collector} {k t : Nat} {v : Word} {m : Master} {slot : Fin 33}

/-! ## An access with nothing waiting (R279, R285) -/

theorem drain_quiet (hi : s.flt.inbox = []) : drain s = s := by
  have hdrop : updFlt s (fun f => { f with inbox := [] }) = s := by rw [updFlt, ← hi]
  simp [drain, hi, groupTicks, hdrop]

theorem collect_quiet (hi : s.flt.inbox = []) : collect s = s := by
  simp [collect, hi, drain_quiet]

/-- An access in a tick of its own begins it, whether the timebase runs or not. -/
theorem accessTick_later (ht : s.flt.tick ≠ s.tb.now) :
    accessTick s = updFlt s fun f => newTick f s.tb.now := by
  simp [accessTick, updFlt, beginTick, ht]

theorem accessTick_collect (hi : s.flt.inbox = []) (ht : s.flt.tick ≠ s.tb.now) :
    accessTick (collect s) = updFlt s fun f => newTick f s.tb.now := by
  rw [collect_quiet hi, accessTick_later ht]

/-! ## Acknowledgement (R280) -/

theorem outLevel_fin {i : Fin 29} : outLevel f i.val = f.outLvl[i] := dif_pos i.isLt
theorem setOutLevel_fin {i : Fin 29} {l : Nat} : setOutLevel f i.val l = { f with outLvl := f.outLvl.set i l } :=
  dif_pos i.isLt

theorem setOutLevel_frame {l : Nat} : setOutLevel f k l = { f with outLvl := (setOutLevel f k l).outLvl } := by
  unfold setOutLevel
  split <;> rfl

/-- An acknowledgement touches OUTLVL and ACK_REJ alone. -/
theorem ackKind_frame :
    ackKind f k = { f with outLvl := (ackKind f k).outLvl, ackRej := (ackKind f k).ackRej } := by
  unfold ackKind
  split
  · rfl
  · split
    · rfl
    · rw [setOutLevel_frame]

@[simp] theorem ackKind_present : (ackKind f k).present = f.present := by rw [ackKind_frame]
@[simp] theorem ackKind_latch : (ackKind f k).latch = f.latch := by rw [ackKind_frame]
@[simp] theorem ackKind_hist : (ackKind f k).hist = f.hist := by rw [ackKind_frame]

theorem ackKind_held (h0 : outLevel f k ≠ 0) (hc : curOf f k = true) : ackKind f k = { f with ackRej := true } := by
  simp [ackKind, h0, hc]

theorem ackKind_free (h0 : outLevel f k ≠ 0) (hc : curOf f k = false) (hk : f.tickKinds = []) :
    ackKind f k = setOutLevel f k 0 := by
  simp [ackKind, h0, hc, hk]

/-- The collector in a tick of its own whose one access names a kind for acknowledgement. -/
def ackTicked (f : Collector) (t k : Nat) : Collector := { newTick f t with tickAcks := [k] }

theorem ackNames_one (hb : bit v 31 = false) (h1 : 1 ≤ field v 7 0) (h28 : field v 7 0 ≤ 28) :
    ackNames v = [field v 7 0] := by
  simp [ackNames, hb, isOnset, h1, h28]

theorem ackNames_undefined (hb : bit v 31 = false) (hv : field v 7 0 = 0 ∨ 28 < field v 7 0) : ackNames v = [] := by
  have hno : isOnset (field v 7 0) = false := by
    rw [isOnset, Bool.and_eq_false_iff, decide_eq_false_iff_not, decide_eq_false_iff_not]
    omega
  simp [ackNames, hb, hno]

theorem exec_fltAck (hr : regsUp s = true) : exec (.fltAck v) s = .next (ackFaults s v) :=
  congrArg Host.Outcome.next (if_pos hr)

theorem ackFaults_one (hs : s.mod.collStall = false) (hi : s.flt.inbox = []) (ht : s.flt.tick ≠ s.tb.now)
    (hn : ackNames v = [k]) :
    ackFaults s v = pruneSpares (updFlt s fun f => ackKind (ackTicked f s.tb.now k) k) := by
  simp only [ackFaults, hs, hn, collect_quiet hi, accessTick_later ht, Bool.false_eq_true, if_false, List.isEmpty_cons,
    List.foldl_cons, List.foldl_nil]
  rfl

theorem ackFaults_undefined (hs : s.mod.collStall = false) (hi : s.flt.inbox = []) (hn : ackNames v = []) :
    ackFaults s v = updFlt s fun f => { f with setRej := true } := by
  simp [ackFaults, hs, hn, collect_quiet hi]

/-! ## Clearing (R285, R286, R364): with no entry in the tick, the history is what the clearing leaves of it -/

theorem exec_histClr (hr : regsUp s = true) (hs : s.mod.collStall = false) (hi : s.flt.inbox = [])
    (ht : s.flt.tick ≠ s.tb.now) : exec .histClr s = .next (updFlt s fun f => { newTick f s.tb.now with
      base := { f.hist with cnt := 0, slots := Vector.replicate 32 0 }
      hist := { f.hist with cnt := 0, slots := Vector.replicate 32 0 } }) := by
  have hc : clearHist s = updFlt (accessTick (collect s)) fun f =>
      reRecord { f with base := { f.base with cnt := 0, slots := Vector.replicate 32 0 } } := by simp [clearHist, hs]
  refine (congrArg Host.Outcome.next (if_pos hr)).trans ?_
  rw [hc, accessTick_collect hi ht]
  rfl

theorem exec_firstClr (hr : regsUp s = true) (hs : s.mod.collStall = false) (hi : s.flt.inbox = [])
    (ht : s.flt.tick ≠ s.tb.now) : exec .firstClr s = .next (updFlt s fun f => { newTick f s.tb.now with
      base := { f.hist with first := 0, firstValid := false }
      hist := { f.hist with first := 0, firstValid := false } }) := by
  have hc : clearFirst s = updFlt (accessTick (collect s)) fun f =>
      reRecord { f with base := { f.base with first := 0, firstValid := false } } := by simp [clearFirst, hs]
  refine (congrArg Host.Outcome.next (if_pos hr)).trans ?_
  rw [hc, accessTick_collect hi ht]
  rfl

/-! ## Reads of the history (R13, R285) -/

/-- What a master has just latched under a key is what it holds there. -/
theorem heldOf_holdNew {α : Type} {l : List (Nat × Nat × α)} {id a : Nat} {x : α} :
    heldOf (holdNew l id a x) id a = some x := by
  simp [heldOf, holdNew]

theorem exec_fltHistW0LoRead (hr : regsUp s = true) (hm : masterUp s m = true) :
    exec (.fltHistW0LoRead m slot) s = .next (updBus s fun b => { b with
      read := (histEntry s.flt slot).extractLsb' 0 32
      histLatches := holdNew b.histLatches m.id slot.val (histEntry s.flt slot) }) := by
  have hup : (regsUp s && masterUp s m) = true := by rw [hr, hm]; rfl
  exact congrArg Host.Outcome.next (if_pos hup)

/-- Settles O31: each command begins a tick of its own, and does there what its equation says. -/
theorem collectorCommands : Obligations.CollectorCommands := by
  unfold Obligations.CollectorCommands
  refine ⟨fun v k s hr hs hi ht hb hv h1 h0 => ?_, fun v s hr hs hi hb hv => ?_, fun s hr hs hi ht => ?_,
    fun s hr hs hi ht => ?_, fun m slot s hr hm => ?_⟩
  · have hn : ackNames v = [k.val] := hv ▸ ackNames_one hb (by omega) (by omega)
    have hlevel : outLevel (ackTicked s.flt s.tb.now k.val) k.val ≠ 0 := outLevel_fin ▸ h0
    refine ⟨_, (exec_fltAck hr).trans (congrArg _ (ackFaults_one hs hi ht hn)), rfl, fun c => ?_,
      ackKind_present, ackKind_latch, ackKind_hist, fun hc => ?_, fun hc => ?_⟩
    · simp [pruneSpares]
    · have hfree := (ackKind_free hlevel hc rfl).trans setOutLevel_fin
      exact ⟨(congrArg Collector.outLvl hfree :), (congrArg Collector.ackRej hfree :)⟩
    · have hheld := ackKind_held hlevel hc
      exact ⟨(congrArg Collector.outLvl hheld :), (congrArg Collector.ackRej hheld :)⟩
  · rw [exec_fltAck hr, ackFaults_undefined hs hi (ackNames_undefined hb hv)]
    rfl
  · exact ⟨_, exec_histClr hr hs hi ht, rfl, rfl, fun _ => Vector.getElem_replicate _, rfl, rfl, rfl, rfl⟩
  · exact ⟨_, exec_firstClr hr hs hi ht, rfl, rfl, rfl, rfl, rfl, rfl, rfl⟩
  · exact ⟨_, exec_fltHistW0LoRead hr hm, heldOf_holdNew⟩

end Sys2Proof.Machine
end

section
/-!
PROOF. Onsets and ends while the timebase stands still (R279, R280): there the collector begins a tick at each access,
so what it held of the tick in process counts no more. A BOOT whose PLL does not lock ends in LOCKDOWN with the timebase
stopped (R50, R53), where the registers answer; O29 and O30, which go on in the tick in process, fail there.
-/

namespace Sys2Proof.Machine

variable {s : State} {kind source : Nat} {ms : List Msg}

theorem exec_faultOnset : exec (.faultOnset ms) s = .next (takeMessages s (ms.filter fun m => isOnset m.kind)) := rfl

theorem exec_faultEnd (hk : isOnset kind = true) : exec (.faultEnd kind source) s =
    .next (takeMessages s [⟨kind + 0x80, source, endDetail s source⟩]) := by
  simp [exec, execFaultEnd, hk]

/-- LOCKDOWN before the timebase has started, everything else at its reset. -/
def stoppedLockdown : State := { State.reset with mod := { Mod.reset with mode := .lockdown } }

/-- There OPEN_LOAD, an event kind, came from unit 0 and was acknowledged. -/
def openLoadAcked : State := ackFaults (takeMessages stoppedLockdown [⟨4, 0, 0⟩]) 4

/-- There OVERCURRENT, a state kind, came from unit 0, and FLT_ACK was rejected, for the unit holds it still. -/
def overcurrentHeld : State := ackFaults (takeMessages stoppedLockdown [⟨1, 0, 0⟩]) 1

/-- The end of OVERCURRENT as unit 0 sends it. -/
def overcurrentEnd : Msg := ⟨0x81, 0, endDetail overcurrentHeld 0⟩

/-- The tick of the acknowledgement began with OPEN_LOAD at level 1, so in that tick it escalates to level 2. -/
theorem resultLevel_openLoadAcked :
    resultLevel (beginTick openLoadAcked.flt openLoadAcked.tb.now) ⟨4, 0, 0⟩ = 2 := by decide

/-- The onset begins a tick of its own, before which OPEN_LOAD stands at level 0: it is given unit 0's level. -/
theorem openLoadAcked_onset : (takeMessages openLoadAcked [⟨4, 0, 0⟩]).flt.outLvl[4] = 1 := by decide +kernel

/-- The end begins a tick of its own, in which nothing is acknowledged: the level stays, though no unit holds the
kind. -/
theorem overcurrentHeld_end : curOf (takeMessages overcurrentHeld [overcurrentEnd]).flt 1 = false ∧
    (takeMessages overcurrentHeld [overcurrentEnd]).flt.outLvl[1] = 1 := by decide

/-- Refutes O29: with the timebase stopped, OPEN_LOAD comes again after its acknowledgement. The statement takes the
snapshot of the acknowledgement's tick and asks for level 2; the collector has begun another tick and gives level 1. -/
theorem not_onsetIsTaken : ¬ Obligations.OnsetIsTaken := by
  unfold Obligations.OnsetIsTaken
  intro h
  obtain ⟨t, ht, -, hlevel, -⟩ := h ⟨4, 0, 0⟩ openLoadAcked 4 (by decide) (by decide)
    (by decide) (by decide) rfl
  obtain rfl := Host.Outcome.next.inj (exec_faultOnset.symm.trans ht)
  have h21 : 2 ≤ 1 := resultLevel_openLoadAcked ▸ openLoadAcked_onset ▸ hlevel
  omega

/-- Refutes O30: with the timebase stopped, OVERCURRENT ends after its acknowledgement was rejected. The statement has
the acknowledgement succeed with the end; the collector has begun another tick and leaves the level at 1. -/
theorem not_endsAndNotices : ¬ Obligations.EndsAndNotices := by
  unfold Obligations.EndsAndNotices
  rintro ⟨hend, -⟩
  obtain ⟨t, ht, -, -, -, hack, -⟩ := hend 1 0 overcurrentHeld (by decide) (by decide)
    (by decide) (Nat.le_refl 1) (by decide)
  obtain rfl := Host.Outcome.next.inj ((exec_faultEnd rfl).symm.trans ht)
  obtain ⟨hgone, hkept⟩ := overcurrentHeld_end
  have h10 : 1 = 0 :=
    hkept.symm.trans (hack 1 (by decide) (by decide) (by decide) hgone)
  omega

end Sys2Proof.Machine
end
